-- ==== Sys2Proof/Word.lean ====
section
/-!
DEFINITION. The word types of the model and nothing else: every helper over them stands in Sys2Proof/Machine/.
-/

namespace Sys2Proof

/-- A byte, the smallest addressable unit (R10). -/
abbrev Byte := BitVec 8
/-- A scalar register, a control-page register, a Colyr register (R68, R99, R414). -/
abbrev Word64 := BitVec 64
/-- The bits of an FP32 or INT32 value (R34). -/
abbrev Bits32 := BitVec 32
/-- An instruction word: 128 bits (R65). -/
abbrev InstrWord := BitVec 128
/-- A string of bytes as it travels in a message or a transfer, first byte first (R10). -/
abbrev Bytes := List Byte

end Sys2Proof
end

