-- ==== Sys2Proof/Syntax.lean ====
section
/-!
DEFINITION. The commands of the block: one constructor of `Instr` for each row of spec/opcode_table.json, with the operands the event carries.
-/

namespace Sys2Proof

/-- The kinds of unit that run tasks, encoded as TASK.KIND (R92) and DW_SEL.KIND (R374). -/
inductive UnitKind where
  | cluster | pipeline | move | video
deriving DecidableEq, Repr

/-- A physical unit: die 0-23 for compute units, 24-27 (IO0-IO3) for video engines; index on that die (R13, R18, R19). -/
structure UnitId where
  die : Nat
  kind : UnitKind
  idx : Nat
deriving DecidableEq, Repr

/-- The MACsec protection a received frame carries (R329). PRESUMED: log entry 106. -/
structure MacSec where
  /-- the secure channel identifier in the SecTAG -/
  sci : Word64
  /-- association number: the key set it was sent under, modulo 4 -/
  an : Nat
  /-- extended packet number -/
  pn : Nat
  /-- the integrity check value verifies under that key -/
  icvOk : Bool
deriving DecidableEq, Repr

/-- What surrounds a received frame (R278, R327 to R330). DESIGN CHOICE: log entry 13. -/
structure FrameInfo where
  /-- its source MAC address -/
  mac : BitVec 48
  /-- the ICRC and FCS are right (R278) -/
  crcOk : Bool
  /-- the MACsec protection, when it has one (R329) -/
  sec : Option MacSec
  /-- PCP of its 802.1Q tag, when it has one, and its DSCP (R327) -/
  pcp : Option Nat
  dscp : Nat
  /-- the packet is CE-marked (R327) -/
  ce : Bool
  /-- 50 µs have passed since the last CNP the module sent on this queue pair (R327) -/
  cnpDue : Bool
  /-- bytes in use, once the frame has arrived, of the receive region its priority goes to (R328) -/
  occupancy : Nat
deriving DecidableEq, Repr

/-- The segment headers of an attach message as far as it has arrived (R334). -/
structure MsgHead where
  aver : Nat
  /-- the reserved bytes 6 to 7 and 30 to 31, as a number -/
  rsv : Nat
  sid : Nat
  mseq : Nat
  mlen : Nat
  /-- OFF and SLEN of the segments -/
  segs : List (Nat × Nat)
deriving DecidableEq, Repr

/-- The key an RDMA access uses: a context's host-mapped region, a context's control page, or the host window (R342, R423). -/
inductive RKey where
  | ctxMem (ctx : Nat)
  | ctrlPage (ctx : Nat)
  | hostWindow
deriving DecidableEq, Repr

/-- An ATTACH_REQ: its logical port, its header and its body (R334, R336). -/
structure AttachReq where
  port : Nat
  head : MsgHead
  avmin : Nat
  avmax : Nat
  umax : Nat
  /-- the ENC byte -/
  enc : Nat
  /-- the reserved bytes 4 to 7, as a number -/
  rsv : Nat
  hnonce : BitVec 256
  hpub : Bytes
  hek : Bytes
  /-- SHA3-512 digest of HPUB, as the module computes it -/
  hkdig : BitVec 512
deriving DecidableEq, Repr

/-- A received REKEY: one of the four bodies of the key exchange without HPUB, DPUB and the report (R335). `sigOk`: the signature it carries
verifies. DESIGN CHOICE: log entry 107. -/
inductive RekeyMsg where
  | req (avmin avmax umax enc rsv : Nat) (nonce : BitVec 256) (ek : Bytes)
  | chal (nonce : BitVec 256) (ct sig : Bytes) (sigOk : Bool)
  | auth (sigOk : Bool) (conf : BitVec 512)
  | ack (result : Nat) (conf : BitVec 512)
deriving DecidableEq, Repr

/-- One host window of REGISTER (R341). -/
structure Window where
  index : Nat
  va : Nat
  len : Nat
  rkey : Nat
deriving DecidableEq, Repr

/-- The body of a REGISTER (R341). -/
structure RegisterMsg where
  evt : Bool
  /-- reserved bits of FLAGS and the reserved bytes, as a number -/
  rsv : Nat
  hqpn : Nat
  hpsn : Nat
  swapVa : Nat
  swapLen : Nat
  swapKey : Nat
  wins : List Window
deriving DecidableEq, Repr

/-- The body of a CTX_CREATE (R342). -/
structure CtxCreateMsg where
  stat : Nat
  rsv : Nat
  hqpn : Nat
  hpsn : Nat
deriving DecidableEq, Repr

/-- One tenancy entry as its 128 bytes spell it (R415). -/
abbrev TenantBits := BitVec 1024

/-- One Accord item, 32 bytes (R127). -/
abbrev ItemBits := BitVec 256

/-- A near burst with errors, as its reads give it: the symbols in error when it is first read, in each re-read, and what the via test and
the last decode find (R268, R269). DESIGN CHOICE: log entry 11. -/
structure NearRetry where
  /-- symbols in error in the burst as first read -/
  first : List Nat
  /-- the same of the re-reads; at most three are made -/
  again : List (List Nat)
  /-- symbols the near via test finds failing on the channel -/
  found : List Nat
  /-- symbols in error in the burst when it is decoded again -/
  wrong : List Nat
deriving DecidableEq, Repr

/-- A word that its code finds in error (R275, R277, R279, R296). DESIGN CHOICE: log entry 100. -/
inductive WordEvent where
  /-- a word of a far line: stack, channel, channel-local line, the nibbles in error when it is first read and in each re-read -/
  | far (stack chan line : Nat) (first : List Nat) (again : List (List Nat))
  /-- a word of a unit's scratchpad, staging, planes, spills or queues, in the data of its task -/
  | unit (u : UnitId) (wrong : List Nat)
  /-- a word on a path of a die, with one nibble in error -/
  | path (die nibble : Nat)
  /-- an encryption engine's second decryption of a data unit of a far page does not match -/
  | encryption (ctx vpage : Nat)
deriving DecidableEq, Repr

/-- A fault in firmware or unit state (R364): a PLL out of lock, an uncorrectable word in a sequencer, graph engine, task slot, control core
or queue of the island, control-class flits lost at a router. DESIGN CHOICE: log entry 100. -/
inductive StateFault where
  | pll | word | controlFlits
deriving DecidableEq, Repr

/-- One sensor interval's samples: per compute die the power, junction, near-stack and far-stack values, and the module's
input voltage, current and coolant (R422). Powers in milliwatts, temperatures in millidegrees, volts in millivolts. -/
structure Samples where
  diePower : List Nat
  junction : List Nat
  nearT : List Nat
  farT : List Nat
  inputMw : Nat
  inputMv : Nat
  inputMa : Nat
  inletMc : Nat
  outletMc : Nat
  /-- what the energy counters of the cluster, pipeline and move-engine islands gained while a task ran: unit, its context, mean power over
  the interval in milliwatts (R435) -/
  energy : List (UnitId × Nat × Nat)
deriving DecidableEq, Repr

/-- The island kinds outside the compute units, which restart alone (R376). -/
inductive IslandKind where
  | nearCtl | farCtl | router | encEngine | video | hostPort
  /-- the control group of an I/O die, under the first sentence of R376. DEDUCED: log entry 99. -/
  | ioCtl
deriving DecidableEq, Repr

/-- The reset domains of R375 whose completion is an event of its own. -/
inductive ResetDomain where
  | dieCompute (die : Nat)
  | computePart
  | module
deriving DecidableEq, Repr

/-- The commands: operations, events on pins and links, and the internal events the opcode table lists, each whole and
indivisible (95_what_each_step_holds.md). A command whose condition does not hold in the state changes nothing. -/
inductive Instr where
  -- CTRL and SYNC (R72 to R77), each the issue of the instruction at the unit's PC
  | nop (u : UnitId)
  | halt (u : UnitId)
  | br (u : UnitId)
  | loop (u : UnitId)
  | wait (u : UnitId)
  | waitResume (u : UnitId)
  | signal (u : UnitId)
  | salu (u : UnitId)
  | sli (u : UnitId)
  | scmp (u : UnitId)
  | rdsr (u : UnitId)
  | wrsr (u : UnitId)
  | lds (u : UnitId)
  | sts (u : UnitId)
  | aset (u : UnitId)
  | aget (u : UnitId)
  | tbase (u : UnitId)
  | chload (u : UnitId)
  | wcfa (u : UnitId)
  | tokset (u : UnitId)
  | tokwait (u : UnitId)
  | tokwaitResume (u : UnitId)
  | bnd (u : UnitId)
  -- MOVE (R78)
  | copy (u : UnitId)
  | fill (u : UnitId)
  | hostrd (u : UnitId)
  | hostwr (u : UnitId)
  | gather (u : UnitId)
  /-- `hostData`: the bytes a host returns for a HOSTRD, element by element in index order; `ok`: the check of the data passes (R278). -/
  | moveDone (u : UnitId) (hostData : Bytes) (ok : Bool)
  -- MMA and WIN (R79 to R82)
  /-- `detect`: the check column signals a detection (R153). -/
  | mm (u : UnitId) (detect : Bool)
  | conv (u : UnitId) (detect : Bool)
  /-- `mismatch`: a residue check fails (R179). -/
  | mmaDrain (u : UnitId) (mismatch : Bool)
  | prologueTokenResume (u : UnitId)
  -- VEC (R83)
  | vecAdd (u : UnitId)
  | vecSub (u : UnitId)
  | vecMul (u : UnitId)
  | vecFma (u : UnitId)
  | vecMin (u : UnitId)
  | vecMax (u : UnitId)
  | vecAbs (u : UnitId)
  | vecNeg (u : UnitId)
  | rsum (u : UnitId)
  | rmax (u : UnitId)
  | rmin (u : UnitId)
  | vecStats (u : UnitId)
  | vecArgmax (u : UnitId)
  | maxpool (u : UnitId)
  | avgpool (u : UnitId)
  | rand (u : UnitId)
  -- TAB, CVT, ATTN, PUSH (R84 to R87)
  | lookup (u : UnitId)
  | load (u : UnitId)
  | cvt (u : UnitId)
  | attend (u : UnitId) (detect : Bool)
  /-- `mismatch`: a residue check fails (R250). -/
  | attendPassEnd (u : UnitId) (mismatch : Bool)
  | kvappend (u : UnitId)
  | kvappendDone (u : UnitId) (mismatch : Bool)
  | push (u : UnitId)
  /-- The oldest push in flight from die `src` to die `dst` lands (R322). -/
  | pushDelivery (src dst : Nat)
  | shadowCopyDone (ctx vpage : Nat)
  -- context control page (R99 to R101)
  | sqDoorbell (ctx q : Nat) (tail : Bits32)
  | cqHeadWrite (ctx : Nat) (head : Bits32)
  | cqCfgWrite (ctx : Nat) (value : Word64)
  | sqCfgWrite (ctx q : Nat) (value : Word64)
  | registerWrite (ctx offset : Nat) (value : Word64)
  -- packets: the one at the head of queue q is fetched (R102 to R105)
  | submit (ctx q : Nat)
  | tload (ctx q : Nat)
  | tfree (ctx q : Nat)
  | templateRelease (ctx tid : Nat)
  | launch (ctx q : Nat)
  | accord (ctx q : Nat)
  | reservedPacket (ctx q : Nat)
  -- epochs and tasks (R109 to R118)
  | iterationAdmit (ctx : Nat)
  | taskAdmit (ctx : Nat)
  | taskDispatch (die : Nat) (kind : UnitKind)
  | dispatchNeighbour (ctx task : Nat)
  | taskComplete (u : UnitId) (acked : Bool)
  | boundaryCommit (ctx : Nat)
  | moduleBoundary
  -- KV paging (R238, R245 to R247)
  | leafFree (ctx seq : Nat)
  | kvSlotGrant (ctx : Nat)
  | pageSetSwapped (ctx seq page : Nat)
  /-- `ok`: the copy the host returned verifies (R247, R295). -/
  | pageSetResident (ctx seq page : Nat) (ok : Bool)
  -- memory events (R269 to R285, R391)
  | nearReadRetry (die chan line : Nat) (r : NearRetry)
  | symbolDead (die chan sym : Nat)
  | evacuationComplete (far : Bool) (die : Nat)
  /-- `balance`: firmware moves the page to that die to rebalance, and does not retire it (R285). -/
  | pageRetire (far : Bool) (die page : Nat) (balance : Option Nat)
  | pageMoveComplete (far : Bool) (die page : Nat)
  | pageScrubDone (far : Bool) (die page : Nat)
  -- maintenance (R394 to R397)
  /-- `err`: the request follows an error, not an interval (R396). -/
  | maintPeriodicRequest (act target : Nat) (err : Bool)
  | maintActivityStart (act target : Nat)
  /-- `found`: what the activity finds, symbols for NVT and lanes that fail retraining for FRT. -/
  | maintActivityDone (act target : Nat) (found : List Nat)
  -- fabric (R324, R325)
  /-- `ok`: the replay of the flit succeeds. -/
  | flitReplay (edge : Nat) (dir : Bool) (seq : Nat) (ok : Bool)
  /-- `halves`: the half-edges that fail retraining, each with whether flits were lost. -/
  | edgeRetrain (edge : Nat) (failA failB : Bool)
  -- Squall and recovery (R364 to R391)
  | squallAbortEpoch (src ctx att cause : Nat) (epoch : Word64)
  | squallAbortDie (src cause : Nat)
  | squallStopContext (src ctx code : Nat)
  | squallDrydown (src ctx : Nat)
  | quiescence (die ctx : Nat)
  | pllLossOfLock (die isl idx : Nat) (f : StateFault)
  | unitWatchExpiry (u : UnitId)
  | unitStopTimeout (u : UnitId)
  | contextWatchExpiry (ctx : Nat)
  | islandRestart (k : IslandKind) (die idx : Nat) (ok : Bool)
  /-- `failed`: the units that fail the self-test; `rom`: for a module reset nothing, the boot ROM events follow. -/
  | resetComplete (d : ResetDomain) (failed : List UnitId) (ctrlFailed : List Nat)
  | drydownComplete (ctx : Nat)
  -- ports (R326 to R330, R344)
  | linkUp (port : Nat)
  | linkDown (port : Nat)
  | lldpTransmit (port : Nat)
  | lldpReceive (port : Nat) (frame : Bytes) (f : FrameInfo)
  | arpRequest (port : Nat) (target : BitVec 32) (f : FrameInfo)
  | neighbourSolicitation (port : Nat) (target : BitVec 128) (f : FrameInfo)
  | pfcFrame (port prio quanta : Nat)
  | rdmaWrite (slot : Nat) (key : RKey) (addr : Nat) (data : Bytes) (f : FrameInfo)
  | pfcXon (port occupancy : Nat)
  | pfcRepeat (port : Nat)
  | rdmaRead (slot : Nat) (key : RKey) (addr len : Nat) (f : FrameInfo)
  | send (slot : Nat) (f : FrameInfo)
  /-- `spaced`: 50 µs have passed since the last halving (R327). -/
  | cnpReceive (slot qp : Nat) (spaced : Bool)
  | rateIncrease (slot qp : Nat)
  | ackTimeout (slot qp : Nat)
  | beacon (port : Nat)
  -- attach (R334 to R347): each message with its segment headers and the frame it comes in
  | attachReq (m : AttachReq) (f : FrameInfo)
  /-- `sigOk`: HSIG verifies over SHA3-512(T ‖ DSIG). -/
  | attachAuth (port : Nat) (m : MsgHead) (sigOk : Bool) (hconf : BitVec 512) (f : FrameInfo)
  | attachSessionTimeout (sid : Nat)
  | rekey (slot : Nat) (m : MsgHead) (b : RekeyMsg) (f : FrameInfo)
  | rekeyStart (slot : Nat)
  | oldKeyExpiry (slot : Nat)
  | register (slot : Nat) (m : MsgHead) (b : RegisterMsg) (f : FrameInfo)
  | ctxCreate (slot : Nat) (m : MsgHead) (b : CtxCreateMsg) (f : FrameInfo)
  | ctxDestroy (slot : Nat) (m : MsgHead) (ctx : Nat) (f : FrameInfo)
  | detach (slot : Nat) (m : MsgHead) (mode : Nat) (f : FrameInfo)
  | detachRelease (slot : Nat)
  | keepalive (slot : Nat) (m : MsgHead) (f : FrameInfo)
  | keepaliveSend (slot : Nat)
  | keepaliveTimeout (slot : Nat)
  | holdPeriodEnd (slot : Nat)
  -- video (R350 to R363): the frame record of the task on the engine
  | videoOpen (u : UnitId)
  | encode (u : UnitId)
  /-- `hostData`: the unit's bytes when DEC.BSRC names a host window. -/
  | decode (u : UnitId) (hostData : Bytes)
  | videoClose (u : UnitId)
  -- Colyr commands (R410): the TAG of the message, then its data
  | getInventory (tag : Nat)
  | readReg (tag offset : Nat)
  | writeReg (tag offset : Nat) (value : Word64)
  | logRead (tag : Nat) (index : Nat) (count : Nat)
  | sensorRead (tag : Nat) (index count : Nat)
  | tenantRead (tag index : Nat)
  | tenantWrite (tag index : Nat) (entry : TenantBits)
  | tenantDelete (tag index : Nat) (force : Bool)
  | colyrAccord (tag : Nat) (items : List ItemBits)
  | attest (tag : Nat) (nonce : BitVec 256)
  | fwBegin (tag length : Nat)
  | fwData (tag offset : Nat) (data : Bytes)
  | fwCommit (tag : Nat) (sigOk : Bool)
  | fwStatus (tag : Nat)
  | fuseSvn (tag v : Nat)
  | maintReq (tag act target : Nat)
  | sillageRead (tag die offset len : Nat)
  | resetComputePart (tag : Nat)
  | resetModule (tag : Nat)
  | drydown (tag ctx : Nat)
  /-- `sigOk`: the token's signature verifies over its SERIAL and nonce. -/
  | debugUnlock (tag : Nat) (serial : BitVec 128) (nonce : BitVec 256) (sigOk : Bool)
  | unknownCommand (tag cmd : Nat)
  -- MCTP control (R409)
  | setEndpointId (op eid : Nat)
  | getEndpointId
  | getMctpVersionSupport (msgType : Nat)
  | getMessageTypeSupport
  | getVendorDefinedMessageSupport (selector : Nat)
  -- recovery (R403)
  | recoveryData (port : Nat) (source : Nat) (off : Nat) (data : Bytes) (sigOk : Bool)
  | recoveryDone (port : Nat) (source : Nat) (length : Nat)
  | recoveryTimeout
  -- boot and power (R401, R429 to R446)
  | powerUp
  | bootVerify (sigOk : Bool)
  | nearTrainingDone (failing : List (Nat × Nat × Nat))
  | farTrainingDone (deadLanes : List (Nat × Nat))
  /-- units, and dies whose graph engine or control group, fail the self-test -/
  | bootComplete (failed : List UnitId) (ctrlFailed : List Nat)
  | computeHold
  | computeHoldRelease
  | inputShutdown
  | inputOvervoltage
  | converterFailure (n : Nat)
  | fastLimiter
  | sensorSample (x : Samples)
  | thermalLevelExit (die : Nat)
  | thermalTrip (die : Nat)
  | dvfsStep (die : Nat)
  | dispatchRampStage
  | refclkLoss
  | refclkReturn
  | sdsclkLoss (east : Bool)
  | sdsclkReturn (east : Bool)
  -- pins (R451, R452, R407)
  | resetPin
  | flashSel (level : Bool)
  -- checked encodings and late rows
  | reservedInstruction (u : UnitId)
  | programBoundsFetch (u : UnitId)
  | farWordRetry (e : WordEvent)
  | reservedAttachMessage (port : Nat) (m : MsgHead) (type : Nat) (f : FrameInfo)
  | unprotectedFrameWindowEnd (slot : Nat)
  | pfcPauseExpiry (port prio : Nat)
  | railsInRegulation
  | resetPinRelease
  | jtagInstruction (ir : Nat)
deriving DecidableEq, Repr

end Sys2Proof
end

