-- ==== Sys2Proof/Decode.lean ====
section
/-!
DEFINITION. The commands that words spell by the table's bits: every row of spec/opcode_table.json has an empty list of fields,
so there is none.
-/

namespace Sys2Proof

/-- No row gives bits, so no word spells a command. DESIGN CHOICE: log entry 96. -/
def decodeTableWord (_nbits _w : Nat) : Option Instr := none

end Sys2Proof
end

