-- ==== Sys2Proof/Config.lean ====
section
/-!
DEFINITION. What the spec leaves open or leaves to published standards: constants without a body, so that a claim holds whatever they are.
-/

namespace Sys2Proof.Config

/-- Bytes of the built-in table images, which the manual does not list (R207, R208, R256): image, offset. DESIGN CHOICE: log entry 7. -/
opaque builtinByte : Nat → Nat → Byte
/-- Which of the results that the bounds of R208 and R256 allow an image gives: image, argument. DESIGN CHOICE: log entry 7. -/
opaque builtinStep : Nat → BitVec 32 → Nat
/-- A byte the spec calls unpredictable; applied to the model's counter and a position. DESIGN CHOICE: log entry 6. -/
opaque freeByte : Nat → Nat → Byte
/-- A choice the spec leaves open (which elements a faulting transfer has written, which criterion window an event falls in).
DESIGN CHOICE: log entry 6. -/
opaque freeBool : Nat → Nat → Bool
/-- A number the module picks for itself: queue pairs, PSNs, keys, image offsets of time stamps. DESIGN CHOICE: log entry 6. -/
opaque freeNat : Nat → Nat → Nat
/-- The stage of firmware's dispatch ramp to which a compute die belongs (R426). DESIGN CHOICE: log entry 33. -/
opaque rampStageOf : Nat → Nat
/-- Local cycle count of an island when a record is made (R25, R420). DESIGN CHOICE: log entry 13. -/
opaque localCycle : Nat → BitVec 48
/-- Nonces of the module (R336, R414). -/
opaque nonce : Nat → BitVec 256
/-- SHA3-512 of a byte string (FIPS 202). DESIGN CHOICE: log entry 7. -/
opaque sha3 : Bytes → BitVec 512
/-- XTS-AES-256 of one data unit of a context's swap traffic: key pair, tweak, plain bytes (R294, R295).
DESIGN CHOICE: log entry 7. DESIGN CHOICE: log entry 111. -/
opaque swapCipher : Nat → Nat → Bytes → Bytes
/-- ML-DSA-87 (FIPS 204): the key pair, public then private, of a 32-byte seed; and the signature by a private key over a message (R404).
DESIGN CHOICE: log entry 7. -/
opaque dsaKeyGen : Bytes → Bytes × Bytes
/-- ML-DSA-87: the signature by a private key over a message (R404). DESIGN CHOICE: log entry 7. -/
opaque dsaSign : Bytes → Bytes → Bytes
/-- The seed fused at manufacture (R404). -/
opaque fusedSeed : BitVec 256
/-- Tamiskaris's signature by the endorsement key over a digest (R404). DESIGN CHOICE: log entry 7. -/
opaque endorsement : Bytes → Bytes
/-- ML-KEM-1024 (FIPS 203): encapsulation against a key by the module's n-th draw, giving ciphertext and shared secret; the encapsulation
key of its n-th draw; and decapsulation under that (R336, R337). DESIGN CHOICE: log entry 7. -/
opaque kemEncaps : Bytes → Nat → Bytes × Bytes
opaque kemKey : Nat → Bytes
/-- ML-KEM-1024: decapsulation under the module's n-th encapsulation key (R337). DESIGN CHOICE: log entry 7. -/
opaque kemDecaps : Nat → Bytes → Bytes
/-- 128 bytes of SHAKE256 over a byte string (FIPS 202, R337). DESIGN CHOICE: log entry 7. -/
opaque shake256 : Bytes → Bytes
/-- Contents of the module's LLDP frames, which the manual does not give: chassis ID (0), port ID (1) and system name (2) of a port, and TTL
(R327). PRESUMED: log entry 106. -/
opaque lldpText : Nat → Nat → Bytes
/-- TTL of the module's LLDP frames (R327). PRESUMED: log entry 106. -/
opaque lldpTtl : Nat
/-- Fused and flash-held identity: SERIAL, digest of the boot ROM, enterprise number, endorsement-key digest, MACs. -/
opaque serial : BitVec 128
opaque romDigest : BitVec 512
opaque enterprise : BitVec 32
opaque endorseKeyDigest : BitVec 512
opaque macAddress : Nat → BitVec 48
/-- MCTP version entries and the encoding of control responses are those of DMTF MCTP (R409). PRESUMED: log entry 60. -/
opaque mctpVersions : Nat → Bytes
/-- Result and flags of a table's core for a finite argument when KHI or KLO is infinite (R204): RRED, argument, KHI, KLO.
DESIGN CHOICE: log entry 98. -/
opaque infiniteReduction : Nat → BitVec 32 → BitVec 32 → BitVec 32 → BitVec 32 × BitVec 32
/-- A JTAG instruction code is one of the mandatory instructions of IEEE 1149.1 or IDCODE (R407). DESIGN CHOICE: log entry 59. -/
opaque jtagMandatory : Nat → Bool
/-- The encoder of a video engine: bits of the stream's history, picture codes and settings to the coded picture (R349, R363).
DESIGN CHOICE: log entry 7. -/
opaque encodeBits : BitVec 64 → List Nat → BitVec 128 → Bool → Bytes
/-- The lowest level, with its tier, whose limits a stream meets: codec, depth, width, height, FPSN, FPSD, maximum bit rate (R348, R349).
DESIGN CHOICE: log entry 7. -/
opaque videoLevel : List Nat → Nat
/-- The headers before a key picture: codec, depth, level, matrix, transfer characteristic, range, chroma sample position, width, height (R349).
DESIGN CHOICE: log entry 7. -/
opaque codecHeaders : List Nat → Bytes
/-- The history digest after a picture is coded or a unit decoded. DESIGN CHOICE: log entry 7. -/
opaque codecNext : BitVec 64 → List Nat → BitVec 64
/-- Mean quantiser that rate control used: history, picture codes, settings, key picture (R352, R356). DESIGN CHOICE: log entry 7. -/
opaque meanQuant : BitVec 64 → List Nat → BitVec 128 → Bool → Nat
/-- Mean quantiser of a decoded unit (R352). DESIGN CHOICE: log entry 7. -/
opaque unitQuant : BitVec 64 → Bytes → Nat
/-- A field of a result record that no rule states, of the stream's history (R352, R363): 20 AVGQ, 21 FRAMENO, 22 ORDER, 23 BYTES.
DESIGN CHOICE: log entry 77. -/
opaque openResult : BitVec 64 → Nat → Nat
/-- A byte of the state region after a picture, which only the engine reads (R353). DESIGN CHOICE: log entry 77. -/
opaque regionByte : BitVec 64 → Nat → Byte
/-- Decoding of one unit: none when it does not conform to what R348 lists (R362); else shown?, inter?, ten bits?, display order, samples Y, Cb, Cr in
raster order. DESIGN CHOICE: log entry 7. -/
opaque decodeUnit : BitVec 64 → Bytes → Option (Bool × Bool × Bool × Nat × List Nat × List Nat × List Nat)
/-- An inter picture refers to a reference that is lost (R362). -/
opaque refersLost : BitVec 64 → Bytes → Bool
end Sys2Proof.Config
end

