-- ==== Sys2Proof/Machine/State.lean ====
section
/-!
DEFINITION. The state of the module: every register, queue, table and pending activity the spec gives it, as plain data, and State.reset.
-/

namespace Sys2Proof.Machine

/-- Why the module stops outright (safe: the spec says such an access is never generated, R264). DEDUCED: log entry 86. -/
inductive Fault where
  /-- An access to a physical address that R264 leaves unmapped. No command raises it: R264 says that no such address is generated. Safe. -/
  | unmappedPhysical
deriving DecidableEq, Repr

/-- Why a command is turned away. -/
inductive Refusal where
  /-- A row whose meaning is not written; raised by Dispatch alone. Safe. -/
  | notModelled (mnemonic : String)
deriving DecidableEq, Repr

/-- A finite map with rising natural keys; a key that is not listed has no entry. -/
abbrev NMap (α : Type) := List (Nat × α)

/-- Bytes by address: rising addresses, no entry equal to zero (what an unlisted byte reads as, R286). -/
abbrev Memory := List Host.Cell

/-! ### The task a unit runs (R68) -/

/-- An active loop: first instruction, body length, iterations left after this one, index of this one (R75, R382). -/
structure LoopEntry where
  start : Nat
  len : Nat
  remaining : Nat
  iter : Nat
deriving DecidableEq, Repr

/-- What an instruction reads at issue and keeps (R71). -/
structure Snapshot where
  /-- array index of the issuing instruction, (PC - TASK.PROG) / 16 -/
  ix : Nat
  word : InstrWord
  S : List Word64
  A : List Nat
  T : List (Option (BitVec 512))
  E : List (Option (BitVec 512))
  Q : List (Option (BitVec 512))
deriving DecidableEq, Repr

/-- One finished group on its way from the plane to C (R144): the unmasked outputs by (column, row, plane bits). -/
structure Drain where
  snap : Snapshot
  /-- batch iteration of each output, column, row, plane contents -/
  vals : List (Nat × Nat × Nat × Bits32)
  /-- batch iterations in the group -/
  iters : List Nat
  /-- the plane holds INT32 sums (R46) -/
  isInt : Bool
  /-- maximum N and M of the shape; output extents N and M -/
  nmax : Nat
  n : Nat
  m : Nat
  /-- first row of the tile and first column of the tile (WIN tiles) -/
  row0 : Nat
  col0 : Nat
  /-- WIN: rows and columns index C by R183 and R186 -/
  isWin : Bool
  /-- the last group of its instruction -/
  last : Bool
deriving DecidableEq, Repr

/-- The directory entries a walker recorded: logical page, address of the page set (R237). -/
structure Walk where
  seq : Nat
  epoch : Word64
  len : Nat
  /-- logical page, PSTATE, slot address -/
  pages : List (Nat × Nat × Nat)
deriving DecidableEq, Repr

/-- An ATTN instruction in progress. -/
inductive AttnOp where
  /-- `walk`: the snapshot of a paged walk that has begun -/
  | attend (snap : Snapshot) (walk : Option Walk)
  | append (snap : Snapshot) (seq : Nat)
deriving DecidableEq, Repr

/-- Where a sequencer stands. -/
inductive Phase where
  | running
  /-- CTRL WAIT on the groups of the mask (R73) -/
  | waitGroups (mask : Nat)
  /-- SYNC TOKWAIT on the counter at a context address (R77) -/
  | waitToken (va : Nat) (thresh : Word64)
  /-- a matrix instruction held by prologue tokens (R174) -/
  | waitPrologue (toks : List (Nat × Word64))
  /-- a write waits for shadow copies of these virtual pages (R123) -/
  | waitShadow (vpages : List Nat)
  /-- HALT issued: completes when every group has retired (R73) -/
  | halting
  /-- SYNC BND executed: completes as after HALT, and step 1 of the boundary is past (R77, R114) -/
  | handing
  /-- a frame record on a video engine (R350) -/
  | frame
  /-- the unit's watch has expired and it has not yet stopped (R373) -/
  | stopping
  /-- a check has failed: nothing of the unit goes on until its epoch is aborted (R154, R365) -/
  | held
deriving DecidableEq, Repr

/-- An element in a stationary register: format code, stored bits, scale exponent. -/
structure StatEl where
  fmt : Nat
  bits : Nat
  exp : Int
deriving DecidableEq, Repr

/-- The two stationary registers of every element of an array, column by column from row 0; unlisted registers hold +0.0 (R133, R137). -/
structure ArrayRegs where
  active : List (List StatEl)
  shadow : List (List StatEl)
deriving DecidableEq, Repr

/-- A task on a unit with the sequencer state of R68. -/
structure Run where
  ctx : Nat
  task : Nat
  /-- attempt number of the epoch when it was dispatched -/
  att : Nat
  /-- the admitted task descriptor, STEP filled in (R91) -/
  desc : BitVec 1024
  S : List Word64
  A : List Nat
  P : List Bool
  T : List (Option (BitVec 512))
  E : List (Option (BitVec 512))
  Q : List (Option (BitVec 512))
  pc : Nat
  loops : List LoopEntry
  astat : Bits32
  user : Bits32
  tbw : Bool
  /-- the accumulator planes by (stage, plane, row, column) in one number; unlisted elements hold +0.0 (R136) -/
  planes : NMap Bits32
  /-- the stationary registers of the unit's arrays: one in a cluster, two in a pipeline (R133) -/
  arrays : List ArrayRegs
  /-- active bank of each slot when the task was admitted (R211) -/
  banks : List Nat
  phase : Phase
  moves : List Snapshot
  drains : List Drain
  attns : List AttnOp
  /-- pushes of PUSH instructions and of PUSH stages not yet delivered -/
  pushes : Nat
  stagePushes : Nat
  /-- elements of a compressed C held in assembly until the instruction's last drain: address and bytes (R311) -/
  asm : List (Nat × Bytes)
deriving DecidableEq, Repr

/-! ### Contexts (chapters 4, 8, 9, 11, 12) -/

/-- A task's place in its epoch (R109, R115). -/
inductive TStatus where
  | waiting | ready | running | done
deriving DecidableEq, Repr

/-- A task in a task slot. -/
structure TaskRec where
  desc : BitVec 1024
  /-- physical die of the slot -/
  die : Nat
  deps : Nat
  status : TStatus
  /-- class it dispatches in (R118) -/
  cls : Nat
  demoted : Bool
  /-- order in which tasks of the context became ready -/
  readySeq : Nat
  unit : Option UnitId
  banks : List Nat
  astat : Bits32
  user : Bits32
  tbw : Bool
deriving DecidableEq, Repr

/-- Where an epoch stands (R113, R114, R384, R386). -/
inductive EpPhase where
  | open
  /-- aborted; the dies that have yet to report quiescence -/
  | aborting (dies : List Nat)
  /-- waits for a compute-part reset before its next attempt -/
  | held
deriving DecidableEq, Repr

/-- The open epoch of a context: one iteration of a SUBMIT or LAUNCH. -/
structure Epoch where
  tag : Bits32
  cqe : Bool
  q : Nat
  step : Bits32
  bind : List Word64
  arr : Nat
  count : Nat
  carr : Nat
  tid : Option Nat
  lastIter : Bool
  tasks : NMap TaskRec
  next : Nat
  attempt : Nat
  /-- attempts that failed in a row with no exclusion between them (R386) -/
  failed : Nat
  phase : EpPhase
  readyCount : Nat
  /-- tasks whose unit watch expired in an earlier attempt, and the unit (R373) -/
  expired : List (Nat × UnitId)
  ctxExpired : Bool
  /-- virtual lines whose read failed and that are not written since, with the attempt (R366) -/
  badLines : List (Nat × Nat)
  /-- KV page sets allocated in the epoch: sequence, logical page (R249) -/
  kvAlloc : List (Nat × Nat)
  /-- compressed units with an open record: tensor, unit, entry before the epoch (R309) -/
  openUnits : List (Nat × Nat × BitVec 512)
deriving DecidableEq, Repr

/-- A fetched SUBMIT or LAUNCH with iterations still to admit (R105, R112). -/
structure LaunchRec where
  tag : Bits32
  cqe : Bool
  q : Nat
  tid : Option Nat
  arr : Nat
  count : Nat
  ptr : Nat
  carr : Nat
  bind : List Word64
  step0 : Bits32
  iter : Nat
  total : Nat
deriving DecidableEq, Repr

/-- A resident template (R112). `free` holds the TFREE's TAG and CQE once one is fetched. -/
structure Template where
  arr : Nat
  count : Nat
  free : Option (Bits32 × Bool)
  /-- launches fetched and not completed -/
  live : Nat
deriving DecidableEq, Repr

/-- A submission queue (R101). -/
structure SubQueue where
  cfg : Word64
  tail : Bits32
  head : Bits32
  /-- consecutive times it could have given a packet and was passed over (R105) -/
  passed : Nat
deriving DecidableEq, Repr

/-- A translation entry (R281); `moveTo` while a page move runs (R285). -/
structure PageEnt where
  phys : Nat
  ro : Bool
  moveTo : Option Nat
deriving DecidableEq, Repr

/-- A shadow page (R123). -/
structure ShadowEnt where
  phys : Nat
  copying : Bool
deriving DecidableEq, Repr

/-- A step-state region: base address and pages (R123). -/
structure Region where
  base : Nat
  pages : Nat
deriving DecidableEq, Repr

/-- State of a table bank (R210); `src` names the built-in image a LOAD or the creation took it from. -/
inductive BankState where
  | empty | loading | ready
deriving DecidableEq, Repr

structure Bank where
  state : BankState
  /-- the built-in image it holds -/
  src : Option Nat
  /-- the last LOAD: epoch, attempt, task -/
  loader : Option (Word64 × Nat × Nat)
  /-- written by other means than LOAD (R213) -/
  foul : Bool
deriving DecidableEq, Repr

structure TabSlot where
  active : Nat
  bank0 : Bank
  bank1 : Bank
deriving DecidableEq, Repr

/-- What firmware keeps of a KV sequence beside its header and tables (R231, R238, R243 to R247). -/
structure SeqRec where
  root : Nat
  maxLp : Nat
  /-- pages marked for eviction at the next boundary (R243) -/
  marked : List Nat
  /-- area in the host swap region: offset, bytes -/
  swapArea : Option (Nat × Nat)
  /-- a page-in waits for the page-out to end (R247) -/
  pageInWanted : Bool
  /-- leaves (true) and slots (false) whose release waits for older walkers: epoch, leaf or not, address -/
  freeing : List (Word64 × Bool × Nat)
  /-- slots that firmware has given the sequence -/
  slots : List Nat
  /-- its region or a slot was written by other means than KVAPPEND and Accord (R240) -/
  forged : Bool
deriving DecidableEq, Repr

/-- The KV pool of a context (R230): slot size exponent, pages, free slots. -/
structure KvPool where
  n : Nat
  pages : List Nat
  free : List Nat
  /-- requests for a slot, oldest first: the unit of a KVAPPEND or none for a page-in, sequence, page -/
  waiting : List (Option UnitId × Nat × Nat)
deriving DecidableEq, Repr

/-- The compression pool (R303, R315): pages in order of addition, lines in use, registered tensors. -/
structure CompPool where
  pages : List Nat
  /-- the line after the last record packed -/
  top : Nat
  charge : Nat
  /-- tensor number, index address -/
  tensors : NMap Nat
  /-- tensors whose contents an unchecked host error has made unpredictable (R312) -/
  foul : List Nat
deriving DecidableEq, Repr

/-- A staged Accord request (R126). -/
structure AccordReq where
  tag : Bits32
  items : List ItemBits
deriving DecidableEq, Repr

/-- A completion record (R107), SEQ given when it is posted. -/
abbrev CqRec := BitVec 256

/-- The floors and caps of R288. -/
structure Shares where
  nfloor : Nat
  ncap : Nat
  ffloor : Nat
  fcap : Nat
  gfloor : Nat
  gcap : Nat
deriving DecidableEq, Repr

/-- A stream-scope request bound to a picture (R357); `posted` once its completion is out, kept until the boundary for a replay. -/
structure BoundReq where
  frame : Nat
  tag : Bits32
  items : List ItemBits
  posted : Bool
deriving DecidableEq, Repr

/-- A video stream (R350, R353, R356, R357). -/
structure Stream where
  /-- engine 0-7 -/
  engine : Nat
  codec : Nat
  dir : Nat
  depth : Nat
  mtx : Nat
  range : Nat
  trc : Nat
  width : Nat
  height : Nat
  fpsn : Nat
  fpsd : Nat
  sbase : Nat
  spages : Nat
  rc : BitVec 128
  frameNo : Nat
  sinceKey : Nat
  /-- what the bitstream depends on so far (R363), as a digest of the model's opaque codec -/
  hist : Word64
  lost : Bool
  /-- a bound request has asked for a key picture next -/
  keyDue : Bool
  bound : List BoundReq
deriving DecidableEq, Repr

/-- What a host registers (R341). -/
structure HostReg where
  evt : Bool
  hqpn : Nat
  hpsn : Nat
  swapVa : Nat
  swapLen : Nat
  swapKey : Nat
  wins : List Window
deriving DecidableEq, Repr

/-- A context (R15, R99 to R132, R343). -/
structure Ctx where
  slot : Nat
  tenant : Nat
  active : Bool
  pauseHold : Bool
  pausePoison : Bool
  pausePages : Bool
  faulted : Bool
  drydown : Bool
  dberr : Bool
  cqfull : Bool
  epochNo : Word64
  cqCfg : Word64
  cqTail : Bits32
  cqHead : Bits32
  /-- completion records waiting for room, oldest first -/
  heldRecs : List CqRec
  /-- SEQ of the next completion record (R107) -/
  nextSeq : Word64
  sqs : List SubQueue
  lastQ : Nat
  templates : NMap Template
  launch : Option LaunchRec
  epoch : Option Epoch
  apend : Option AccordReq
  /-- requests a boundary has taken and not yet applied (R131) -/
  taken : List AccordReq
  stat : Nat
  enc : Bool
  umax : Nat
  spshare : Nat
  pceil : Nat
  weight : Nat
  tslotq : Nat
  shares : Shares
  shadowNear : Nat
  shadowFar : Nat
  /-- physical die of each logical die -/
  place : List Nat
  /-- physical units of re-placed logical units, by logical die * 24 + unit (clusters 0-15, pipelines 16-23) -/
  placeUnits : NMap (Nat × Nat)
  /-- near pages that back windows without a unit (R388) -/
  backing : List Nat
  pages : NMap PageEnt
  shadows : NMap ShadowEnt
  regions : NMap Region
  tabs : List TabSlot
  /-- destination format last recorded for a scale slot (R454) -/
  slotFmt : NMap Nat
  /-- its copy at the last boundary (R454) -/
  slotFmtBase : NMap Nat
  kv : KvPool
  seqs : NMap SeqRec
  comp : CompPool
  streams : NMap Stream
  /-- streams at the last boundary, restored at a replay (R357, R363) -/
  streamsBase : NMap Stream
  /-- requests bound to streams closed since the boundary, a list for each OPEN; those a replay gives to the streams it opens (R357) -/
  boundPast : NMap (List (List BoundReq))
  boundNext : NMap (List (List BoundReq))
  /-- poisoned lines by virtual line number (R390) -/
  poisoned : List Nat
  /-- the registration its transfers use (R341) -/
  reg : Option HostReg
  /-- queue pair, its PSN, the host's queue pair and its PSN, keys -/
  qpn : Nat
  psn : Nat
  hqpn : Nat
  hpsn : Nat
  rkva : Nat
  rkcp : Nat
  /-- its key pairs for far pages and for swap, as the numbers the module drew for them (R294). DESIGN CHOICE: log entry 111. -/
  farKey : Nat
  swapCipherKey : Nat
  /-- Drydown begun by CTX_DESTROY: the number of the message that CTX_DONE is due to -/
  ctxDone : Option Nat
  /-- dispatch held by a module boundary (R132) -/
  stopped : Bool
deriving DecidableEq, Repr

/-! ### Hosts, ports and sessions (chapter 13) -/

/-- Where an attachment stands (R338, R345, R347, R462). -/
inductive HostPhase where
  /-- ATTACH_ACK is sent -/
  | attached
  /-- REG_ACK is sent -/
  | registered
  | hold
  | detaching (immediate : Bool)
  /-- DETACH_ACK is sent -/
  | detached
  /-- lost while detaching: freed once its Drydowns have completed, with no DETACH_ACK -/
  | drying
deriving DecidableEq, Repr

/-- A queue pair of a host: number, starting PSN, the host's queue pair and its starting PSN, send rate as a fraction of 2^32, retries used
(R327, R330, R341, R342). -/
structure QPair where
  qpn : Nat
  psn : Nat
  hqpn : Nat
  hpsn : Nat
  rate : Nat
  retries : Nat
deriving DecidableEq, Repr

/-- The keys of a key set: the SAKs of the two directions, KCONF, the salts of the two directions (R337). -/
structure KeySet where
  hostSak : BitVec 256
  moduleSak : BitVec 256
  kconf : BitVec 256
  hostSalt : BitVec 96
  moduleSalt : BitVec 96
deriving DecidableEq, Repr

/-- A REKEY in progress (R335, R337): whether the module started it, the request's body, and T with the new keys once they are known. -/
structure Rekey where
  started : Bool
  req : Bytes
  draw : Nat
  fixed : Option (BitVec 512 × KeySet)
deriving DecidableEq, Repr

/-- An attached host (R337 to R347). -/
structure HostRec where
  hkdig : BitVec 512
  tenant : Nat
  port : Nat
  /-- its MAC address -/
  mac : BitVec 48
  sid : Nat
  umax : Nat
  enc : Bool
  phase : HostPhase
  resumed : Bool
  hold : Nat
  kaint : Nat
  /-- the latest registration; each context takes it at its next boundary (R341) -/
  reg : Option HostReg
  /-- number of the key set in force and its keys; those before while frames under them are accepted -/
  keySet : Nat
  keys : KeySet
  oldKeys : Option KeySet
  rekey : Option Rekey
  /-- the packet number after the highest received, under the keys in force and under those before (R329) -/
  rxNext : Nat
  rxOldNext : Nat
  /-- number of its next message, and what it answered to each of the host's: none while it works on it (R334) -/
  outSeq : Nat
  replies : NMap (Option (List Bytes))
  /-- the DETACH it is working on, or has answered -/
  detachSeq : Option Nat
  /-- unprotected frames of the session are still accepted (R338) -/
  plainOk : Bool
  qps : List QPair
deriving DecidableEq, Repr

/-- An attach session waiting for ATTACH_AUTH or for a Drydown of its identity (R338, R346). -/
structure Session where
  sid : Nat
  req : AttachReq
  mac : BitVec 48
  dnonce : BitVec 256
  /-- T, and the keys derived from it (R336, R337) -/
  t : BitVec 512
  keys : KeySet
  /-- the ATTACH_CHAL it was answered with -/
  reply : List Bytes
  /-- the message number of the ATTACH_AUTH it is working on -/
  authSeq : Nat
  /-- verified and waiting for the Drydown of the same identity, in the slot it has taken -/
  waiting : Option Nat
deriving DecidableEq, Repr

/-- What leaves the module: the trace of its outputs, newest last (R327 to R347, R403, R409). DESIGN CHOICE: log entry 12. -/
inductive Out where
  /-- `v4`: the copy to the IPv4 broadcast address -/
  | beacon (port : Nat) (v4 : Bool) (payload : Bytes)
  | lldp (port : Nat) (chassis portId name : Bytes) (ttl : Nat)
  | arpReply (port : Nat) (ip : BitVec 32)
  | neighbourAdvert (port : Nat) (ip : BitVec 128)
  | pfc (port prio quanta : Nat)
  | cnp (slot : Nat)
  /-- the datagrams of an attach message (R334) -/
  | message (port : Nat) (segs : List Bytes)
  | hostWrite (slot rkey va : Nat) (data : Bytes)
  | sendImm (slot imm : Nat)
  | readResp (slot : Nat) (data : Bytes)
  | writeAck (slot : Nat)
  | nakAccess (slot : Nat)
  | nakInvalid (slot : Nat)
  | retransmit (slot qp : Nat)
  | colyr (cmd tag status : Nat) (data : Bytes)
  | mctp (cmd : Nat) (data : Bytes)
  | recoveryAck (port source off : Nat)
  | recoveryResult (port source status : Nat)
  | jtag (ir : Nat) (bypass : Bool)
deriving DecidableEq, Repr

/-- A frame or message that waits at a logical port because its priority is paused (R327, R331). -/
structure TxItem where
  slot : Option Nat
  /-- the context whose queue pair sends it; none for firmware control traffic -/
  ctx : Option Nat
  /-- RoCEv2 traffic, in the lossless priority -/
  roce : Bool
  /-- the completion record it writes -/
  record : Option CqRec
  out : Out
deriving DecidableEq, Repr

/-- A logical port (R326 to R328, R331, R332). -/
structure PortRec where
  up : Bool
  bseq : Word64
  /-- transmission paused on each of eight priorities -/
  paused : List Bool
  /-- what waits to be sent, oldest first -/
  tx : List TxItem
  xoff : Bool
  /-- bytes in use of the lossless region and of the shared one (R328) -/
  occupancy : Nat
  shared : Nat
  dropped : Nat
  lldpPeer : Bytes
deriving DecidableEq, Repr

/-- A pushed tile in the fabric (R87, R170, R379): destination window bytes and the token there. -/
structure Flight where
  src : Nat
  dst : Nat
  ctx : Nat
  att : Nat
  owner : UnitId
  stage : Bool
  /-- byte writes as physical address and bytes -/
  writes : List (Nat × Bytes)
  /-- physical address of the token counter -/
  token : Nat
deriving DecidableEq, Repr

/-- A Squall in flight (R378). `seq`: its source's Squall sequence number, given when it is sent (R323). -/
structure Squall where
  kind : Nat
  src : Nat
  ctx : Nat
  att : Nat
  cause : Nat
  epoch : Word64
  seq : Nat := 0
deriving DecidableEq, Repr

/-- Deficit round robin of one die, unit kind and class (R118). DEDUCED: log entry 30. -/
structure Drr where
  cur : Nat
  credit : NMap Nat
deriving DecidableEq, Repr

/-- Physical memory health of a die or stack (R266 to R276). -/
structure Tier where
  /-- free pages by number below `pages`: those neither used nor listed are free -/
  used : List Nat
  scrubbing : List Nat
  bad : List Nat
  excluded : Bool
  evacuating : Bool
  /-- dead symbols per near channel, dead lanes per far channel -/
  dead : NMap (List Nat)
  /-- tenants that had pages here when the evacuation began -/
  tenants : List Nat
deriving DecidableEq, Repr

/-- Corrected events of one line since its last scrub interval began, for one record (R297). -/
structure Corrected where
  kind : Nat
  far : Bool
  die : Nat
  chan : Nat
  sym : Nat
  phys : Nat
  count : Nat
deriving DecidableEq, Repr

/-- Maintenance (R394 to R397). -/
structure Maint where
  act : Nat
  target : Nat
  /-- error-driven requests go ahead of the queue -/
  urgent : Bool
  paused : Bool
deriving DecidableEq, Repr

/-- A log entry: record, event sequence number, local cycle stamp, die, island, index (R420). -/
structure LogEntry where
  record : BitVec 128
  dseq : Word64
  lcyc : BitVec 48
  sdie : Nat
  isl : Nat
  idx : Nat
deriving DecidableEq, Repr

/-- The firmware update and the image in flash (R398, R400, R419). -/
structure Firmware where
  /-- flash contents of the image, at image offsets: signature block at 0, body at 8,192 -/
  flash : Memory
  /-- bytes 0 to 2,687 of the signature block the running image was loaded with (R405) -/
  runBlock : Memory
  runSvn : Nat
  runVer : Word64
  fuses : Nat
  /-- staged update: total length when one is open -/
  updLen : Option Nat
  staged : Memory
  updStep : Nat
  updStatus : Nat
  /-- SIG of the staged image verifies, as the commit tells (R401). DESIGN CHOICE: log entry 7. -/
  sigOk : Bool
  /-- the firmware anchor fused at manufacture: the digest of the VKEY that Tamiskaris signs with (R401) -/
  anchor : BitVec 512
  /-- the production fuse, which locks debug (R405, R407) -/
  production : Bool
  deferredReset : Bool
  boots : Nat
deriving DecidableEq, Repr

/-- A recovery session of the boot ROM (R403). -/
structure RecSession where
  port : Nat
  source : Nat
  expect : Nat
  /-- the signature block passed checks 1 to 4 -/
  sigOk : Bool
  image : Memory
deriving DecidableEq, Repr

/-- One sensor record: SKIND, LOC, VALUE in thousandths, and its stamp (R26, R422). -/
structure SensorRec where
  kind : Nat
  loc : Nat
  value : Nat
  dseq : Word64
  lcyc : BitVec 48
  die : Nat
deriving DecidableEq, Repr

/-- How far the boot has come (R430). -/
inductive BootStage where
  | off | bus | rom | recovery | rails | nearTrain | farTrain | selfTest | ready
  /-- RESET# low or REFCLK absent: held in reset -/
  | inReset
deriving DecidableEq, Repr

/-- Power, clocks and pins (chapter 17). -/
structure Power where
  boot : BootStage
  /-- core, SRAM, DRAM and SerDes rails are up -/
  railsUp : Bool
  hold : Bool
  /-- the input has fallen below 48 V and not yet been at 50 V for 1 s -/
  low : Bool
  /-- the hold of R429 lasts until module reset -/
  holdLocked : Bool
  cap : Nat
  convLost : Nat
  /-- DVFS level of each compute die and the levels the three mechanisms demand -/
  level : List Nat
  capLevel : List Nat
  thermLevel : List Nat
  fastLevel : List Nat
  /-- input power of the last intervals, newest first, in mW -/
  history : List Nat
  /-- power attributed to each tenancy entry in the last intervals, newest first, in mW before it is referred to the input (R435) -/
  tenantHist : List (List Nat)
  belowCount : Nat
  /-- tenancy entries whose dispatch is held by the cap loop -/
  tenantHold : List Nat
  rampStage : Nat
  coolantWarn : Bool
  lastSample : Option Samples
  /-- the records of the last sample -/
  sensors : List SensorRec
  refclk : Bool
  sdsW : Bool
  sdsE : Bool
  resetLow : Bool
  flashSelHigh : Bool
  flashOut : Bool
  thermtrip : Bool
  pwrgd : Bool
deriving DecidableEq, Repr

/-- A flash copy of the tenancy table with its write count; one whose write was cut off is not valid (R417). -/
structure TenantCopy where
  count : Nat
  valid : Bool
  entries : List TenantBits
deriving DecidableEq, Repr

/-- Management settings and identity (chapter 16). -/
structure Colyr where
  portmode : Word64
  net : Word64
  dscpmap : Word64
  ipv4 : NMap Word64
  ipv6 : NMap Word64
  dwSel : Word64
  /-- watch timeouts that differ from the default, by kind, die, unit in one number -/
  watches : NMap Nat
  nonce : BitVec 256
  debugOpen : Bool
  eid : Nat
  /-- the two copies of the tenancy table in flash (R417) -/
  tenFlash : TenantCopy × TenantCopy
  /-- pending module-scope request: TAG of the command, items, whether TENANT_WRITE staged it and for which index -/
  modReq : Option (Nat × List ItemBits × Option (Nat × TenantBits))
  log : List LogEntry
  logNext : Nat
  /-- a TENANT_DELETE with FORCE waiting for Drydowns: TAG and index (R416) -/
  deleting : Option (Nat × Nat)
deriving DecidableEq, Repr

/-- What counts toward the exclusion of a unit (R387): attempts with step-data errors, the latest of them, unit-state faults. -/
structure Strikes where
  data : Nat
  last : Option (Nat × Word64 × Nat)
  unitState : Nat
deriving DecidableEq, Repr

/-- The ordering code (R1, R2). -/
inductive Order where
  | full | half
deriving DecidableEq, Repr

/-- The whole module. `pending` is the block's own queue of commands, first in, first out. -/
structure State where
  pending : List Instr
  order : Order
  mem : Memory
  units : NMap Run
  /-- keys of a unit are (die * 4 + kind) * 16 + index -/
  ctxs : NMap Ctx
  hosts : NMap HostRec
  sessions : List Session
  ports : List PortRec
  /-- mode in force on each host port -/
  portModes : List Nat
  fabric : List Flight
  squalls : List Squall
  /-- Squall sequence number each die gives next (R378), and the copies the routers have seen: source, number (R323) -/
  squallSeq : List Nat
  squallSeen : List (Nat × Nat)
  drr : NMap Drr
  near : List Tier
  far : List Tier
  /-- corrected events that wait for their record -/
  corrected : List Corrected
  maintRun : List Maint
  maintQueue : List Maint
  /-- excluded units by key; excluded edges; half-edges off -/
  excluded : List Nat
  exclDies : List Nat
  exclEdges : List Nat
  halfEdges : List Nat
  /-- islands stopped by a loss of lock and not yet restarted (R25), and islands excluded (R376); keys are (island code of R420 * 32 + die) * 16 + index -/
  islandsDown : List Nat
  exclIslands : List Nat
  /-- detections per unit key within the window (R387) -/
  strikes : NMap Strikes
  /-- failed restarts per island in the window (R376) -/
  restarts : NMap Nat
  /-- reset domains in progress -/
  resets : List ResetDomain
  /-- event sequence numbers of the 28 dies (R26) -/
  dseq : List Word64
  /-- sequence number of the last replay asked for, and replays failed in a row, by edge * 2 + direction (R324) -/
  edgeSeq : NMap Nat
  edgeFails : NMap Nat
  fw : Firmware
  recSession : Option RecSession
  power : Power
  colyr : Colyr
  /-- the swap copies of page sets in host memory, by context, sequence and page (R246) -/
  swap : List ((Nat × Nat × Nat) × Bytes)
  out : List Out
  /-- the model's own counter behind every value the spec leaves open -/
  freeIx : Nat
deriving DecidableEq, Repr

/-! ### Reset -/

def Tier.fresh : Tier :=
  { used := [], scrubbing := [], bad := [], excluded := false, evacuating := false, dead := [], tenants := [] }

def PortRec.fresh : PortRec :=
  { up := false, bseq := 0, paused := List.replicate 8 false, tx := [], xoff := false, occupancy := 0, shared := 0, dropped := 0, lldpPeer := [] }

/-- An entry of the tenancy table that has never been written (R415): PCEIL 0b10, DWEIGHT 1, TSLOTQ 1,024, SPSHARE 16. DEDUCED: log entry 76. -/
def tenantReset : TenantBits :=
  BitVec.ofNat 1024 (2 * 2 ^ 516 + 1 * 2 ^ 527 + 1024 * 2 ^ 535 + 16 * 2 ^ 550)

/-- An image in flash: MAGIC, IVER 1, SVN 1, BLEN 1; what the manual does not list is zero. DESIGN CHOICE: log entry 108. -/
def imageReset : Memory := [(0, 0x5A), (1, 0x46), (2, 0x57), (3, 0x49), (4, 1), (8, 1), (24, 1)]

def Firmware.fresh : Firmware :=
  { flash := imageReset, runBlock := imageReset, runSvn := 1, runVer := 0, fuses := 0, updLen := none, staged := [], updStep := 0,
    updStatus := 0, sigOk := false, anchor := Config.sha3 (List.replicate 2592 0), production := true, deferredReset := false, boots := 1 }

def Power.fresh : Power :=
  { boot := .ready, railsUp := true, hold := false, low := false, holdLocked := false, cap := 9300, convLost := 0, level := List.replicate 24 0,
    capLevel := List.replicate 24 0, thermLevel := List.replicate 24 0, fastLevel := List.replicate 24 0, history := [],
    tenantHist := [], belowCount := 0, tenantHold := [], rampStage := 0, coolantWarn := false, lastSample := none, sensors := [], refclk := true,
    sdsW := true, sdsE := true, resetLow := false, flashSelHigh := false, flashOut := false, thermtrip := false, pwrgd := true }

def Colyr.fresh : Colyr :=
  { portmode := 0, net := BitVec.ofNat 64 (3 + 2 * 2 ^ 4 + 1 * 2 ^ 10 + 30 * 2 ^ 14), dscpmap := 0, ipv4 := [], ipv6 := [],
    dwSel := 0, watches := [], nonce := 0, debugOpen := false, eid := 0, 
    tenFlash := ({ count := 1, valid := true, entries := List.replicate 16 tenantReset }, { count := 0, valid := true, entries := List.replicate 16 tenantReset }),
    modReq := none, log := [], logNext := 0, deleting := none }

/-- The module once a module reset has run its course: booted, ready for attach, no host, no context (R375, R430).
DESIGN CHOICE: log entry 3. DESIGN CHOICE: log entry 4. -/
def State.reset : State :=
  { pending := [], order := .full, mem := [], units := [], ctxs := [], hosts := [], sessions := [],
    ports := List.replicate 32 PortRec.fresh, portModes := List.replicate 8 0, fabric := [], squalls := [], squallSeq := List.replicate 28 0, squallSeen := [], drr := [],
    near := List.replicate 24 Tier.fresh, far := List.replicate 24 Tier.fresh, corrected := [], maintRun := [], maintQueue := [],
    excluded := [], exclDies := [], exclEdges := [], halfEdges := [], islandsDown := [], exclIslands := [], strikes := [], restarts := [],
    resets := [], dseq := List.replicate 28 0, edgeSeq := [], edgeFails := [], fw := Firmware.fresh, recSession := none,
    power := Power.fresh, colyr := Colyr.fresh, swap := [], out := [], freeIx := 0 }

end Sys2Proof.Machine
end

