-- ==== Sys2Proof/Machine/Bits.lean ====
section
/-!
DEFINITION. Bit fields, byte order and the finite-map operations that every layout and table of the model uses.
-/

namespace Sys2Proof.Machine

/-- Bits [hi:lo] of a number, both ends included (R10). -/
def field (x : Nat) (hi lo : Nat) : Nat := (x >>> lo) % 2 ^ (hi + 1 - lo)

/-- Bit i of a number. -/
def bitAt (x i : Nat) : Bool := (x >>> i) % 2 == 1

/-- A field of `w` bits read as two's complement. -/
def signed (w x : Nat) : Int := if x < 2 ^ (w - 1) then (x : Int) else (x : Int) - (2 ^ w : Nat)

/-- An integer taken modulo 2^w. -/
def wrap (w : Nat) (x : Int) : Nat := (x % ((2 ^ w : Nat) : Int)).toNat

/-- The field [hi:lo] replaced by v. -/
def setField (x hi lo v : Nat) : Nat :=
  x - (field x hi lo) * 2 ^ lo + (v % 2 ^ (hi + 1 - lo)) * 2 ^ lo

def ceilDiv (a b : Nat) : Nat := (a + b - 1) / b

/-- n bytes of x, least significant first (R10). -/
def toBytes : Nat → Nat → Bytes
  | 0, _ => []
  | n + 1, x => BitVec.ofNat 8 x :: toBytes n (x / 256)

/-- The number that bytes spell, least significant first (R10). -/
def ofBytes : Bytes → Nat
  | [] => 0
  | b :: r => b.toNat + 256 * ofBytes r

/-- `xs[i]`, or the default. -/
def nth {α : Type} (d : α) : List α → Nat → α
  | [], _ => d
  | x :: _, 0 => x
  | _ :: r, i + 1 => nth d r i

/-- `xs` with entry i replaced, unchanged when there is none. -/
def setNth {α : Type} : List α → Nat → α → List α
  | [], _, _ => []
  | _ :: r, 0, v => v :: r
  | x :: r, i + 1, v => x :: setNth r i v

/-- The numbers lo, lo + 1, ... (n of them). -/
def rangeFrom : Nat → Nat → List Nat
  | _, 0 => []
  | lo, n + 1 => lo :: rangeFrom (lo + 1) n

/-- Left fold that stops at the first error. -/
def foldE {ε σ α : Type} (f : σ → α → Except ε σ) : σ → List α → Except ε σ
  | s, [] => .ok s
  | s, a :: r =>
    match f s a with
    | .ok s' => foldE f s' r
    | .error e => .error e

/-- Map that stops at the first error. -/
def mapE {ε α β : Type} (f : α → Except ε β) : List α → Except ε (List β)
  | [] => .ok []
  | a :: r =>
    match f a with
    | .error e => .error e
    | .ok b =>
      match mapE f r with
      | .ok bs => .ok (b :: bs)
      | .error e => .error e

/-- A check that raises e when it fails. -/
def need {ε : Type} (c : Bool) (e : ε) : Except ε Unit := if c then .ok () else .error e

/-- An option as a result. -/
def orErr {ε α : Type} (o : Option α) (e : ε) : Except ε α :=
  match o with
  | some a => .ok a
  | none => .error e

namespace NMap

variable {α : Type}

def get? : NMap α → Nat → Option α
  | [], _ => none
  | (j, v) :: r, k => if j == k then some v else if k < j then none else get? r k

def set : NMap α → Nat → α → NMap α
  | [], k, v => [(k, v)]
  | (j, w) :: r, k, v => if k < j then (k, v) :: (j, w) :: r else if j == k then (k, v) :: r else (j, w) :: set r k v

def erase : NMap α → Nat → NMap α
  | [], _ => []
  | (j, w) :: r, k => if j == k then r else (j, w) :: erase r k

def has (m : NMap α) (k : Nat) : Bool := (get? m k).isSome

def getD (m : NMap α) (k : Nat) (d : α) : α := (get? m k).getD d

def modify (m : NMap α) (k : Nat) (f : α → α) : NMap α :=
  match get? m k with
  | some v => set m k (f v)
  | none => m

def keys (m : NMap α) : List Nat := m.map (·.1)

/-- The lowest number at or above lo that is not a key, among the next n. -/
def lowestFree (m : NMap α) : Nat → Nat → Option Nat
  | _, 0 => none
  | lo, n + 1 => if has m lo then lowestFree m (lo + 1) n else some lo

end NMap

/-- Selection by rank: the entry with the lowest key, the first such entry on a tie. -/
def argMin {α : Type} (key : α → Nat) : List α → Option α
  | [] => none
  | a :: r =>
    match argMin key r with
    | none => some a
    | some b => if key a ≤ key b then some a else some b

def sumBy {α : Type} (f : α → Nat) : List α → Nat
  | [] => 0
  | a :: r => f a + sumBy f r

def dedup (l : List Nat) : List Nat := l.foldl (fun acc x => if acc.contains x then acc else acc ++ [x]) []

/-- Insert into a list kept in rising order, once. -/
def insertNat (x : Nat) : List Nat → List Nat
  | [] => [x]
  | y :: r => if x < y then x :: y :: r else if x == y then y :: r else y :: insertNat x r

/-- Stable insertion sort by a strict order. -/
def insertBy {α : Type} (lt : α → α → Bool) (x : α) : List α → List α
  | [] => [x]
  | y :: r => if lt y x then y :: insertBy lt x r else x :: y :: r

def sortBy {α : Type} (lt : α → α → Bool) : List α → List α
  | [] => []
  | x :: r => insertBy lt x (sortBy lt r)

end Sys2Proof.Machine
end

