-- ==== Sys2Proof/Machine/Codes.lean ====
section
/-!
DEFINITION. The codes that guard data: the symbol code of the near tier, the nibbles of the common word code, the lanes of the far tier, and the order of every change of custody (R267, R268, R274, R276 to R278).
-/

namespace Sys2Proof.Machine

/-! ### The symbol code of a near burst (R268) -/

/-- Multiplication by α in GF(2^8) with the field polynomial x^8 + x^4 + x^3 + x^2 + 1. -/
def gfAlpha (a : Nat) : Nat := if a < 128 then 2 * a else (2 * a) ^^^ 0x11D

/-- α^k times a. -/
def gfPow : Nat → Nat → Nat
  | 0, a => a
  | k + 1, a => gfPow k (gfAlpha a)

/-- Product in the field, over the bits of the second factor from bit k up. -/
def gfMulFrom (a b : Nat) : Nat → Nat → Nat
  | _, 0 => 0
  | k, n + 1 => (if bitAt b k then gfPow k a else 0) ^^^ gfMulFrom a b (k + 1) n

def gfMul (a b : Nat) : Nat := gfMulFrom a b 0 8

/-- A polynomial, its lowest coefficient first, times x + α^k. -/
def timesRoot (p : List Nat) (k : Nat) : List Nat :=
  ((0 :: p).zip ((p.map (gfMul (gfPow k 1))) ++ [0])).map (fun x => x.1 ^^^ x.2)

/-- The generator: roots α^0 to α^7. -/
def rsGenerator : List Nat := (rangeFrom 0 8).foldl timesRoot [1]

/-- One step of the division of the data symbols by the generator; `r` holds the remainder, lowest coefficient first. -/
def rsStep (r : List Nat) (d : Nat) : List Nat :=
  let q := d ^^^ nth 0 r 7
  ((0 :: r.take 7).zip (rsGenerator.take 8)).map (fun x => x.1 ^^^ gfMul q x.2)

/-- The eight check symbols of the 64 data symbols, symbols 64 to 71 of the burst. Symbol 0 is the highest coefficient. DEDUCED: log entry 110. -/
def rsCheck (data : List Nat) : List Nat := (data.foldl rsStep (List.replicate 8 0)).reverse

/-- The value of a burst of 72 symbols at a power of α; zero at the eight roots when the burst is a code word. -/
def rsSyndrome (burst : List Nat) (k : Nat) : Nat := burst.foldl (fun a d => gfPow k a ^^^ d) 0

/-- The symbol that a via carries (R268). -/
def viaSymbol (via : Nat) : Nat := via / 2

/-- Erased and wrong symbols of a burst can be corrected together. -/
def rsDecodes (erased wrong : List Nat) : Bool := decide (erased.length + 2 * (wrong.filter (fun s => !(erased.contains s))).length ≤ 8)

/-! ### The common word code and the far lanes (R274, R276, R277) -/

/-- What the word code makes of a word with errors in some of its 36 nibbles. More than two is beyond what R277 promises; the model takes it as
detected. DESIGN CHOICE: log entry 100. -/
inductive WordCheck where
  | clean | corrected | detected
deriving DecidableEq, Repr

/-- The verdict of the word code (R277). DESIGN CHOICE: log entry 100. -/
def wordCheck (wrong : List Nat) : WordCheck :=
  match dedup wrong with
  | [] => .clean
  | [_] => .corrected
  | _ => .detected

/-- The bit a far lane carries at a beat of a line's burst: word beat / 4, bit 4 · lane + beat mod 4 of its data or, on lanes 32 to 35, of its
check bits (R274). `words`: data and check bits of the four words. -/
def laneBit (words : List (Nat × Nat)) (lane beat : Nat) : Bool :=
  let w := nth (0, 0) words (beat / 4)
  if lane < 32 then bitAt w.1 (4 * lane + beat % 4) else bitAt w.2 (4 * (lane - 32) + beat % 4)

/-- Nibble j of a word's 144 bits, data then check bits. -/
def nibbleOf (w : Nat × Nat) (j : Nat) : Nat := if j < 32 then field w.1 (4 * j + 3) (4 * j) else field w.2 (4 * (j - 32) + 3) (4 * (j - 32))

/-! ### Changes of custody (R278) -/

/-- What protects data: the word code, the symbol code, a ciphertext's word code, the CRC and FCS of a frame. -/
inductive Guard where
  | word | symbol | cipher | frame
deriving DecidableEq, Repr

/-- One act of a change of custody. -/
inductive CustodyAct where
  | form (g : Guard)
  | verify (g : Guard)
  | drop (g : Guard)
deriving DecidableEq, Repr

/-- The six changes of custody. -/
inductive Custody where
  | nearWrite | nearRead | encWrite | encRead | ingress | egress
deriving DecidableEq, Repr

/-- The order of each: the new protection is formed, the old verified, the old dropped. -/
def Custody.acts : Custody → List CustodyAct
  | .nearWrite => [.form .symbol, .verify .word, .drop .word]
  | .nearRead => [.verify .symbol, .form .word, .drop .symbol]
  | .encWrite => [.form .cipher, .verify .word, .drop .word]
  | .encRead => [.form .word, .verify .cipher, .drop .cipher]
  | .ingress => [.form .word, .verify .frame, .drop .frame]
  | .egress => [.form .frame, .verify .word, .drop .word]

/-- Data with the protections it carries and those whose check would fail. -/
structure Guarded where
  carries : List Guard
  bad : List Guard
deriving DecidableEq, Repr

/-- One act; none when a check fails, and the data goes no further (R365). -/
def CustodyAct.run (a : CustodyAct) (d : Guarded) : Option Guarded :=
  match a with
  | .form g => some { d with carries := g :: d.carries }
  | .verify g => if d.bad.contains g then none else some d
  | .drop g => some { d with carries := d.carries.filter (· != g) }

def runActs : List CustodyAct → Guarded → Option Guarded
  | [], d => some d
  | a :: r, d =>
    match a.run d with
    | some d' => runActs r d'
    | none => none

/-- Data passes a change of custody when its old protection verifies. -/
def Custody.passes (k : Custody) (g : Guard) (ok : Bool) : Bool := (runActs k.acts { carries := [g], bad := if ok then [] else [g] }).isSome

end Sys2Proof.Machine
end

