-- ==== Sys2Proof/Machine/Fp.lean ====
section
/-!
DEFINITION. Arithmetic to the bit: formats, exact values, rounding and conversion (R33 to R60, R453).
-/

namespace Sys2Proof.Machine

/-- The element formats of R33. -/
inductive Fmt where
  | int8 | uint8 | e4m3 | e5m2 | bf16 | fp16 | fp32 | int32
deriving DecidableEq, Repr

/-- TDESC.FMT; every other code is reserved (R33). -/
def Fmt.ofCode (c : Nat) : Option Fmt :=
  if c = 0x20 then some .int8 else if c = 0x21 then some .uint8 else if c = 0x22 then some .e4m3
  else if c = 0x23 then some .e5m2 else if c = 0x30 then some .bf16 else if c = 0x31 then some .fp16
  else if c = 0x40 then some .fp32 else if c = 0x41 then some .int32 else none

def Fmt.code : Fmt → Nat
  | .int8 => 0x20 | .uint8 => 0x21 | .e4m3 => 0x22 | .e5m2 => 0x23 | .bf16 => 0x30 | .fp16 => 0x31 | .fp32 => 0x40 | .int32 => 0x41

/-- Bytes per element (R33). -/
def Fmt.size : Fmt → Nat
  | .int8 | .uint8 | .e4m3 | .e5m2 => 1
  | .bf16 | .fp16 => 2
  | .fp32 | .int32 => 4

def Fmt.isInt : Fmt → Bool
  | .int8 | .uint8 | .int32 => true
  | _ => false

/-- FP8, BF16 or FP16: the floating-point operand formats of a matrix product (R39). -/
def Fmt.isNarrowFloat : Fmt → Bool
  | .e4m3 | .e5m2 | .bf16 | .fp16 => true
  | _ => false

def Fmt.isFp8 : Fmt → Bool
  | .e4m3 | .e5m2 => true
  | _ => false

/-- Exponent bits, fraction bits and bias of a floating-point format (R34). -/
def Fmt.params : Fmt → Nat × Nat × Nat
  | .e4m3 => (4, 3, 7)
  | .e5m2 => (5, 2, 15)
  | .bf16 => (8, 7, 127)
  | .fp16 => (5, 10, 15)
  | _ => (8, 23, 127)

/-- Code of the largest finite magnitude (R34). -/
def Fmt.maxCode (f : Fmt) : Nat :=
  match f with
  | .e4m3 => 0x7E
  | _ => (2 ^ f.params.1 - 1) * 2 ^ f.params.2.1 - 1

/-- Canonical NaN (R36). -/
def Fmt.nanCode : Fmt → Nat
  | .e4m3 => 0x7F
  | .e5m2 => 0x7E
  | .bf16 => 0x7FC0
  | .fp16 => 0x7E00
  | _ => 0x7FC00000

def Fmt.signBit (f : Fmt) : Nat := 2 ^ (f.params.1 + f.params.2.1)

/-- Limits of an integer format. -/
def Fmt.intRange : Fmt → Int × Int
  | .int8 => (-128, 127)
  | .uint8 => (0, 255)
  | _ => (-2147483648, 2147483647)

/-- An exact value: NaN, an infinity, or sign, magnitude and exponent m · 2^e, zero keeping its sign (R37). -/
inductive FV where
  | nan
  | inf (neg : Bool)
  | fin (neg : Bool) (m : Nat) (e : Int)
deriving DecidableEq, Repr

/-- Flag masks of ASTAT (R55). -/
abbrev Flags := Bits32
def FOVF : Flags := 1
def FNAN : Flags := 2
def FNANIN : Flags := 4
def ISAT : Flags := 8
def FTINY : Flags := 16
def SNONFIN : Flags := 32

/-- The value stored bits have in a format (R33, R34). -/
def decodeF (f : Fmt) (bits : Nat) : FV :=
  match f with
  | .int8 => let v := signed 8 (bits % 256); .fin (decide (v < 0)) v.natAbs 0
  | .uint8 => .fin false (bits % 256) 0
  | .int32 => let v := signed 32 (bits % 2 ^ 32); .fin (decide (v < 0)) v.natAbs 0
  | f =>
    let (eb, fb, bias) := f.params
    let neg := bitAt bits (eb + fb)
    let ex := field bits (eb + fb - 1) fb
    let fr := bits % 2 ^ fb
    if ex = 2 ^ eb - 1 ∧ f ≠ .e4m3 then (if fr = 0 then .inf neg else .nan)
    else if f = .e4m3 ∧ ex = 15 ∧ fr = 7 then .nan
    else if ex = 0 then .fin neg fr (1 - (bias : Int) - fb)
    else .fin neg (fr + 2 ^ fb) ((ex : Int) - bias - fb)

/-- Rounding modes (R51). -/
inductive RM where
  | rne | rto | rtz | rns
deriving DecidableEq, Repr

def RM.ofCode (c : Nat) : RM := if c = 0 then .rne else if c = 1 then .rto else if c = 2 then .rtz else .rns

/-- m · 2^(-k) to an integer: rounded value, truncated value, inexact (R51, R52). -/
def roundShift (rm : RM) (m k : Nat) : Nat × Nat × Bool :=
  -- far below one half: only the sticky bit of RTO is left (and no power of two is formed for a huge shift)
  if Nat.log2 m + 2 < k then (if rm = .rto ∧ m ≠ 0 then 1 else 0, 0, decide (m ≠ 0)) else
  let hi := m >>> k
  let rem := m % 2 ^ k
  let inexact := rem ≠ 0
  let half := 2 ^ k
  let up :=
    match rm with
    | .rne | .rns => decide (2 * rem > half) || (decide (2 * rem = half) && hi % 2 == 1 && inexact)
    | .rto => inexact && hi % 2 == 0
    | .rtz => false
  (if up then hi + 1 else hi, hi, inexact)

/-- m · 2^e to the integer nearest under rm: the integer and whether it is inexact. DEDUCED: log entry 19. -/
def roundInt (rm : RM) (m : Nat) (e : Int) : Nat × Bool :=
  if e < 0 then let r := roundShift rm m (-e).toNat; (r.1, r.2.2) else (m <<< e.toNat, false)

/-- m · 2^e ≤ n · 2^g for exact comparison. -/
def magLe (m : Nat) (e : Int) (n : Nat) (g : Int) : Bool :=
  let e0 := min e g
  decide (m <<< (e - e0).toNat ≤ n <<< (g - e0).toNat)

/-- A finite value lies beyond an integer range: as rounded under RNE, as it stands under RTO and RTZ (R53). DEDUCED: log entry 19. -/
def beyondInt (rm : RM) (lo hi : Int) (neg : Bool) (m : Nat) (e : Int) (n : Int) : Bool :=
  decide (n < lo) || decide (hi < n) ||
    ((rm == .rto || rm == .rtz) && !(magLe m e (if neg then lo.natAbs else hi.natAbs) 0))

/-- Round a value into a format: the stored bits and the flags R53 and R55 give. DEDUCED: log entry 19. DESIGN CHOICE: log entry 102. -/
def roundF (f : Fmt) (rm : RM) (v : FV) : Nat × Flags :=
  if f.isInt then
    let (lo, hi) := f.intRange
    let w := f.size * 8
    match v with
    | .nan => (0, 0)
    | .inf neg => (wrap w (if neg then lo else hi), ISAT)
    | .fin neg m e =>
      let n : Int := if neg then -((roundInt rm m e).1 : Int) else ((roundInt rm m e).1 : Int)
      if beyondInt rm lo hi neg m e n then (wrap w (if neg then lo else hi), ISAT) else (wrap w n, 0)
  else
    let (_, fb, bias) := f.params
    let sgn (neg : Bool) : Nat := if neg then f.signBit else 0
    match v with
    | .nan => (f.nanCode, 0)
    | .inf neg =>
      if rm = .rns then (sgn neg + f.maxCode, 0)
      else if f = .e4m3 then (f.nanCode, FNAN)
      else (sgn neg + f.maxCode + 1, 0)
    | .fin neg m e =>
      if m = 0 then (sgn neg, 0) else
      let emin : Int := 1 - (bias : Int) - fb
      let q : Int := max (e + (Nat.log2 m : Int) - fb) emin
      let (r, t, inexact) := if e < q then roundShift rm m (q - e).toNat else (m <<< (e - q).toNat, m <<< (e - q).toNat, false)
      let code := (q - emin).toNat * 2 ^ fb + r
      let tcode := (q - emin).toNat * 2 ^ fb + t
      let nearest := rm = .rne ∨ rm = .rns
      let isOver := f.maxCode < code ∨ (¬ nearest ∧ inexact = true ∧ f.maxCode ≤ tcode)
      if isOver then
        (if rm = .rne then (if f = .e4m3 then f.nanCode else sgn neg + f.maxCode + 1) else sgn neg + f.maxCode, FOVF)
      else (sgn neg + code, if inexact && decide (code < 2 ^ fb) then FTINY else 0)

/-! ### Exact operations -/

def FV.isNan : FV → Bool
  | .nan => true
  | _ => false

def FV.isZero : FV → Bool
  | .fin _ 0 _ => true
  | _ => false

def FV.isFinite : FV → Bool
  | .fin .. => true
  | _ => false

def FV.negate : FV → FV
  | .nan => .nan
  | .inf n => .inf (!n)
  | .fin n m e => .fin (!n) m e

def FV.mul : FV → FV → FV
  | .nan, _ => .nan
  | _, .nan => .nan
  | .inf a, .inf b => .inf (a != b)
  | .inf a, .fin b m _ => if m = 0 then .nan else .inf (a != b)
  | .fin a m _, .inf b => if m = 0 then .nan else .inf (a != b)
  | .fin a m e, .fin b n g => .fin (a != b) (m * n) (e + g)

/-- Scaling by 2^k, exact. -/
def FV.scale (v : FV) (k : Int) : FV :=
  match v with
  | .fin n m e => .fin n m (e + k)
  | v => v

/-- The signed numerator of a finite value over 2^e. -/
def alignTo (neg : Bool) (m : Nat) (e e0 : Int) : Int :=
  let n : Int := ((m <<< (e - e0).toNat : Nat) : Int)
  if neg then -n else n

/-- Exact sum; an exact zero is +0 unless both operands are -0 (R37). -/
def FV.add : FV → FV → FV
  | .nan, _ => .nan
  | _, .nan => .nan
  | .inf a, .inf b => if a = b then .inf a else .nan
  | .inf a, _ => .inf a
  | _, .inf b => .inf b
  | .fin a m e, .fin b n g =>
    let e0 := min e g
    let t := alignTo a m e e0 + alignTo b n g e0
    if t = 0 then .fin (a && b) 0 0 else .fin (decide (t < 0)) t.natAbs e0

def FV.sub (a b : FV) : FV := a.add b.negate

/-- Order of two values that are not NaN: a < b (IEEE 754-2019, R38). -/
def FV.lt : FV → FV → Bool
  | .nan, _ => false
  | _, .nan => false
  | .inf a, .inf b => a && !b
  | .inf a, .fin .. => a
  | .fin .., .inf b => !b
  | .fin a m e, .fin b n g => let e0 := min e g; decide (alignTo a m e e0 < alignTo b n g e0)

/-- A computed value with the flags of its computation. -/
abbrev W (α : Type) := α × Flags

def fp (x : Bits32) : FV := decodeF .fp32 x.toNat

/-- FP32 rounding of an exact result; FNAN when it is a NaN made from operands that are none (R36, R55). -/
def rnd (rm : RM) (nanIn : Bool) (v : FV) : W Bits32 :=
  let (b, fl) := roundF .fp32 rm v
  (BitVec.ofNat 32 b, if v.isNan && !nanIn then fl ||| FNAN else fl)

def rne (nanIn : Bool) (v : FV) : W Bits32 := rnd .rne nanIn v

/-- RNS rounds to FP32 as RNE (R455). -/
def RM.fp32 : RM → RM
  | .rns => .rne
  | r => r

def fadd (rm : RM) (a b : Bits32) : W Bits32 := rnd rm ((fp a).isNan || (fp b).isNan) ((fp a).add (fp b))
def fsub (rm : RM) (a b : Bits32) : W Bits32 := rnd rm ((fp a).isNan || (fp b).isNan) ((fp a).sub (fp b))
def fmul (rm : RM) (a b : Bits32) : W Bits32 := rnd rm ((fp a).isNan || (fp b).isNan) ((fp a).mul (fp b))
def ffma (rm : RM) (a b c : Bits32) : W Bits32 :=
  rnd rm ((fp a).isNan || (fp b).isNan || (fp c).isNan) (((fp a).mul (fp b)).add (fp c))

def nan32 : Bits32 := 0x7FC00000
def inf32 : Bits32 := 0x7F800000
def ninf32 : Bits32 := 0xFF800000
def one32 : Bits32 := 0x3F800000

/-- Minimum and maximum with -0 below +0 and NaN absorbing (R38). -/
def fmin (a b : Bits32) : Bits32 :=
  let x := fp a; let y := fp b
  if x.isNan || y.isNan then nan32
  else if x.isZero && y.isZero then (if a.getLsbD 31 then a else b)
  else if y.lt x then b else a

def fmax (a b : Bits32) : Bits32 :=
  let x := fp a; let y := fp b
  if x.isNan || y.isNan then nan32
  else if x.isZero && y.isZero then (if a.getLsbD 31 then b else a)
  else if x.lt y then b else a

def isNan32 (a : Bits32) : Bool := (fp a).isNan

/-- Widening to FP32; a NaN becomes canonical, INT32 rounds with RNE (R36, R38, R455). -/
def widen (f : Fmt) (bits : Nat) : Bits32 := BitVec.ofNat 32 (roundF .fp32 .rne (decodeF f bits)).1

/-- FNANIN when an operand read from a source is a NaN (R453). -/
def nanFlag (f : Fmt) (bits : Nat) : Flags := if (decodeF f bits).isNan then FNANIN else 0

/-- One rounding of a stored value into another format: a conversion (R53). -/
def convert (src dst : Fmt) (rm : RM) (bits : Nat) : Nat × Flags :=
  let v := decodeF src bits
  let (b, fl) := roundF dst rm v
  (b, if v.isNan then fl ||| FNANIN else fl)

/-- An FP32 value made inside the instruction rounded into its destination: a NaN sets no further flag (R453). -/
def narrow (dst : Fmt) (rm : RM) (x : Bits32) : Nat × Flags := roundF dst rm (fp x)

/-- The ratio n / d rounded to FP32 with RNE, for d > 0: the quotient is formed with a sticky bit below 64 fraction bits. -/
def ratio32 (n d : Nat) : Bits32 :=
  let q := (n <<< 64) / d
  let sticky := if (n <<< 64) % d = 0 then 0 else 1
  BitVec.ofNat 32 (roundF .fp32 .rne (.fin false (2 * q + sticky) (-65))).1

/-! ### Amax and scales (R56, R57) -/

/-- The larger magnitude of an amax so far and an element, both FP32; NaN wins over infinity (R56). -/
def amaxStep (a x : Bits32) : Bits32 :=
  if isNan32 a || isNan32 x then nan32 else
  let m := x &&& 0x7FFFFFFF
  if m.toNat > a.toNat then m else a

def amaxOf (l : List Bits32) : Bits32 := l.foldl amaxStep 0

/-- Largest finite value of a destination of R57 as m · 2^e. DEDUCED: log entry 18. -/
def scaleMax (f : Fmt) : Nat × Int :=
  match f with
  | .e4m3 => (448, 0)
  | .e5m2 => (57344, 0)
  | .int8 => (127, 0)
  | .uint8 => (255, 0)
  | .int32 => (2147483647, 0)
  | f => match decodeF f f.maxCode with
    | .fin _ m e => (m, e)
    | _ => (1, 0)

/-- The scale code of an amax for a destination and a margin (R57). -/
def scaleCode (a : Bits32) (f : Fmt) (margin : Nat) : Nat :=
  match fp a with
  | .fin _ m e =>
    if m = 0 then 127 else
    let (n, g) := scaleMax f
    let guess : Int := ((Nat.log2 n : Int) + g) - ((Nat.log2 m : Int) + e)
    let s : Int := if magLe m (e + guess) n g then guess else guess - 1
    let code := 127 - (s - margin)
    (max 1 (min 254 code)).toNat
  | _ => 127

end Sys2Proof.Machine
end

