-- ==== Sys2Proof/Machine/Layouts.lean ====
section
/-!
DEFINITION. Layouts the device reads: instruction words, tensor and task descriptors, packets, items, chain and prologue records (R65 to R92, R102, R127, R155 to R157, R172).
-/

namespace Sys2Proof.Machine

/-- Context fault codes of R368. -/
inductive CFault where
  | illegalInstruction | illegalDescriptor | programBounds | partition | contextIdentity | privilege | version | unitAbsent
  | shadowCapacity | kvCapacity | compressionCapacity | hang | noProgress
deriving DecidableEq, Repr

def CFault.code : CFault → Nat
  | .illegalInstruction => 1 | .illegalDescriptor => 2 | .programBounds => 3 | .partition => 4 | .contextIdentity => 5
  | .privilege => 6 | .version => 7 | .unitAbsent => 8 | .shadowCapacity => 9 | .kvCapacity => 10 | .compressionCapacity => 11
  | .hang => 12 | .noProgress => 13

/-- A computation that a context fault can end (R95). -/
abbrev X (α : Type) := Except CFault α

/-! ### Instruction words (R65) -/

/-- Operand bits [hi:lo] of a word. -/
def InstrWordBits (w : InstrWord) (hi lo : Nat) : Nat := field w.toNat hi lo

def wClass (w : InstrWord) : Nat := InstrWordBits w 3 0
def wOp (w : InstrWord) : Nat := InstrWordBits w 11 4
def wPsel (w : InstrWord) : Nat := InstrWordBits w 15 12
def wIver (w : InstrWord) : Nat := InstrWordBits w 127 124

def clCTRL : Nat := 0
def clMOVE : Nat := 1
def clMMA : Nat := 2
def clWIN : Nat := 3
def clVEC : Nat := 4
def clTAB : Nat := 5
def clATTN : Nat := 6
def clCVT : Nat := 7
def clSYNC : Nat := 8
def clPUSH : Nat := 9

/-- The OP values a class defines (R73, R77 to R79, R81, R83 to R87). -/
def opDefined (cl op : Nat) : Bool :=
  if cl = clCTRL then decide (op ≤ 0x10)
  else if cl = clMOVE then decide (op ≤ 4)
  else if cl = clVEC then decide (op ≤ 7) || (decide (0x10 ≤ op) && decide (op ≤ 0x14)) || op == 0x18 || op == 0x19 || op == 0x20
  else if cl = clTAB || cl = clATTN then decide (op ≤ 1)
  else if cl = clSYNC then decide (op ≤ 3)
  else if cl ≤ clPUSH then op == 0
  else false

/-- The classes each target kind may run (R67). -/
def classAllowed (k : UnitKind) (cl : Nat) : Bool :=
  match k with
  | .cluster => decide (cl ≤ clPUSH) && cl != clATTN
  | .pipeline => cl == clCTRL || cl == clMOVE || cl == clMMA || cl == clATTN || cl == clSYNC || cl == clPUSH
  | .move => cl == clCTRL || cl == clMOVE || cl == clSYNC
  | .video => false

/-- CTRL and SYNC operands (R72). -/
def fSD (w : InstrWord) : Nat := InstrWordBits w 20 16
def fSA (w : InstrWord) : Nat := InstrWordBits w 25 21
def fSB (w : InstrWord) : Nat := InstrWordBits w 30 26
def fAX (w : InstrWord) : Nat := InstrWordBits w 34 31
def fTX (w : InstrWord) : Nat := InstrWordBits w 40 35
def fSUB (w : InstrWord) : Nat := InstrWordBits w 44 41
def fIMMSEL (w : InstrWord) : Bool := bitAt w.toNat 45
def fLEN (w : InstrWord) : Nat := InstrWordBits w 59 46
def fIMM (w : InstrWord) : Nat := InstrWordBits w 123 60

/-! ### Tensor descriptors (R88) -/

structure TD where
  base : Nat
  fmtCode : Nat
  rank : Nat
  cmp : Nat
  ext : List Nat
  str : List Int
  padb : List Nat
  sblk : Nat
  sslot : Nat
  scoff : Int
  cioff : Int
deriving DecidableEq, Repr

def TD.parse (b : BitVec 512) : TD :=
  let n := b.toNat
  { base := field n 47 0, fmtCode := field n 55 48, rank := field n 59 56, cmp := field n 63 60,
    ext := (rangeFrom 0 6).map (fun d => field n (87 + 24 * d) (64 + 24 * d)),
    str := (rangeFrom 0 6).map (fun d => signed 32 (field n (239 + 32 * d) (208 + 32 * d))),
    padb := (rangeFrom 0 3).map (fun d => field n (407 + 8 * d) (400 + 8 * d)),
    sblk := field n 425 424, sslot := field n 437 426, scoff := signed 32 (field n 469 438), cioff := signed 32 (field n 501 470) }

/-- Element format; a checked descriptor has one. -/
def TD.fmt (t : TD) : Fmt := (Fmt.ofCode t.fmtCode).getD .uint8

/-- BASE with the bits below the element size ignored (R88). -/
def TD.addr (t : TD) : Nat := t.base - t.base % t.fmt.size

/-- Extent along d; a dimension at or above RANK has extent 1 (R89, R182). -/
def TD.extD (t : TD) (d : Nat) : Nat := if d < t.rank then nth 0 t.ext d else 1
def TD.strD (t : TD) (d : Nat) : Int := if d < t.rank then nth 0 t.str d else 0

def TD.exts (t : TD) : List Nat := (rangeFrom 0 t.rank).map (fun d => nth 0 t.ext d)

def TD.count (t : TD) : Nat := t.exts.foldl (· * ·) 1

/-- Byte address of an element, modulo 2^48; strides at or above RANK are ignored (R89). -/
def TD.elemAddr (t : TD) (ix : List Nat) : Nat :=
  let sum := (ix.zip (t.str.take t.rank)).foldl (fun (a : Int) p => a + (p.1 : Int) * p.2) 0
  wrap 48 ((t.addr : Int) + (t.fmt.size : Int) * sum)

/-- The descriptor with BASE advanced by a number of elements (R79). -/
def TD.advance (t : TD) (elems : Int) : TD :=
  { t with base := wrap 48 ((t.addr : Int) + (t.fmt.size : Int) * elems),
           scoff := t.scoff - (t.fmt.size : Int) * elems + elems / 32,
           cioff := t.cioff - (t.fmt.size : Int) * elems }

/-- What is checked when a task first uses a descriptor (R90, R162). -/
def TD.check (t : TD) : X Unit :=
  if (Fmt.ofCode t.fmtCode).isNone || t.rank == 0 || decide (6 < t.rank) || decide (3 < t.cmp) || t.sblk == 3 then
    .error .illegalDescriptor
  else if t.sblk == 1 && !(nth 0 t.str 0 == 1 && (rangeFrom 1 (t.rank - 1)).all (fun d => nth 0 t.str d % 32 == 0)) then
    .error .illegalDescriptor
  else .ok ()

/-- Address of the scale code of the block that holds an element (R162). -/
def TD.codeAddr (t : TD) (ix : List Nat) : Nat :=
  let rest := ((ix.drop 1).zip ((t.str.take t.rank).drop 1)).foldl (fun (a : Int) p => a + (p.1 : Int) * (p.2 / 32)) 0
  wrap 48 ((t.addr : Int) + t.scoff + ((nth 0 ix 0 / 32 : Nat) : Int) + rest)

/-- Index tuples in index order, dimension 0 fastest. -/
def tuples : List Nat → List (List Nat)
  | [] => [[]]
  | e :: r => (tuples r).flatMap (fun t => (rangeFrom 0 e).map (fun i => i :: t))

/-- Extent minus one and stride in elements of each dimension. -/
def TD.steps (t : TD) : List (Nat × Int) := (rangeFrom 0 t.rank).map (fun d => (nth 0 t.ext d - 1, nth 0 t.str d))

/-- Strides taken from the smallest on, each beyond the reach of those before: no two elements meet. -/
def nestedSteps : Nat → List (Nat × Int) → Bool
  | _, [] => true
  | reach, p :: r => decide (reach < p.2.natAbs) && nestedSteps (reach + p.1 * p.2.natAbs) r

def hasTwice : List Nat → Bool
  | [] => false
  | x :: r => r.contains x || hasTwice r

/-- Two index tuples map to one address (R89, R97). -/
def TD.aliased (t : TD) : Bool :=
  t.count != 0 && !(nestedSteps 0 (sortBy (fun a b => decide (a.2.natAbs < b.2.natAbs)) (t.steps.filter (fun p => p.1 != 0)))) &&
    hasTwice ((tuples t.exts).map t.elemAddr)

/-- First byte and end of the bytes between which the elements of a tensor lie. -/
def TD.hull (t : TD) : Int × Int :=
  let ends := t.steps.map (fun p => (p.1 : Int) * p.2)
  ((t.addr : Int) + t.fmt.size * ends.foldl (fun a x => a + min 0 x) 0,
    (t.addr : Int) + t.fmt.size * (ends.foldl (fun a x => a + max 0 x) 0 + 1))

/-- Two tensors stored alike share a byte. -/
def TD.overlaps (a b : TD) : Bool :=
  a.count != 0 && b.count != 0 && (a.cmp == 0) == (b.cmp == 0) &&
    (decide (a.hull.1 < 0) || decide (b.hull.1 < 0) || decide (2 ^ 48 < a.hull.2) || decide (2 ^ 48 < b.hull.2) ||
      (decide (a.hull.1 < b.hull.2) && decide (b.hull.1 < a.hull.2))) &&
    (tuples a.exts).any (fun i => (tuples b.exts).any (fun j =>
      decide (a.elemAddr i < b.elemAddr j + b.fmt.size) && decide (b.elemAddr j < a.elemAddr i + a.fmt.size)))

/-! ### Places in a context's memory (R210, R231) -/

def tableStore : Nat := 0x8000

/-- Virtual address of a bank's image. -/
def bankVa (slot bank : Nat) : Nat := tableStore + 0x2000 * (2 * slot + bank)

def up4k (n : Nat) : Nat := (n + 4095) / 4096 * 4096
/-- Bytes of a sequence's root region. -/
def regionBytes (maxLp : Nat) : Nat := up4k (0x1000 + 16 * maxLp) + 0x2000 * ceilDiv maxLp 512

/-! ### Task descriptors (R91) -/

def tProg (t : BitVec 1024) : Nat := field t.toNat 47 4 * 16
def tPlen (t : BitVec 1024) : Nat := field t.toNat 63 48
def tDtab (t : BitVec 1024) : Nat := field t.toNat 111 70 * 64
def tNdesc (t : BitVec 1024) : Nat := field t.toNat 118 112
def tBnd (t : BitVec 1024) : Bool := bitAt t.toNat 119
def tKind (t : BitVec 1024) : Nat := field t.toNat 123 120
def tPrio (t : BitVec 1024) : Nat := field t.toNat 125 124
def tCtx (t : BitVec 1024) : Nat := field t.toNat 135 128
def tVer (t : BitVec 1024) : Nat := field t.toNat 143 136
def tStep (t : BitVec 1024) : Nat := field t.toNat 175 144
def tDeps (t : BitVec 1024) : Nat := field t.toNat 189 176
def tSucc (t : BitVec 1024) : Nat := field t.toNat 239 192
def tNsucc (t : BitVec 1024) : Nat := field t.toNat 255 240
def tHome (t : BitVec 1024) : Nat := field t.toNat 260 256

/-- The admitted copy carries the iteration's step index (R91). -/
def tWithStep (t : BitVec 1024) (step : Nat) : BitVec 1024 := BitVec.ofNat 1024 (setField t.toNat 175 144 step)

def kindOfCode (k : Nat) : Option UnitKind :=
  if k = 0 then some .cluster else if k = 1 then some .pipeline else if k = 2 then some .move else if k = 3 then some .video else none

/-- Reserved KIND, PRIO or HOME, PLEN of 0 where it is used, NDESC above 64 (R92). DEDUCED: log entry 29. -/
def tIllegal (t : BitVec 1024) : Bool :=
  decide (3 < tKind t) || tPrio t == 3 || (decide (24 ≤ tHome t) && decide (tHome t ≤ 30)) ||
    (tPlen t == 0 && tKind t != 3) || decide (64 < tNdesc t)

/-! ### Packets (R102) -/

def pType (p : Nat) : Nat := field p 7 0
def pCqe (p : Nat) : Bool := bitAt p 8
def pTid (p : Nat) : Nat := field p 23 16
def pTag (p : Nat) : Bits32 := BitVec.ofNat 32 (field p 63 32)
def pPtr (p : Nat) : Nat := field p 111 64
def pCarr (p : Nat) : Nat := field p 175 132 * 16
def pCount (p : Nat) : Nat := field p 215 192
def pStep0 (p : Nat) : Bits32 := BitVec.ofNat 32 (field p 255 224)
def pRepeat (p : Nat) : Nat := field p 271 256
def pScope (p : Nat) : Nat := field p 273 272
def pStream (p : Nat) : Nat := field p 287 280
def pBind (p : Nat) : List Word64 := (rangeFrom 0 16).map (fun i => BitVec.ofNat 64 (field p (1087 + 64 * i) (1024 + 64 * i)))

/-! ### Accord items (R127) -/

def iType (i : ItemBits) : Nat := field i.toNat 15 0
def iTarget (i : ItemBits) : Nat := field i.toNat 63 32
def iValue (i : ItemBits) : Nat := field i.toNat 191 64

/-! ### Epilogue stages (R156, R157) and prologues (R172) -/

structure Stage where
  opc : Nat
  fmtCode : Nat
  rm : Nat
  param : Nat
deriving DecidableEq, Repr

def chNst (c : BitVec 512) : Nat := field c.toNat 3 0
def chRmw (c : BitVec 512) : Nat := field c.toNat 5 4

def stageAt (c : BitVec 512) (k : Nat) : Stage :=
  let w := field c.toNat (64 + 56 * k + 55) (64 + 56 * k)
  { opc := field w 3 0, fmtCode := field w 11 4, rm := field w 13 12, param := field w 55 14 }

def chStages (c : BitVec 512) : List Stage := (rangeFrom 0 (chNst c)).map (stageAt c)

def Stage.fmt (g : Stage) : Fmt := (Fmt.ofCode g.fmtCode).getD .fp32

def Stage.isValue (g : Stage) : Bool := decide (1 ≤ g.opc) && decide (g.opc ≤ 5)

/-- Bits of PARAM a stage names (R157); the rest are reserved. -/
def Stage.paramWidth (g : Stage) : Nat :=
  match g.opc with
  | 1 => 11 | 2 => 11 | 3 => 17 | 4 => 3 | 5 => 16 | 6 => 36 | 7 => 36 | 8 => 41 | 9 => 1
  | _ => 0

def qKind (q : BitVec 512) : Nat := field q.toNat 3 0
def qAff (q : BitVec 512) : Bool := bitAt q.toNat 4
def qAda (q : BitVec 512) : Bool := bitAt q.toNat 5
def qPact (q : BitVec 512) : Bool := bitAt q.toNat 6
def qSlot (q : BitVec 512) : Nat := field q.toNat 9 7
def qOfmt (q : BitVec 512) : Nat := field q.toNat 17 10
def qRm (q : BitVec 512) : Nat := field q.toNat 19 18
def qEps (q : BitVec 512) : Bits32 := BitVec.ofNat 32 (field q.toNat 63 32)
def qSax (q : BitVec 512) : Nat := field q.toNat 67 64
def qSof (q : BitVec 512) : Nat := field q.toNat 72 68
def qSbs (q : BitVec 512) : Nat := field q.toNat 77 73
def qSrs (q : BitVec 512) : Nat := field q.toNat 89 78
def qScnt (q : BitVec 512) : Nat := field q.toNat 101 90
def qGlog (q : BitVec 512) : Nat := field q.toNat 104 102
def qTg (q : BitVec 512) : Nat := field q.toNat 111 106
def qTbt (q : BitVec 512) : Nat := field q.toNat 117 112
def qTas (q : BitVec 512) : Nat := field q.toNat 123 118
def qTah (q : BitVec 512) : Nat := field q.toNat 129 124
def qRow (q : BitVec 512) : Nat := field q.toNat 134 130
def qRbs (q : BitVec 512) : Nat := field q.toNat 139 135
def qRps (q : BitVec 512) : Nat := field q.toNat 144 140
def qTwen (q : BitVec 512) : Bool := bitAt q.toNat 145
def qTwax (q : BitVec 512) : Nat := field q.toNat 149 146
def qTws (q : BitVec 512) : Nat := field q.toNat 154 150

end Sys2Proof.Machine
end

