-- ==== Sys2Proof/Machine/Memory.lean ====
section
/-!
DEFINITION. Memory in canonical form and the physical map: single bytes, byte strings, page copies (R264, R266, R286).
-/

namespace Sys2Proof.Machine

namespace Memory

/-- The byte at an address; an unlisted byte reads as zero (R286). DESIGN CHOICE: log entry 5. -/
def get : Memory → Nat → Byte
  | [], _ => 0
  | (b, v) :: r, a => if b == a then v else if a < b then 0 else get r a

/-- Write one byte and keep the canonical form. -/
def set : Memory → Nat → Byte → Memory
  | [], a, v => if v == 0 then [] else [(a, v)]
  | (b, w) :: r, a, v =>
    if a < b then (if v == 0 then (b, w) :: r else (a, v) :: (b, w) :: r)
    else if b == a then (if v == 0 then r else (a, v) :: r)
    else (b, w) :: set r a v

/-- Rising addresses, every one at or above lo, and no zero byte. -/
def sortedFrom : Nat → Memory → Bool
  | _, [] => true
  | lo, (b, v) :: r => decide (lo ≤ b) && !(v == 0) && sortedFrom (b + 1) r

/-- The canonical form. DESIGN CHOICE: log entry 5. -/
def wf (m : Memory) : Bool := sortedFrom 0 m

/-- The cells of bytes from an address on, zeros left out. -/
def cells : Nat → Bytes → Memory
  | _, [] => []
  | a, v :: r => if v == 0 then cells (a + 1) r else (a, v) :: cells (a + 1) r

/-- [a, a + n) holds the cells of a block and nothing else. -/
def setBlock (m : Memory) (a n : Nat) (block : Memory) : Memory :=
  m.filter (fun c => decide (c.1 < a)) ++ block ++ m.filter (fun c => decide (a + n ≤ c.1))

/-- Bytes written from an address on. -/
def setBytes (m : Memory) (a : Nat) (bs : Bytes) : Memory := setBlock m a bs.length (cells a bs)

def getBytes (m : Memory) (a n : Nat) : Bytes := (rangeFrom a n).map (get m)

/-- Every byte of [a, a + n) becomes zero. -/
def erase (m : Memory) (a n : Nat) : Memory := m.filter (fun c => decide (c.1 < a) || decide (a + n ≤ c.1))

/-- [dst, dst + n) becomes a copy of [src, src + n). -/
def copy (m : Memory) (src dst n : Nat) : Memory :=
  setBlock m dst n ((m.filter (fun c => decide (src ≤ c.1) && decide (c.1 < src + n))).map (fun c => (c.1 - src + dst, c.2)))

end Memory

def pageSize : Nat := 0x200000
def lineSize : Nat := 64

/-- Die n's near tier (R264). -/
def nearBase (die : Nat) : Nat := 0x800000000 * die
/-- Stack n's far tier (R264). -/
def farBase (stack : Nat) : Nat := 0x10000000000 + 0x1800000000 * stack
def nearPages : Nat := 16384
def farPages : Nat := 49152

def nearEnd : Nat := 0xC000000000
def farEnd : Nat := 0x34000000000

/-- A physical page's tier (true for far), die or stack, and page number there. -/
def pageOf (phys : Nat) : Option (Bool × Nat × Nat) :=
  if phys < nearEnd then some (false, phys / 0x800000000, phys % 0x800000000 / pageSize)
  else if 0x10000000000 ≤ phys ∧ phys < farEnd then
    some (true, (phys - 0x10000000000) / 0x1800000000, (phys - 0x10000000000) % 0x1800000000 / pageSize)
  else none

/-- What lies at a device physical address (R264). -/
inductive PhysPlace where
  | near (die off : Nat)
  | far (stack off : Nat)
  | scratchpad (die unit off : Nat)
  | staging (die unit off : Nat)
  | controlPage (ctx off : Nat)
  | registers (off : Nat)
deriving DecidableEq, Repr

/-- The physical address map; none where nothing is mapped, the stacks a module of the order ZLM-2410-H lacks among it (R264). -/
def physPlace (o : Order) (a : Nat) : Option PhysPlace :=
  if a < nearEnd then some (.near (a / 0x800000000) (a % 0x800000000))
  else if 0x10000000000 ≤ a ∧ a < farEnd then
    let n := (a - 0x10000000000) / 0x1800000000
    if o = .half ∧ n % 2 = 1 then none else some (.far n ((a - 0x10000000000) % 0x1800000000))
  else if 0x40000000000 ≤ a ∧ a < 0x41800000000 then
    let d := (a - 0x40000000000) / 0x100000000
    let x := (a - 0x40000000000) % 0x100000000
    if x < 0x8000000 then some (.scratchpad d (x / 0x800000) (x % 0x800000))
    else if x < 0x9000000 then some (.staging d ((x - 0x8000000) / 0x200000) ((x - 0x8000000) % 0x200000))
    else none
  else if 0x50000000000 ≤ a ∧ a < 0x50000100000 then some (.controlPage ((a - 0x50000000000) / 0x1000) ((a - 0x50000000000) % 0x1000))
  else if 0x50000100000 ≤ a then some (.registers (a - 0x50000100000))
  else none

def physPage (far : Bool) (die page : Nat) : Nat := (if far then farBase die else nearBase die) + pageSize * page

/-- Where the model keeps the byte at an offset of a context's scratchpad windows: a context's share moves with its window
whatever physical unit holds it (R281, R388), so it is kept by context and window offset, above the physical map. DESIGN CHOICE: log entry 81. -/
def winKey (ctx off : Nat) : Nat := 2 ^ 56 + ctx * 2 ^ 40 + off

/-- Window part of the address space (R280). -/
def winLo : Nat := 0xFE0000000000
def winHi : Nat := 0xFE1800000000
/-- Built-in table region (R207, R280). -/
def tabLo : Nat := 0xFFFFFFE00000

/-- Mesh row and column of a compute die (R16). -/
def dieRow (d : Nat) : Nat := d / 6
def dieCol (d : Nat) : Nat := d % 6

/-- I/O die of the quadrant in which a compute die lies (R19). -/
def quadrant (die : Nat) : Nat := 24 + (if dieCol die < 3 then 0 else 2) + (if dieRow die < 2 then 0 else 1)

def absDiff (a b : Nat) : Nat := (a - b) + (b - a)

/-- Tradewind hops between two compute dies under dimension order (R319). -/
def hops (a b : Nat) : Nat := absDiff (dieRow a) (dieRow b) + absDiff (dieCol a) (dieCol b)

/-- The stack that serves a die's far-tier traffic (R2, R16). -/
def farStack (o : Order) (die : Nat) : Nat :=
  match o with
  | .full => die
  | .half => die - die % 2

def stackFitted (o : Order) (stack : Nat) : Bool :=
  match o with
  | .full => decide (stack < 24)
  | .half => decide (stack < 24) && stack % 2 == 0

/-! ### Free pages (R266, R271, R285) -/

/-- Lowest page at or above `p` that a tier can give. -/
def Tier.findFree (t : Tier) (limit : Nat) : Nat → Nat → Option Nat
  | _, 0 => none
  | p, fuel + 1 =>
    if limit ≤ p then none
    else if t.used.contains p || t.scrubbing.contains p || t.bad.contains p then findFree t limit (p + 1) fuel
    else some p

def Tier.firstFree (t : Tier) (far : Bool) : Option Nat :=
  if t.excluded || t.evacuating then none
  else t.findFree (if far then farPages else nearPages) (if far then 0 else 8)
    (t.used.length + t.scrubbing.length + t.bad.length + 1)

def Tier.freeCount (t : Tier) (far : Bool) : Nat :=
  if t.excluded || t.evacuating then 0
  else (if far then farPages else nearPages - 8) - t.used.length - t.scrubbing.length -
    (t.bad.filter (fun p => !(t.used.contains p || t.scrubbing.contains p))).length

/-- Dies in the order a placement tries them: the preferred die, then by hops, the lowest number first. DESIGN CHOICE: log entry 81. -/
def dieOrder (pref : Nat) : List Nat :=
  sortBy (fun a b => decide (hops pref a < hops pref b) || (hops pref a == hops pref b && decide (a < b))) (rangeFrom 0 24)

/-- The fitted die or stack with the most free pages of a tier, the lowest number on a tie (R460). -/
def mostFree (o : Order) (ts : List Tier) (far : Bool) : Nat :=
  (argMin (fun d => farPages + 1 - (nth Tier.fresh ts d).freeCount far)
    ((rangeFrom 0 24).filter (fun d => !far || stackFitted o d))).getD 0

end Sys2Proof.Machine
end

