-- ==== Sys2Proof/Machine/Ops.lean ====
section
/-!
DEFINITION. The shared operations of the machine: units and contexts, event records, completions, translation, shadows, context memory, and a context fault.
-/

namespace Sys2Proof

/-! ### Units and contexts -/

def UnitKind.ix : UnitKind → Nat
  | .cluster => 0 | .pipeline => 1 | .move => 2 | .video => 3

def UnitId.key (u : UnitId) : Nat := (u.die * 4 + u.kind.ix) * 16 + u.idx

/-- Units of a kind on a die (R18, R19). -/
def unitCount (k : UnitKind) : Nat :=
  match k with
  | .cluster => 16 | .pipeline => 8 | .move => 4 | .video => 2

/-- The unit exists; a module of the order ZLM-2410-H has no video engines (R2, R13). -/
def UnitId.exists_ (o : Machine.Order) (u : UnitId) : Bool :=
  decide (u.idx < unitCount u.kind) &&
    (match u.kind with
     | .video => o == .full && decide (24 ≤ u.die) && decide (u.die < 28)
     | _ => decide (u.die < 24))

end Sys2Proof

namespace Sys2Proof.Machine

namespace State

def run? (s : State) (u : UnitId) : Option Run := NMap.get? s.units u.key
def setRun (s : State) (u : UnitId) (r : Run) : State := { s with units := NMap.set s.units u.key r }

/-- A cluster or pipeline runs a task. -/
def arrayBusy (us : NMap Run) : Bool := us.any (fun p => decide (p.1 / 16 % 4 ≤ 1))

/-- A unit is free again; with no array active the dispatch ramp starts anew (R426). DESIGN CHOICE: log entry 33. -/
def dropUnit (s : State) (k : Nat) : State :=
  let us := NMap.erase s.units k
  { s with units := us, power := if arrayBusy us then s.power else { s.power with rampStage := 0 } }

def freeUnit (s : State) (u : UnitId) : State := s.dropUnit u.key
def ctx? (s : State) (c : Nat) : Option Ctx := NMap.get? s.ctxs c
def setCtx (s : State) (c : Nat) (x : Ctx) : State := { s with ctxs := NMap.set s.ctxs c x }
def modCtx (s : State) (c : Nat) (f : Ctx → Ctx) : State := { s with ctxs := NMap.modify s.ctxs c f }
def host? (s : State) (h : Nat) : Option HostRec := NMap.get? s.hosts h
def setHost (s : State) (h : Nat) (x : HostRec) : State := { s with hosts := NMap.set s.hosts h x }
def emit (s : State) (o : Out) : State := { s with out := s.out ++ [o] }
/-- The next unused index of the free-value counter. DESIGN CHOICE: log entry 6. -/
def tick (s : State) : State := { s with freeIx := s.freeIx + 1 }

def modRun (s : State) (u : UnitId) (f : Run → Run) : State := { s with units := NMap.modify s.units u.key f }

end State

/-- The context's epoch changed in place. -/
def Ctx.modEpoch (c : Ctx) (f : Epoch → Epoch) : Ctx := { c with epoch := c.epoch.map f }

/-- STATUS.PCAUSE: the highest cause in force (R100). -/
def Ctx.pcause (c : Ctx) : Nat := if c.pausePages then 3 else if c.pausePoison then 2 else if c.pauseHold then 1 else 0
def Ctx.paused (c : Ctx) : Bool := c.pauseHold || c.pausePoison || c.pausePages

/-- The commit takes the staged request; it is no longer pending (R131). -/
def Ctx.takeStaged (c : Ctx) : Ctx := { c with taken := c.taken ++ c.apend.toList, apend := none }

/-- Dispatch and admission of the context may proceed (R100, R369, R391). -/
def Ctx.canRun (c : Ctx) : Bool := c.active && !c.paused && !c.faulted && !c.drydown

/-! ### Event records (R26, R297, R399, R420, R421) -/

/-- One record emitted by a die: its sequence number rises by one and the entry enters the log, the oldest leaving a full log.
DEDUCED: log entry 97. -/
def State.log (s : State) (die isl idx : Nat) (record : Nat) : State :=
  let seq := nth 0 s.dseq die
  let e : LogEntry :=
    { record := BitVec.ofNat 128 record, dseq := seq, lcyc := Config.localCycle s.freeIx, sdie := die, isl := isl, idx := idx }
  let l := s.colyr.log ++ [e]
  let l := if l.length > 65536 then l.drop 1 else l
  { s with dseq := setNth s.dseq die (seq + 1), freeIx := s.freeIx + 1,
           colyr := { s.colyr with log := l, logNext := s.colyr.logNext + 1 } }

/-- A recovery record (R399). -/
def recRecovery (kind die ukind unit ctx att step cause act detail : Nat) : Nat :=
  kind + die * 2 ^ 8 + ukind * 2 ^ 13 + unit * 2 ^ 16 + ctx * 2 ^ 20 + att % 16 * 2 ^ 28 + step % 2 ^ 32 * 2 ^ 32 +
    cause * 2 ^ 64 + act * 2 ^ 72 + detail % 2 ^ 48 * 2 ^ 80

/-- A memory record; COUNT saturates at 1,023 (R297). -/
def recMemory (kind die tier chan sym line count ctx : Nat) : Nat :=
  kind + die * 2 ^ 8 + tier * 2 ^ 13 + chan * 2 ^ 14 + sym * 2 ^ 21 + line % 2 ^ 38 * 2 ^ 32 + min 1023 count * 2 ^ 70 + ctx * 2 ^ 80

/-- A security and management record (R421). -/
def recSecurity (kind lport slot cause detail : Nat) : Nat :=
  kind + lport * 2 ^ 8 + slot * 2 ^ 13 + cause % 256 * 2 ^ 24 + detail % 2 ^ 64 * 2 ^ 32

/-- Log from the management island. -/
def State.logMgmt (s : State) (kind lport slot cause detail : Nat) : State :=
  s.log 24 0xA 0 (recSecurity kind lport slot cause detail)

/-- Log a recovery record from a die's control group. -/
def State.logRec (s : State) (kind die ukind unit ctx att step cause act detail : Nat) : State :=
  s.log die (if die < 24 then 2 else 6) 0 (recRecovery kind die ukind unit ctx att step cause act detail)

/-! ### Completions (R99, R101, R107, R463) -/

/-- The bits of a completion record without SEQ (R107). -/
def mkRec (kind reason : Nat) (tag step astat user : Bits32) (tbw demote : Bool) : Nat :=
  kind + reason % 256 * 2 ^ 8 + tag.toNat * 2 ^ 32 + step.toNat * 2 ^ 64 + astat.toNat * 2 ^ 96 + user.toNat * 2 ^ 128 +
    (if tbw then 2 ^ 160 else 0) + (if demote then 2 ^ 161 else 0)

/-- Ring size exponent of a configuration field; values outside 4 to 16 act as 4 (R101). -/
def ringLog (f : Nat) : Nat := if 4 ≤ f ∧ f ≤ 16 then f else 4

def cqHwin (c : Ctx) : Nat := field c.cqCfg.toNat 3 0
def cqLog (c : Ctx) : Nat := ringLog (field c.cqCfg.toNat 8 4)
/-- OFFSET with bits [20:16] of the register ignored: 32-byte alignment (R101). -/
def cqOffset (c : Ctx) : Nat := field c.cqCfg.toNat 63 21 * 32

/-- A window of the registration that the context's transfers use. -/
def hostWindow (c : Ctx) (w : Nat) : Option Window := (c.reg.map (·.wins)).bind (fun l => l.find? (fun x => x.index == w))

/-- The ring lies in a registered window (R463). -/
def cqValid (c : Ctx) : Bool :=
  match hostWindow c (cqHwin c) with
  | none => false
  | some w => decide (cqOffset c + 32 * 2 ^ cqLog c ≤ w.len)

/-- The attachment is up and its transfers go out. -/
def HostRec.reachable (h : HostRec) : Bool :=
  match h.phase with
  | .registered | .detaching _ => true
  | _ => false

/-- A record can be written now. -/
def cqRoom (h : HostRec) (c : Ctx) : Bool :=
  h.reachable && cqValid c && decide ((c.cqTail - c.cqHead).toNat < 2 ^ cqLog c)

/-! ### Sending (R327, R331) -/

/-- LLPRIO, the lossless priority, which RoCEv2 traffic uses (R327, R414). -/
def netPrio (s : State) : Nat := field s.colyr.net.toNat 2 0

/-- Priority of what the module sends: firmware's own frames take priority 0. PRESUMED: log entry 106. -/
def TxItem.prio (s : State) (x : TxItem) : Nat := if x.roce then netPrio s else 0

def portRec (s : State) (port : Nat) : PortRec := nth PortRec.fresh s.ports port
def modPort (s : State) (port : Nat) (f : PortRec → PortRec) : State := { s with ports := setNth s.ports port (f (portRec s port)) }

/-- The link partner has paused a priority of the port. -/
def portPaused (s : State) (port prio : Nat) : Bool := nth false (portRec s port).paused prio

/-- A frame or message leaves by a logical port, or waits there while its priority is paused (R327). -/
def State.sendItem (s : State) (port : Nat) (x : TxItem) : State :=
  if portPaused s port (x.prio s) then modPort s port (fun p => { p with tx := p.tx ++ [x] }) else s.emit x.out

/-- RoCEv2 traffic to a host leaves by its logical port (R327, R339). `ctx`: the context whose queue pair sends it, none for the control pair. -/
def State.toHost (s : State) (slot : Nat) (ctx : Option Nat) (r : Option CqRec) (o : Out) : State :=
  match s.host? slot with
  | none => s
  | some h => s.sendItem h.port { slot := some slot, ctx := ctx, roce := true, record := r, out := o }

/-- RoCEv2 traffic to the host of a slot is paused. -/
def hostPaused (s : State) (slot : Nat) : Bool := (s.host? slot).any (fun h => portPaused s h.port (netPrio s))

/-- Immediate of an event: the context number in bits [7:0], the low 24 bits of SEQ in bits [31:8] (R341). -/
def evtImm (cn seq : Nat) : Nat := cn % 2 ^ 8 + seq % 2 ^ 24 * 2 ^ 8

/-- Write one record to host memory and raise its event when EVT is set (R99, R341). -/
def writeRec (s : State) (cn : Nat) (c : Ctx) (r : CqRec) : State :=
  match hostWindow c (cqHwin c) with
  | none => s
  | some w =>
    let va := w.va + cqOffset c + 32 * (c.cqTail.toNat % 2 ^ cqLog c)
    let seq := field r.toNat 255 192
    let s := (s.toHost c.slot (some cn) (some r) (.hostWrite c.slot w.rkey va (toBytes 32 r.toNat))).setCtx cn { c with cqTail := c.cqTail + 1 }
    if (c.reg.map (·.evt)).getD false then s.toHost c.slot (some cn) none (.sendImm c.slot (evtImm cn seq)) else s

/-- What waits at the ports and meets a condition is not sent. -/
def dropTx (s : State) (p : TxItem → Bool) : State :=
  { s with ports := s.ports.map (fun q => { q with tx := q.tx.filter (fun x => !(p x)) }) }

/-- Something of the context waits to be sent. -/
def unsent (s : State) (cn : Nat) : Bool := s.ports.any (fun q => q.tx.any (fun x => x.ctx == some cn && x.record.isNone))

/-- Write held records while there is room, oldest first; CQFULL while any is left, a lost attachment included. DESIGN CHOICE: log entry 103. -/
def drainRecs : Nat → State → Nat → State
  | 0, s, _ => s
  | n + 1, s, cn =>
    match s.ctx? cn with
    | none => s
    | some c =>
      match c.heldRecs, s.host? c.slot with
      | r :: rest, some h =>
        if cqRoom h c then drainRecs n (writeRec s cn { c with heldRecs := rest } r) cn
        else s.setCtx cn { c with cqfull := true }
      | [], _ => s.setCtx cn { c with cqfull := false }
      | _ :: _, none => s.setCtx cn { c with cqfull := true }

/-- Post one completion record: SEQ is given, and the record is written or held in order of SEQ (R101, R107, R463). A context in
Drydown gets none (R391). -/
def post (s : State) (cn : Nat) (body : Nat) : State :=
  match s.ctx? cn with
  | none => s
  | some c =>
    if c.drydown then s else
    let r : CqRec := BitVec.ofNat 256 (body + c.nextSeq.toNat * 2 ^ 192)
    let s := s.setCtx cn { c with heldRecs := c.heldRecs ++ [r], nextSeq := c.nextSeq + 1 }
    drainRecs (c.heldRecs.length + 2) s cn

/-! ### Page tables and translation (R280, R281) -/

/-- Free a physical page: it is scrubbed before it joins the free pool (R285, R286). -/
def releasePage (s : State) (phys : Nat) : State :=
  match pageOf phys with
  | none => s
  | some (far, d, p) =>
    let f (t : Tier) : Tier := { t with used := t.used.filter (· != p), scrubbing := insertNat p t.scrubbing }
    if far then { s with far := setNth s.far d (f (nth Tier.fresh s.far d)) }
    else { s with near := setNth s.near d (f (nth Tier.fresh s.near d)) }

/-- Return a page that stays with its context: zeroed and free at once (R114 step 5, R286). -/
def recyclePage (s : State) (phys : Nat) : State :=
  match pageOf phys with
  | none => s
  | some (far, d, p) =>
    let f (t : Tier) : Tier := { t with used := t.used.filter (· != p) }
    let s := { s with mem := Memory.erase s.mem phys pageSize }
    if far then { s with far := setNth s.far d (f (nth Tier.fresh s.far d)) }
    else { s with near := setNth s.near d (f (nth Tier.fresh s.near d)) }

/-- Take a free page of a tier on the first die of the list that has one. DESIGN CHOICE: log entry 81. -/
def takePage (s : State) (far : Bool) : List Nat → Option (State × Nat)
  | [] => none
  | d :: r =>
    let stack := if far then farStack s.order d else d
    let ok := if far then stackFitted s.order stack else true
    let t := nth Tier.fresh (if far then s.far else s.near) stack
    match (if ok then t.firstFree far else none) with
    | none => takePage s far r
    | some p =>
      let t := { t with used := insertNat p t.used }
      let s := if far then { s with far := setNth s.far stack t } else { s with near := setNth s.near stack t }
      some (s, physPage far stack p)

def isFar (phys : Nat) : Bool := decide (nearEnd ≤ phys)

/-- The die or stack a physical page lies on. -/
def pageDie (phys : Nat) : Nat :=
  match pageOf phys with
  | some (_, d, _) => d
  | none => 0

/-- Bytes of a share of a cluster scratchpad and of a pipeline's staging (R281). -/
def shareCluster (c : Ctx) : Nat := c.spshare * 0x10000
def sharePipe (c : Ctx) : Nat := c.spshare * 0x4000

/-- The window offset lies inside the context's share of a unit (R264, R281). -/
def winOk (c : Ctx) (off : Nat) : Bool :=
  let o := off % 0x100000000
  decide (off / 0x100000000 < 24) &&
    (if o < 0x8000000 then decide (o % 0x800000 < shareCluster c)
     else if o < 0x9000000 then decide (o % 0x200000 < sharePipe c)
     else false)

def vpageOf (va : Nat) : Nat := va / pageSize

/-- Where a byte of a context lies: the shadow when there is one (R123), the mapped page, or the window share (R281). No address of a task
reaches register space, so the privilege fault of R95 is never raised. DEDUCED: log entry 109. -/
def translate (cn : Nat) (c : Ctx) (va : Nat) (write : Bool) : X Nat :=
  let va := va % 2 ^ 48
  if va < winLo then
    match NMap.get? c.pages (vpageOf va) with
    | none => .error .partition
    | some e =>
      if write && e.ro then .error .partition else
      match NMap.get? c.shadows (vpageOf va) with
      | some sh => .ok (sh.phys + va % pageSize)
      | none => .ok (e.phys + va % pageSize)
  else if va < winHi then (if winOk c (va - winLo) then .ok (winKey cn (va - winLo)) else .error .partition)
  else .error .partition

/-- Header bits [15:8] of RRED, ODD and W that the table of R208 gives an image; the derivative set has none given. -/
def builtinKind (i : Nat) : Option Nat :=
  match i with
  | 0 | 1 => some 1
  | 2 => some 2
  | 3 => some 3
  | 4 => some 0x83
  | 6 => some 4
  | 5 | 7 | 8 | 9 | 10 => some 0
  | _ => none

/-- A byte of a built-in image: IVERS, the header bits that R208 gives, and bytes the manual does not list; the rest of the region and
image 23 hold zeros (R202, R207, R256). -/
def builtinRead (off : Nat) : Byte :=
  let i := off / 0x2000
  let o := off % 0x2000
  if o < 7232 ∧ (i < 11 ∨ (16 ≤ i ∧ i < 23)) then
    let i := if i = 21 then 5 else i
    let b := Config.builtinByte i o
    if o = 0 then 1
    else if o = 1 then (builtinKind i).elim b (fun k => (if k % 4 < 2 then 0 else b &&& 0x78) ||| BitVec.ofNat 8 k)
    else if o < 4 then 0
    else b
  else 0

/-- One byte as a task of the context reads it. -/
def readByte (s : State) (cn : Nat) (c : Ctx) (va : Nat) : X Byte :=
  let va := va % 2 ^ 48
  if tabLo ≤ va then .ok (builtinRead (va - tabLo)) else
  match translate cn c va false with
  | .ok p => .ok (Memory.get s.mem p)
  | .error e => .error e

def readBytes (s : State) (cn : Nat) (c : Ctx) (va n : Nat) : X Bytes := mapE (readByte s cn c) (rangeFrom va n)

/-- A little-endian number of n bytes. -/
def readNat (s : State) (cn : Nat) (c : Ctx) (va n : Nat) : X Nat :=
  match readBytes s cn c va n with
  | .ok b => .ok (ofBytes b)
  | .error e => .error e

/-- Bytes of the scale table at virtual address 0: 4,096 slots of 8 (R58, R343). -/
def scaleTableSize : Nat := 32768

/-! ### Shadows (R58, R121, R123, R125) -/

/-- Pages that are step state whatever instruction writes them: declared regions, the scale table's page, stream state regions. -/
def stepState (c : Ctx) (vp : Nat) : Bool :=
  vp == 0 || c.regions.any (fun r => decide (r.2.base / pageSize ≤ vp) && decide (vp < r.2.base / pageSize + r.2.pages)) ||
    c.streams.any (fun r => decide (r.2.sbase / pageSize ≤ vp) && decide (vp < r.2.sbase / pageSize + r.2.spages))

def shadowCount (c : Ctx) (far : Bool) : Nat := (c.shadows.filter (fun e => isFar e.2.phys == far)).length

/-- Give a page its shadow: same tier, contents copied, within the quota; the copy completes at SHADOW_COPY_DONE. DESIGN CHOICE: log entry 15. -/
def makeShadow (s : State) (cn vp : Nat) : X State :=
  match s.ctx? cn with
  | none => .error .partition
  | some c =>
    match NMap.get? c.pages vp with
    | none => .error .partition
    | some e =>
      if NMap.has c.shadows vp then .ok s else
      let far := isFar e.phys
      if (if far then c.shadowFar else c.shadowNear) ≤ shadowCount c far then .error .shadowCapacity else
      match takePage s far (dieOrder (pageDie e.phys)) with
      | none => .error .shadowCapacity
      | some (s, p) =>
        .ok (({ s with mem := Memory.copy s.mem e.phys p pageSize } : State).setCtx cn
          { c with shadows := NMap.set c.shadows vp { phys := p, copying := true } })

/-- The virtual pages a range of n bytes touches. -/
def pagesTouched (va n : Nat) : List Nat :=
  if n = 0 then [] else rangeFrom (vpageOf (va % 2 ^ 48)) (vpageOf (va % 2 ^ 48 + n - 1) + 1 - vpageOf (va % 2 ^ 48))

/-- Shadows for the host-mapped pages of a range, when they are step state or `force` asks. -/
def prepareWrite (s : State) (cn va n : Nat) (force : Bool) : X State :=
  foldE (fun s vp =>
    match s.ctx? cn with
    | none => .error .partition
    | some c =>
      if vp * pageSize < winLo && (force || stepState c vp) then
        match NMap.get? c.pages vp with
        | none => .error .partition
        | some e => if e.ro then .error .partition else makeShadow s cn vp
      else .ok s) s (pagesTouched va n)

/-- A byte as a write leaves it: in the scale table MARGIN and POLICY are read-only, NONFIN is cleared by writing 1, and reserved bits
ignore writes (R14, R58). -/
def storedByte (va : Nat) (old new : Byte) : Byte :=
  if scaleTableSize ≤ va % 2 ^ 48 then new
  else if va % 8 = 5 then BitVec.ofNat 8 (old.toNat % 32 + (if bitAt old.toNat 5 && !(bitAt new.toNat 5) then 32 else 0))
  else if va % 8 < 5 then new else old

/-- Store one byte where the context sees it, and in the page a move is copying to (R285). -/
def putByte (s : State) (cn : Nat) (va : Nat) (v : Byte) : X State :=
  match s.ctx? cn with
  | none => .error .partition
  | some c =>
    match translate cn c va true with
    | .error e => .error e
    | .ok p =>
      let v := storedByte va (Memory.get s.mem p) v
      let s := { s with mem := Memory.set s.mem p v }
      match NMap.get? c.pages (vpageOf (va % 2 ^ 48)) with
      | some { moveTo := some q, .. } =>
        if NMap.has c.shadows (vpageOf (va % 2 ^ 48)) || winLo ≤ va % 2 ^ 48 then .ok s
        else .ok { s with mem := Memory.set s.mem (q + va % pageSize) v }
      | _ => .ok s

def putBytes : State → Nat → Nat → Bytes → X State
  | s, _, _, [] => .ok s
  | s, cn, va, v :: r =>
    match putByte s cn va v with
    | .ok s' => putBytes s' cn (va + 1) r
    | .error e => .error e

/-- Physical places that hold a virtual byte: the page, its shadow, and the page a move copies to. -/
def physCopies (c : Ctx) (va : Nat) : List Nat :=
  let va := va % 2 ^ 48
  match NMap.get? c.pages (vpageOf va) with
  | none => []
  | some e =>
    [e.phys + va % pageSize] ++
      (match NMap.get? c.shadows (vpageOf va) with
       | some sh => [sh.phys + va % pageSize]
       | none => []) ++
      (match e.moveTo with
       | some q => [q + va % pageSize]
       | none => [])

/-- Write bytes to every copy. -/
def fwWrite (s : State) (cn va : Nat) (bs : Bytes) : State :=
  match s.ctx? cn with
  | none => s
  | some c =>
    { s with mem := ((rangeFrom 0 bs.length).zip bs).foldl (fun m p =>
        (physCopies c (va + p.1)).foldl (fun m a => Memory.set m a p.2) m) s.mem }

/-- A write of the device's own tables: translated like a task's, and made to every copy of the page. -/
def devWrite (s : State) (cn va : Nat) (bs : Bytes) : X State :=
  match s.ctx? cn with
  | none => .error .partition
  | some c =>
    match mapE (fun a => translate cn c a true) (rangeFrom va bs.length) with
    | .error e => .error e
    | .ok _ => .ok (fwWrite s cn va bs)

/-- The lines a write has touched are as if their reads had never failed (R366). -/
def clearBadLines (s : State) (cn va n : Nat) : State :=
  let lo := va % 2 ^ 48 / lineSize
  let hi := (va % 2 ^ 48 + n + lineSize - 1) / lineSize
  s.modCtx cn (fun c => c.modEpoch (fun e => { e with badLines := e.badLines.filter (fun l => decide (l.1 < lo) || decide (hi ≤ l.1)) }))

/-- A write by a task: shadows first, then the bytes (R123). A write to a line clears its first failure (R366). -/
def taskWrite (s : State) (cn va : Nat) (bs : Bytes) : X State :=
  match prepareWrite s cn va bs.length false with
  | .error e => .error e
  | .ok s =>
    match putBytes s cn va bs with
    | .error e => .error e
    | .ok s => .ok (clearBadLines s cn va bs.length)

/-- The same with the page shadowed whatever it is (R121, R241, R249). -/
def countedWrite (s : State) (cn va : Nat) (bs : Bytes) : X State :=
  match prepareWrite s cn va bs.length true with
  | .error e => .error e
  | .ok s =>
    match putBytes s cn va bs with
    | .error e => .error e
    | .ok s => .ok (clearBadLines s cn va bs.length)

/-- Shadow copies of the context still under way. -/
def copyingPages (c : Ctx) : List Nat := (c.shadows.filter (fun e => e.2.copying)).map (·.1)

/-! ### Placement (R116) -/

/-- Physical unit of a logical cluster or pipeline: clusters 0-15, pipelines 16-23 on a logical die. -/
def physUnit (c : Ctx) (ldie lunit : Nat) : Nat × Nat :=
  match NMap.get? c.placeUnits (ldie * 24 + lunit) with
  | some p => p
  | none => (nth ldie c.place ldie, lunit)

def coordDie (c : Ctx) : Nat := nth 0 c.place 0
/-- The coordinating die of a context's number. -/
def coordOf (s : State) (cn : Nat) : Nat := ((s.ctx? cn).map coordDie).getD 0

/-! ### Squall sending and a context fault (R369, R370, R378) -/

/-- The first payload word of a Squall's flit (R378). -/
def Squall.word (q : Squall) : BitVec 128 :=
  BitVec.ofNat 128 (q.kind % 2 ^ 8 + q.src % 2 ^ 5 * 2 ^ 8 + q.ctx % 2 ^ 8 * 2 ^ 16 + q.att % 2 ^ 4 * 2 ^ 24 + q.cause % 2 ^ 8 * 2 ^ 32 +
    q.epoch.toNat * 2 ^ 64)

/-- A Squall leaves its source with the source's next sequence number (R378), and is logged (R399). -/
def State.sendSquall (s : State) (q : Squall) : State :=
  let step := match s.ctx? q.ctx with
    | some c => (c.epoch.map (fun e => e.step.toNat)).getD 0
    | none => 0
  let n := nth 0 s.squallSeq q.src
  ({ s with squalls := s.squalls ++ [{ q with seq := n }], squallSeq := setNth s.squallSeq q.src (n + 1) } : State).logRec 0x22 q.src 7 0 q.ctx q.att step q.cause 0xFF 0

/-- A context fault: the record is posted, the context is marked and a Squall of kind 0x03 leaves the die that has found it; the rest
of the epoch is aborted when that Squall arrives (R369, R370, R379). A second fault of a stopped context reports nothing. -/
def contextFault (s : State) (cn die : Nat) (f : CFault) (user astat : Bits32) (tag step : Bits32) : State :=
  match s.ctx? cn with
  | none => s
  | some c =>
    if c.faulted then s else
    let att := (c.epoch.map (fun e => e.attempt)).getD 0
    let s := s.setCtx cn { c with faulted := true }
    let s := s.logRec 0x25 die 7 0 cn att step.toNat f.code 0xFF (user.toNat % 2 ^ 24 + astat.toNat % 2 ^ 24 * 2 ^ 24)
    let s := s.sendSquall { kind := 3, src := die, ctx := cn, att := att % 16, cause := f.code, epoch := c.epochNo }
    post s cn (mkRec 0x10 f.code tag step astat user false false)

/-- A fault of a task, found on a die: TAG and STEP are those of its epoch (R370). -/
def taskFault (s : State) (cn die : Nat) (f : CFault) (task : Nat) (ix : Bits32) : State :=
  match (s.ctx? cn).bind (fun c => c.epoch) with
  | none => s
  | some e => contextFault s cn die f (BitVec.ofNat 32 task) ix e.tag e.step

/-- The task on a unit stops with a fault at an instruction index. -/
def unitFault (s : State) (u : UnitId) (r : Run) (f : CFault) (ix : Nat) : State :=
  (taskFault s r.ctx u.die f r.task (BitVec.ofNat 32 ix)).freeUnit u

/-- The counts of a unit; whether the earlier ones have left the window of R387 is open. DESIGN CHOICE: log entry 66. -/
def strikesOf (s : State) (u : UnitId) : Strikes :=
  if Config.freeBool s.freeIx 7 then { data := 0, last := none, unitState := 0 }
  else NMap.getD s.strikes u.key { data := 0, last := none, unitState := 0 }

/-- One more attempt in which the unit is the source of uncorrected step data. -/
def dataStrike (s : State) (u : UnitId) (attempt : Nat × Word64 × Nat) : State :=
  let k := strikesOf s u
  let k' := if k.last = some attempt then k else { k with data := k.data + 1, last := some attempt }
  { s with strikes := NMap.set s.strikes u.key k', freeIx := s.freeIx + 1 }

/-- One more unit-state fault. -/
def unitStrike (s : State) (u : UnitId) : State :=
  let k := strikesOf s u
  { s with strikes := NMap.set s.strikes u.key { k with unitState := k.unitState + 1 }, freeIx := s.freeIx + 1 }

/-- An uncorrected error in the data of a step: Squall of kind 0x01 from the die, and a count toward exclusion (R154, R364, R387). -/
def stepDataError (s : State) (u : UnitId) (cn : Nat) : State :=
  match s.ctx? cn with
  | none => s
  | some c =>
    let att := (c.epoch.map (fun e => e.attempt)).getD 0
    (dataStrike s u (cn, c.epochNo, att)).sendSquall { kind := 1, src := u.die, ctx := cn, att := att % 16, cause := 1, epoch := c.epochNo }

/-- A check fails in a unit: the error is reported, no value that depends on it goes further, and the unit waits for the abort of its epoch
(R154, R179, R365). DESIGN CHOICE: log entry 10. -/
def stopChecked (s : State) (u : UnitId) (r : Run) : State := (stepDataError s u r.ctx).setRun u { r with phase := .held }

end Sys2Proof.Machine
end

