-- ==== Sys2Proof/Machine/Compress.lean ====
section
/-!
DEFINITION. Compressed tensors: zero-run streams, records, chains, the index and the pool (R299 to R315).
-/

namespace Sys2Proof.Machine

/-! ### Zero-run streams (R304) -/

/-- Cut a byte string into pieces of n; the fuel is its length. -/
def chunks : Nat → Nat → Bytes → List Bytes
  | 0, _, _ => []
  | fuel + 1, n, l =>
    match l with
    | [] => []
    | l => l.take n :: chunks fuel n (l.drop n)

def pieces (n : Nat) (l : Bytes) : List Bytes := chunks l.length n l

def allZero (l : Bytes) : Bool := l.all (fun b => b == 0)

/-- One bit per symbol, symbol i at bit i, set when it is not zero. -/
def maskOf : List Bytes → Nat
  | [] => 0
  | y :: r => (if allZero y then 0 else 1) + 2 * maskOf r

/-- One granule: two header bytes and its payload. -/
def encodeGranule (sz : Nat) (g : Bytes) : Bytes :=
  let syms := pieces sz g
  let live := (syms.filter (fun y => !allZero y)).flatten
  let mbytes := ceilDiv syms.length 8
  if live.isEmpty then toBytes 2 0
  else if mbytes + live.length < g.length then toBytes 2 0x4000 ++ toBytes mbytes (maskOf syms) ++ live
  else toBytes 2 0x8000 ++ g

def encodeStream (sz : Nat) (l : Bytes) : Bytes := ((pieces 128 l).map (encodeGranule sz)).flatten

/-- The first n bytes of an input; what lies beyond it is a free value. -/
def takeFree (k n : Nat) (l : Bytes) : Bytes :=
  l.take n ++ (rangeFrom l.length (n - l.length)).map (Config.freeByte k)

/-- Symbols of a sparse granule from its mask and the rest of the input: the bytes and how many were used. -/
def spread (k sz mask : Nat) : Nat → Bytes → Bytes
  | 0, _ => []
  | n + 1, l =>
    if mask % 2 = 1 then takeFree k sz l ++ spread k sz (mask / 2) n (l.drop sz)
    else List.replicate sz 0 ++ spread k sz (mask / 2) n l

def popBits : Nat → Nat → Nat
  | 0, _ => 0
  | n + 1, m => m % 2 + popBits n (m / 2)

/-- Decode a stream of `len` bytes; a granule the coder never writes decodes to free values (R304). -/
def decodeStream (k sz : Nat) : Nat → Nat → Bytes → Bytes
  | 0, _, _ => []
  | fuel + 1, len, l =>
    if len = 0 then [] else
    let n := min len 128
    let h := ofBytes (takeFree k 2 l)
    let body := l.drop 2
    if h = 0 then List.replicate n 0 ++ decodeStream k sz fuel (len - n) body
    else if h = 0x4000 then
      let nsym := n / sz
      let mb := ceilDiv nsym 8
      let mask := ofBytes (takeFree k mb body)
      let body := body.drop mb
      spread k sz mask nsym body ++ decodeStream k sz fuel (len - n) (body.drop (sz * popBits nsym mask))
    else if h = 0x8000 then takeFree k n body ++ decodeStream k sz fuel (len - n) (body.drop n)
    else (rangeFrom (4096 + len) n).map (Config.freeByte k) ++ decodeStream k sz fuel (len - n) (body.drop n)

/-! ### The arithmetic record (R305, R306, R308) -/

/-- Blocks of 64 elements in a unit of 4 KiB. -/
def blocksOf (f : Fmt) : Nat := 4096 / (64 * f.size)

/-- satrne: into a format with RNE, saturating. -/
def satRne (f : Fmt) (v : FV) : Nat := (roundF f .rns v).1

/-- Largest magnitude of finite values as m · 2^e, zero when all are. -/
def maxMag : List FV → Nat × Int
  | [] => (0, 0)
  | .fin _ m e :: r => let b := maxMag r; if m = 0 then b else if b.1 = 0 then (m, e) else if magLe m e b.1 b.2 then b else (m, e)
  | _ :: r => maxMag r

/-- Smallest e with m · 2^g at most 127 · 2^e. -/
def arithExp (m : Nat) (g : Int) : Int :=
  let e : Int := (Nat.log2 m : Int) + g - 6
  if magLe m g 127 e then e else e + 1

/-- The signed byte nearest d / 2^e, ties to even. -/
def arithMant (d : FV) (e : Int) : Int :=
  match d with
  | .fin neg m g => let n : Int := ((roundInt .rne m (g - e)).1 : Int); if neg then -n else n
  | _ => 0

def ofInt (n : Int) (e : Int) : FV := .fin (decide (n < 0)) n.natAbs e

/-- Code and payload of one block x against its reference r, both as stored bits. -/
def encodeBlock (f : Fmt) (x r : List Nat) : Nat × Bytes :=
  let xv := x.map (decodeF f)
  let rv := r.map (decodeF f)
  let raw : Bytes := (x.map (toBytes f.size)).flatten
  if !(xv.all FV.isFinite && rv.all FV.isFinite) then (255, raw) else
  let d := (xv.zip rv).map (fun p => p.1.sub p.2)
  let (m, g) := maxMag d
  if m = 0 then (0, []) else
  let e := arithExp m g
  if 122 < e then (255, raw) else
  let e := max e (-131)
  ((e + 132).toNat, d.map (fun y => BitVec.ofInt 8 (arithMant y e)))

/-- A block's new bits from its code and payload; an element whose mantissa is 0 keeps the reference's bits, the sign of a zero
included (R307). DEDUCED: log entry 92. -/
def decodeBlock (f : Fmt) (code : Nat) (payload : Bytes) (r : List Nat) : List Nat :=
  if code = 0 then r
  else if code = 255 then (pieces f.size payload).map ofBytes
  else (r.zip payload).map (fun p =>
    if p.2 = 0 then p.1 else satRne f ((decodeF f p.1).add (ofInt (signed 8 p.2.toNat) ((code : Int) - 132))))

def elemsOf (f : Fmt) (l : Bytes) : List Nat := (pieces f.size l).map ofBytes
def bytesOfElems (f : Fmt) (l : List Nat) : Bytes := (l.map (toBytes f.size)).flatten

/-- Cut a list of elements into blocks of 64. -/
def blockCut : Nat → List Nat → List (List Nat)
  | 0, _ => []
  | n + 1, l => l.take 64 :: blockCut n (l.drop 64)

/-- The contents of an arithmetic record for unit bytes x against r. -/
def encodeArith (f : Fmt) (x r : Bytes) : Bytes :=
  let n := blocksOf f
  let bs := ((blockCut n (elemsOf f x)).zip (blockCut n (elemsOf f r))).map (fun p => encodeBlock f p.1 p.2)
  bs.map (fun b => BitVec.ofNat 8 b.1) ++ encodeStream 1 (bs.map (·.2)).flatten

/-- Payload bytes of a block code. -/
def payloadLen (f : Fmt) (code : Nat) : Nat := if code = 0 then 0 else if code = 255 then 64 * f.size else 64

def splitPayload (f : Fmt) : List Nat → Bytes → List Bytes
  | [], _ => []
  | c :: r, l => l.take (payloadLen f c) :: splitPayload f r (l.drop (payloadLen f c))

def decodeArith (k : Nat) (f : Fmt) (rcd r : Bytes) : Bytes :=
  let n := blocksOf f
  let codes := (takeFree k n rcd).map (·.toNat)
  let len := sumBy (payloadLen f) codes
  let pay := splitPayload f codes (decodeStream k 1 (len + 1) len (rcd.drop n))
  bytesOfElems f (((codes.zip pay).zip (blockCut n (elemsOf f r))).map (fun p => decodeBlock f p.1.1 p.1.2 p.2)).flatten

def xorBytes (a b : Bytes) : Bytes := (a.zip b).map (fun p => p.1 ^^^ p.2)

/-- A record without its zero tail: 0 lines when it changes nothing (R305). -/
def recLines (b : Bytes) : Nat := if allZero b then 0 else ceilDiv b.length lineSize

/-! ### The index and the pool (R301 to R303) -/

structure Slot where
  line : Nat
  nlines : Nat
  kind : Nat
deriving DecidableEq, Repr

def Slot.parse (n : Nat) : Slot := { line := field n 31 0, nlines := field n 38 32, kind := field n 40 39 }
def Slot.bits (x : Slot) : Nat := x.line % 2 ^ 32 + x.nlines * 2 ^ 32 + x.kind * 2 ^ 39

/-- Occupied slots of an entry, in chain order. -/
def entrySlots (e : BitVec 512) : List Slot :=
  ((rangeFrom 0 7).map (fun i => Slot.parse (field e.toNat (127 + 64 * i) (64 + 64 * i)))).filter (fun x => x.kind != 0)

def slotBits : List Slot → Nat
  | [] => 0
  | x :: r => x.bits + 2 ^ 64 * slotBits r

def mkEntry (wepoch : Word64) (l : List Slot) : BitVec 512 := BitVec.ofNat 512 (wepoch.toNat + 2 ^ 64 * slotBits l)
def entryEpoch (e : BitVec 512) : Word64 := BitVec.ofNat 64 e.toNat

/-- A registered tensor as its header gives it. -/
structure CIndex where
  tnum : Nat
  va : Nat
  origin : Nat
  fmtCode : Nat
  mode : Nat
  kint : Nat
  nunits : Nat
  keyEpoch : Nat
  charge : Nat
deriving DecidableEq, Repr

def CIndex.fmt (x : CIndex) : Fmt := (Fmt.ofCode x.fmtCode).getD .uint8

def CIndex.ofHeader (tnum va h : Nat) : CIndex :=
  { tnum := tnum, va := va, origin := field h 47 0, fmtCode := field h 55 48, mode := field h 57 56, kint := field h 60 58,
    nunits := field h 87 64 + 1, keyEpoch := field h 191 128, charge := field h 255 192 }

/-- The index a descriptor resolves to (R301). -/
def resolveIndex (s : State) (cn : Nat) (c : Ctx) (t : TD) : X CIndex :=
  let va := wrap 48 ((t.addr : Int) + t.cioff)
  match c.comp.tensors.find? (fun p => p.2 == va) with
  | none => .error .illegalDescriptor
  | some (n, _) =>
    match readNat s cn c va 64 with
    | .error e => .error e
    | .ok h =>
      let x := CIndex.ofHeader n va h
      if x.fmtCode == t.fmtCode && x.mode == t.cmp then .ok x else .error .illegalDescriptor

/-- Unit and byte offset of an element's address. -/
def unitOf (x : CIndex) (va : Nat) : X (Nat × Nat) :=
  if va < x.origin ∨ x.origin + 4096 * x.nunits ≤ va then .error .partition
  else .ok ((va - x.origin) / 4096, (va - x.origin) % 4096)

/-- Virtual address of a pool line. -/
def lineVa (c : Ctx) (line : Nat) : X Nat :=
  match c.comp.pages[line / 32768]? with
  | some p => .ok (p + lineSize * (line % 32768))
  | none => .error .partition

def readRecord (s : State) (cn : Nat) (c : Ctx) (x : Slot) : X Bytes :=
  if x.nlines = 0 then .ok [] else
  match lineVa c x.line with
  | .ok va => readBytes s cn c va (lineSize * x.nlines)
  | .error e => .error e

/-- Apply one record to a unit's bytes (R308). -/
def applyRecord (k : Nat) (f : Fmt) (v : Bytes) (x : Slot) (rcd : Bytes) : Bytes :=
  if x.nlines = 0 then (if x.kind = 1 then List.replicate 4096 0 else v)
  else if x.kind = 1 then decodeStream k f.size 4096 4096 rcd
  else if x.kind = 2 then xorBytes v (decodeStream k f.size 4096 4096 rcd)
  else decodeArith k f rcd v

/-- The chain from its last key on. -/
def fromLastKey : List Slot → List Slot
  | [] => []
  | x :: r => if r.any (fun y => y.kind == 1) then fromLastKey r else if x.kind == 1 then x :: r else fromLastKey r

/-- The 4 KiB of a unit of a chain; of a tensor that an unchecked host error has reached they are free values (R312). -/
def decodeChain (s : State) (cn : Nat) (c : Ctx) (x : CIndex) (l : List Slot) : X Bytes :=
  if c.comp.foul.contains x.tnum then .ok ((rangeFrom 0 4096).map (Config.freeByte s.freeIx)) else
  foldE (fun v y =>
    match readRecord s cn c y with
    | .ok r => .ok (applyRecord (s.freeIx + y.line) x.fmt v y r)
    | .error e => .error e) (List.replicate 4096 0) (fromLastKey l)

def entryVa (x : CIndex) (u : Nat) : Nat := x.va + lineSize * (u + 1)

def readEntry (s : State) (cn : Nat) (c : Ctx) (x : CIndex) (u : Nat) : X (BitVec 512) :=
  match readNat s cn c (entryVa x u) 64 with
  | .ok n => .ok (BitVec.ofNat 512 n)
  | .error e => .error e

/-- The highest occupied slot is an open record of this epoch (R309). -/
def hasOpen (c : Ctx) (e : BitVec 512) : Bool :=
  c.epoch.isSome && entryEpoch e == c.epochNo && !(entrySlots e).isEmpty

/-- The unit as a reader of this epoch sees it. -/
def readUnit (s : State) (cn : Nat) (c : Ctx) (x : CIndex) (u : Nat) : X Bytes :=
  match readEntry s cn c x u with
  | .error e => .error e
  | .ok e => decodeChain s cn c x (entrySlots e)

/-! ### Pool lines (R303, R315) -/

/-- The next n lines within one pool page: records are packed in the order in which they are stored. DEDUCED: log entry 82. -/
def takeLines (c : CompPool) (n : Nat) : Option (CompPool × Nat) :=
  let start := if c.top % 32768 + n ≤ 32768 then c.top else (c.top / 32768 + 1) * 32768
  if start + n ≤ 32768 * c.pages.length then some ({ c with top := start + n }, start) else none

/-- Every live record: address of its entry, slot position, slot. -/
def liveRecords (s : State) (cn : Nat) (c : Ctx) : X (List (Nat × Slot)) :=
  match mapE (fun (t : Nat × Nat) =>
    match readNat s cn c t.2 64 with
    | .error e => .error e
    | .ok h =>
      let x := CIndex.ofHeader t.1 t.2 h
      match mapE (fun u =>
        match readEntry s cn c x u with
        | .error e => .error e
        | .ok e =>
          let l := entrySlots e
          let l := if hasOpen c e then l else fromLastKey l
          .ok ((l.filter (fun y => y.nlines != 0)).map (fun y => (entryVa x u, y)))) (rangeFrom 0 x.nunits) with
      | .ok ll => .ok ll.flatten
      | .error e => .error e) c.comp.tensors with
  | .ok ll => .ok ll.flatten
  | .error e => .error e

/-- Move one record down to the cursor. -/
def moveRecord (p : State × Nat) (cn : Nat) (r : Nat × Slot) : X (State × Nat) :=
  let (s, cur) := p
  let x := r.2
  let dst := if cur % 32768 + x.nlines ≤ 32768 then cur else (cur / 32768 + 1) * 32768
  if dst = x.line then .ok (s, dst + x.nlines) else
  match s.ctx? cn with
  | none => .error .partition
  | some c =>
    match readRecord s cn c x, lineVa c dst, readNat s cn c r.1 64 with
    | .ok b, .ok va, .ok e =>
      let l := (entrySlots (BitVec.ofNat 512 e)).map (fun y => if y == x then { y with line := dst } else y)
      match devWrite s cn va b with
      | .error e => .error e
      | .ok s =>
        match devWrite s cn r.1 (toBytes 64 (mkEntry (entryEpoch (BitVec.ofNat 512 e)) l).toNat) with
        | .ok s => .ok (s, dst + x.nlines)
        | .error e => .error e
    | .error e, _, _ => .error e
    | _, .error e, _ => .error e
    | _, _, .error e => .error e

/-- Firmware packs the live records to the front of the pool, behind every boundary and when the lines run out (R315). DEDUCED: log entry 82. -/
def compactPool (s : State) (cn : Nat) : X State :=
  match s.ctx? cn with
  | none => .error .partition
  | some c =>
    match liveRecords s cn c with
    | .error e => .error e
    | .ok l =>
      match foldE (fun p r => moveRecord p cn r) (s, 0) (sortBy (fun a b => decide (a.2.line < b.2.line)) l) with
      | .error e => .error e
      | .ok (s, top) => .ok (s.modCtx cn (fun c => { c with comp := { c.comp with top := top } }))

/-! ### Writing a unit (R309 to R311, R315) -/

/-- The contents of the record a value v is stored as. -/
def encodeRecord (f : Fmt) (kind : Nat) (v ref : Bytes) : Bytes :=
  if kind = 1 then encodeStream f.size v
  else if kind = 2 then encodeStream f.size (xorBytes v ref)
  else encodeArith f v ref

/-- The record of a write is coded as a key (R310). -/
def codedAsKey (x : CIndex) (committed : List Slot) (wepoch : Word64) (key : Bool) : Bool :=
  x.mode == 1 || committed.isEmpty || decide (x.kint ≤ committed.length) || key || decide (wepoch.toNat < x.keyEpoch)

def bumpCharge (s : State) (cn : Nat) (x : CIndex) (oldLines newLines : Nat) : X State :=
  match s.ctx? cn with
  | none => .error .partition
  | some c =>
    match readNat s cn c (x.va + 24) 8 with
    | .error e => .error e
    | .ok q =>
      match devWrite s cn (x.va + 24) (toBytes 8 (q + newLines - oldLines)) with
      | .error e => .error e
      | .ok s => .ok (s.modCtx cn (fun c => { c with comp := { c.comp with charge := c.comp.charge + newLines - oldLines } }))

/-- Take lines for a record, packing the pool first when no run fits. DEDUCED: log entry 82. -/
def placeLines (s : State) (cn n : Nat) : X (State × Nat) :=
  match s.ctx? cn with
  | none => .error .partition
  | some c =>
    if n = 0 then .ok (s, 0) else
    match takeLines c.comp n with
    | some (p, l) => .ok (s.setCtx cn { c with comp := p }, l)
    | none =>
      match compactPool s cn with
      | .error e => .error e
      | .ok s =>
        match s.ctx? cn with
        | none => .error .partition
        | some c =>
          match takeLines c.comp n with
          | some (p, l) => .ok (s.setCtx cn { c with comp := p }, l)
          | none => .error .compressionCapacity

/-- Replace bytes of a unit. -/
def patchBytes : Bytes → List (Nat × Bytes) → Bytes
  | v, [] => v
  | v, (o, b) :: r => patchBytes (v.take o ++ b ++ v.drop (o + b.length)) r

/-- Store new bytes into a unit: its open record is made or replaced. -/
def writeUnit (s : State) (cn : Nat) (t : TD) (u : Nat) (ws : List (Nat × Bytes)) (key : Bool) : X State :=
  match s.ctx? cn with
  | none => .error .partition
  | some c =>
    match resolveIndex s cn c t with
    | .error e => .error e
    | .ok x =>
      match readEntry s cn c x u with
      | .error e => .error e
      | .ok ent =>
        let slots := entrySlots ent
        let isOpen := hasOpen c ent
        let committed := fromLastKey (if isOpen then slots.dropLast else slots)
        let old := if isOpen then slots.getLast? else none
        let oldLines := (old.map (·.nlines)).getD 0
        match decodeChain s cn c x slots, decodeChain s cn c x committed with
        | .ok cur, .ok ref =>
          let v := patchBytes cur ws
          let kind :=
            match old with
            | some o => o.kind
            | none => if codedAsKey x committed (entryEpoch ent) key then 1 else x.mode
          let rcd := encodeRecord x.fmt kind v ref
          let n := recLines rcd
          if c.comp.charge < c.comp.charge + n - oldLines ∧ 32768 * c.comp.pages.length < c.comp.charge + n - oldLines + 86016 then
            .error .compressionCapacity
          else
            let c' := if isOpen then c else
              c.modEpoch (fun e => { e with openUnits := e.openUnits ++ [(x.tnum, u, ent)] })
            -- the entry without its open record first, so that packing the pool sees only live records
            match devWrite (s.setCtx cn c') cn (entryVa x u) (toBytes 64 (mkEntry (entryEpoch ent) committed).toNat) with
            | .error e => .error e
            | .ok s =>
              match placeLines s cn n with
              | .error e => .error e
              | .ok (s, line) =>
                match s.ctx? cn with
                | none => .error .partition
                | some c =>
                  match readEntry s cn c x u, (if n = 0 then .ok 0 else lineVa c line) with
                  | .ok ent', .ok va =>
                    let slots' := entrySlots ent' ++ [{ line := line, nlines := n, kind := kind }]
                    match (if n = 0 then .ok s else devWrite s cn va (rcd ++ List.replicate (lineSize * n - rcd.length) 0)) with
                    | .error e => .error e
                    | .ok s =>
                      match devWrite s cn (entryVa x u) (toBytes 64 (mkEntry c.epochNo slots').toNat) with
                      | .error e => .error e
                      | .ok s => bumpCharge s cn x oldLines n
                  | .error e, _ => .error e
                  | _, .error e => .error e
        | .error e, _ => .error e
        | _, .error e => .error e

/-! ### Commit, replay and registration -/

/-- At a boundary the open records commit; lines of the records a committed key supersedes leave CHARGE (R309). -/
def commitUnits (s : State) (cn : Nat) (l : List (Nat × Nat × BitVec 512)) : X State :=
  foldE (fun s p =>
    match s.ctx? cn with
    | none => .error .partition
    | some c =>
      match NMap.get? c.comp.tensors p.1 with
      | none => .ok s
      | some va =>
        match readNat s cn c va 64 with
        | .error e => .error e
        | .ok h =>
          let x := CIndex.ofHeader p.1 va h
          match readEntry s cn c x p.2.1 with
          | .error e => .error e
          | .ok ent =>
            let slots := entrySlots ent
            let live := fromLastKey slots
            let gone := slots.take (slots.length - live.length)
            bumpCharge s cn x (sumBy (·.nlines) gone) 0) s l

/-- A replay discards the open records and restores the entries (R309). -/
def restoreUnits (s : State) (cn : Nat) (l : List (Nat × Nat × BitVec 512)) : X State :=
  foldE (fun s p =>
    match s.ctx? cn with
    | none => .error .partition
    | some c =>
      match NMap.get? c.comp.tensors p.1 with
      | none => .ok s
      | some va =>
        match readNat s cn c va 64 with
        | .error e => .error e
        | .ok h =>
          let x := CIndex.ofHeader p.1 va h
          match readEntry s cn c x p.2.1 with
          | .error e => .error e
          | .ok ent =>
            let o := (entrySlots ent).getLast?
            let n := (o.map (·.nlines)).getD 0
            -- the committed records may have been packed meanwhile: their slots are those in memory
            let before := entrySlots p.2.2
            let stale := before.take (before.length - (fromLastKey before).length)
            let back := mkEntry (entryEpoch p.2.2) (stale ++ (entrySlots ent).dropLast)
            bumpCharge (fwWrite s cn (entryVa x p.2.1) (toBytes 64 back.toNat)) cn x n 0) s l

end Sys2Proof.Machine
end

