-- ==== Sys2Proof/Machine/Flags.lean ====
section
/-!
DEFINITION. Every flag computation of ASTAT: sticky raising, clearing, and the flags of lists of results (R55, R56, R453).
-/

namespace Sys2Proof.Machine

/-- Raise flags; they stay until WRSR clears them (R55). -/
def Run.raise (r : Run) (f : Flags) : Run := { r with astat := r.astat ||| f }

/-- WRSR: the bits set in the operand become zero (R73). -/
def Run.clearFlags (r : Run) (m : Bits32) : Run := { r with astat := r.astat &&& ~~~m }

/-- Flags of a list of results. -/
def orFlags : List Flags → Flags
  | [] => 0
  | f :: r => f ||| orFlags r

/-- Values and flags of a list of results. -/
def gatherW {α : Type} (l : List (W α)) : W (List α) := (l.map (·.1), orFlags (l.map (·.2)))

/-- SNONFIN for an amax that is infinite or NaN (R55). -/
def amaxFlag (a : Bits32) : Flags := if (fp a).isFinite then 0 else SNONFIN

/-- FNANIN for an FP32 operand read from a register, a record or a plane (R453). -/
def nanIn32 (a : Bits32) : Flags := if isNan32 a then FNANIN else 0

end Sys2Proof.Machine
end

