-- ==== Sys2Proof/Machine/Operands.lean ====
section
/-!
DEFINITION. Operand forms: registers, slots, tensor elements stored plain, scaled or compressed, and the writes of an instruction (R68, R69, R89, R96, R162, R163, R301).
-/

namespace Sys2Proof.Machine

/-! ### Registers and slots -/

/-- S0 reads as zero (R68). -/
def sreg (S : List Word64) (i : Nat) : Word64 := if i = 0 then 0 else nth 0 S i
def sregInt (S : List Word64) (i : Nat) : Int := (sreg S i).toInt
def sreg32 (S : List Word64) (i : Nat) : Bits32 := (sreg S i).setWidth 32
def areg (A : List Nat) (i : Nat) : Nat := nth 0 A i

/-- Writes to S0 are ignored (R68). -/
def setS (S : List Word64) (i : Nat) (v : Word64) : List Word64 := if i = 0 then S else setNth S i v
/-- P0 is always true and not writable (R68). -/
def preg (P : List Bool) (i : Nat) : Bool := if i = 0 then true else nth false P i
def setP (P : List Bool) (i : Nat) (v : Bool) : List Bool := if i = 0 then P else setNth P i v

/-- A descriptor slot that an instruction uses: an empty one is an illegal instruction, a bad descriptor an illegal descriptor (R69, R90). -/
def tslot (T : List (Option (BitVec 512))) (i : Nat) : X TD :=
  match nth none T i with
  | none => .error .illegalInstruction
  | some b =>
    match (TD.parse b).check with
    | .ok _ => .ok (TD.parse b)
    | .error e => .error e

/-- A chain or prologue slot (R69). -/
def chainSlot (E : List (Option (BitVec 512))) (i : Nat) : X (BitVec 512) := orErr (nth none E i) .illegalInstruction

/-- RM = 0b11 is valid only with an FP8 destination (R51). -/
def rmOk (rm : Nat) (f : Fmt) : Bool := rm != 3 || f.isFp8

/-- A source descriptor: its index must resolve when it is compressed (R300, R301). -/
def useSource (s : State) (cn : Nat) (c : Ctx) (t : TD) : X Unit :=
  if t.cmp = 0 then .ok () else
  match resolveIndex s cn c t with
  | .ok _ => .ok ()
  | .error e => .error e

/-- A destination of an instruction that may not write compressed tensors (R300). -/
def plainDest (t : TD) : X Unit := need (t.cmp == 0) .illegalInstruction

/-- Same rank and extents. -/
def sameShape (a b : TD) : Bool := a.rank == b.rank && a.exts == b.exts

/-- Same rank and extents but for one dimension. -/
def sameShapeBut (d : Nat) (a b : TD) : Bool :=
  a.rank == b.rank && (rangeFrom 0 a.rank).all (fun i => i == d || nth 0 a.ext i == nth 0 b.ext i)

/-! ### Elements -/

/-- The stored bits of one element (R89, R299). -/
def readElem (s : State) (cn : Nat) (c : Ctx) (t : TD) (ix : List Nat) : X Nat :=
  if t.cmp = 0 then readNat s cn c (t.elemAddr ix) t.fmt.size else
  match resolveIndex s cn c t with
  | .error e => .error e
  | .ok x =>
    match unitOf x (t.elemAddr ix) with
    | .error e => .error e
    | .ok (u, o) =>
      match readUnit s cn c x u with
      | .error e => .error e
      | .ok v => .ok (ofBytes ((v.drop o).take t.fmt.size))

/-- Address of a scale slot (R58): the table starts at virtual address 0 (R343). -/
def scaleSlotVa (slot : Nat) : Nat := 8 * slot

/-- SCODE of a scale slot, as it stands when it is read, also in a step that writes it. DESIGN CHOICE: log entry 102. -/
def readScode (s : State) (cn : Nat) (c : Ctx) (slot : Nat) : X Nat := readNat s cn c (scaleSlotVa slot + 4) 1

/-- Exponent by which an element decodes: E - 127, zero without a scale (R163). -/
def scaleExp (s : State) (cn : Nat) (c : Ctx) (t : TD) (ix : List Nat) : X Int :=
  if t.sblk = 0 then .ok 0 else
  match (if t.sblk = 1 then readNat s cn c (t.codeAddr ix) 1 else readScode s cn c t.sslot) with
  | .ok e => .ok ((e : Int) - 127)
  | .error e => .error e

/-- An element as an operand: its stored value and its scale exponent. -/
def readScaled (s : State) (cn : Nat) (c : Ctx) (t : TD) (ix : List Nat) : X (Nat × Int) :=
  match readElem s cn c t ix, scaleExp s cn c t ix with
  | .ok b, .ok k => .ok (b, k)
  | .error e, _ => .error e
  | _, .error e => .error e

/-- The FP32 value a VEC, TAB, CVT or prologue input receives, and its flags (R38, R163, R453). -/
def input32 (t : TD) (b : Nat) (k : Int) : W Bits32 :=
  if t.sblk = 0 then (widen t.fmt b, nanFlag t.fmt b)
  else
    let (x, f) := roundF .fp32 .rne ((decodeF t.fmt b).scale k)
    (BitVec.ofNat 32 x, f ||| nanFlag t.fmt b)

def read32 (s : State) (cn : Nat) (c : Ctx) (t : TD) (ix : List Nat) : X (W Bits32) :=
  match readScaled s cn c t ix with
  | .ok (b, k) => .ok (input32 t b k)
  | .error e => .error e

/-! ### Writes -/

/-- One write of an instruction: an address and bytes, or the fault its computation met. -/
abbrev WItem := X (Nat × Bytes)

/-- An element's write. -/
def elemWrite (t : TD) (ix : List Nat) (bits : Nat) : Nat × Bytes := (t.elemAddr ix, toBytes t.fmt.size bits)

def plainWrites (s : State) (cn : Nat) (ws : List WItem) : X State :=
  foldE (fun s w =>
    match w with
    | .ok p => taskWrite s cn p.1 p.2
    | .error e => .error e) s ws

/-- Bytes from lo to before hi meet those from a to before b. -/
def bytesMeet (lo hi a b : Nat) : Bool := decide (lo < b) && decide (a < hi)

def Bank.written (b : Bank) (slot k lo hi : Nat) : Bank :=
  { b with foul := b.foul || bytesMeet lo hi (bankVa slot k) (bankVa slot k + 7232) }

def SeqRec.written (q : SeqRec) (n lo hi : Nat) : SeqRec :=
  { q with forged := q.forged || bytesMeet lo hi q.root (q.root + regionBytes q.maxLp) || q.slots.any (fun a => bytesMeet lo hi a (a + 2 ^ n)) }

/-- A write to a pool page or to an index by other means than the instructions of R300 reaches every compressed tensor (R312). -/
def CompPool.written (p : CompPool) (units : Nat → Nat) (lo hi : Nat) : CompPool :=
  if p.pages.any (fun a => bytesMeet lo hi a (a + pageSize)) || p.tensors.any (fun t => bytesMeet lo hi t.2 (t.2 + 64 * (units t.2 + 1))) then
    { p with foul := p.tensors.map (·.1) }
  else p

/-- What a write by other means than LOAD, KVAPPEND, Accord and the instructions of R300 does to the images of the table store, to sequences
and to compressed tensors (R213, R240, R312). `units`: NUNITS of the index at an address. -/
def Ctx.written (c : Ctx) (units : Nat → Nat) (lo hi : Nat) : Ctx :=
  { c with comp := c.comp.written units lo hi,
           tabs := ((rangeFrom 0 c.tabs.length).zip c.tabs).map (fun p =>
             { p.2 with bank0 := p.2.bank0.written p.1 0 lo hi, bank1 := p.2.bank1.written p.1 1 lo hi }),
           seqs := c.seqs.map (fun p => (p.1, p.2.written c.kv.n lo hi)) }

/-- NUNITS of the index at an address. -/
def indexUnits (s : State) (cn : Nat) (c : Ctx) (va : Nat) : Nat :=
  match readNat s cn c va 64 with
  | .ok h => (CIndex.ofHeader 0 va h).nunits
  | .error _ => 0

def foulBytes (s : State) (cn va n : Nat) : State :=
  s.modCtx cn (fun c => c.written (indexUnits s cn c) (va % 2 ^ 48) (va % 2 ^ 48 + n))

/-- The same for every write of a list. -/
def foulWrites (s : State) (cn : Nat) (ws : List WItem) : State :=
  ws.foldl (fun s w =>
    match w with
    | .ok p => foulBytes s cn p.1 p.2.length
    | .error _ => s) s

def doWrites (s : State) (cn : Nat) (ws : List WItem) : X State :=
  match plainWrites s cn ws with
  | .ok s => .ok (foulWrites s cn ws)
  | .error e => .error e

/-- After a fault: which of the writes have happened is unpredictable (R96). DESIGN CHOICE: log entry 9. -/
def someWrites (s : State) (cn : Nat) (ws : List WItem) : State :=
  (((rangeFrom 0 ws.length).zip ws).foldl (fun a p =>
    match p.2 with
    | .error _ => a
    | .ok w =>
      if Config.freeBool s.freeIx p.1 then
        match taskWrite a cn w.1 w.2 with
        | .ok a' => a'
        | .error _ => a
      else a) s).tick

/-- Add a write to the list of its unit, units in the order they are first met. -/
def addToUnit (u : Nat) (w : Nat × Bytes) : List (Nat × List (Nat × Bytes)) → List (Nat × List (Nat × Bytes))
  | [] => [(u, [w])]
  | (v, l) :: r => if u == v then (v, l ++ [w]) :: r else (v, l) :: addToUnit u w r

def unitWrites (x : CIndex) (ws : List WItem) : X (List (Nat × List (Nat × Bytes))) :=
  foldE (fun acc w =>
    match w with
    | .error e => .error e
    | .ok (va, b) =>
      match unitOf x va with
      | .ok (u, o) => .ok (addToUnit u (o, b) acc)
      | .error e => .error e) [] ws

/-- The writes that reach a unit of the tensor. -/
def goodWrites (x : CIndex) (ws : List WItem) : List WItem :=
  ws.filter (fun w =>
    match w with
    | .ok (va, _) => match unitOf x va with
      | .ok _ => true
      | .error _ => false
    | .error _ => false)

def storeUnits (s : State) (cn : Nat) (t : TD) (key : Bool) (l : List (Nat × List (Nat × Bytes))) : X State :=
  foldE (fun s p => writeUnit s cn t p.1 p.2 key) s l

/-- Some units of a compressed destination that a faulting instruction has written (R96). DESIGN CHOICE: log entry 9. -/
def someUnits (s : State) (cn : Nat) (t : TD) (key : Bool) (l : List (Nat × List (Nat × Bytes))) : State :=
  (l.foldl (fun a p =>
    if Config.freeBool s.freeIx p.1 then
      match writeUnit a cn t p.1 p.2 key with
      | .ok a' => a'
      | .error _ => a
    else a) s).tick

/-- Writes whose data is unpredictable: free values at the same addresses. DESIGN CHOICE: log entry 14. -/
def freeItems (k : Nat) (ws : List WItem) : List WItem :=
  ((rangeFrom 0 ws.length).zip ws).map (fun p =>
    match p.2 with
    | .ok w => .ok (w.1, (rangeFrom (64 * p.1) w.2.length).map (Config.freeByte k))
    | .error e => .error e)

/-- The writes to a destination: unpredictable when its strides map two elements to one address (R97). DESIGN CHOICE: log entry 14. -/
def destItems (s : State) (t : TD) (ws : List WItem) : List WItem := if t.aliased then freeItems s.freeIx ws else ws

/-- Writes to a tensor: all of them, or some of them and the first fault in index order (R96, R311). DESIGN CHOICE: log entry 25. -/
def storeAll (s : State) (cn : Nat) (t : TD) (key : Bool) (ws : List WItem) : State × Option CFault :=
  if t.cmp = 0 then
    match doWrites s cn ws with
    | .ok s' => (s', none)
    | .error e => (someWrites s cn ws, some e)
  else
    match s.ctx? cn with
    | none => (s, some .partition)
    | some c =>
      match resolveIndex s cn c t with
      | .error e => (s, some e)
      | .ok x =>
        match unitWrites x ws with
        | .error e =>
          match unitWrites x (goodWrites x ws) with
          | .ok l => (someUnits s cn t key l, some e)
          | .error _ => (s, some e)
        | .ok l =>
          match storeUnits s cn t key l with
          | .ok s' => (s', none)
          | .error e => (someUnits s cn t key l, some e)

/-- The writes of an instruction to its destination (R96, R97, R311). DESIGN CHOICE: log entry 25. -/
def runWrites (s : State) (cn : Nat) (t : TD) (key : Bool) (ws : List WItem) : State × Option CFault :=
  let p := storeAll s cn t key (destItems s t ws)
  (if t.aliased then p.1.tick else p.1, p.2)

/-- Plain byte writes outside any tensor. -/
def runBytes (s : State) (cn : Nat) (ws : List WItem) : State × Option CFault :=
  match doWrites s cn ws with
  | .ok s' => (s', none)
  | .error e => (someWrites s cn ws, some e)

/-- Pages of a list of writes whose shadow copy is under way (R123). DESIGN CHOICE: log entry 15. -/
def waitPages (s : State) (cn : Nat) (ws : List WItem) : List Nat :=
  match s.ctx? cn with
  | none => []
  | some c =>
    let cp := copyingPages c
    if cp.isEmpty then [] else
    dedup ((ws.flatMap (fun w => match w with
      | .ok (va, b) => pagesTouched va b.length
      | .error _ => [])).filter (fun p => cp.contains p))

/-- Begin the shadows that a list of writes needs (R123). -/
def prepareAll (s : State) (cn : Nat) (ws : List WItem) : X State :=
  foldE (fun s w =>
    match w with
    | .ok p => prepareWrite s cn p.1 p.2.length false
    | .error _ => .ok s) s ws

/-- Successor entries. -/
def readSucc (s : State) (cn : Nat) (c : Ctx) (d : BitVec 1024) : X (List Nat) :=
  mapE (fun i => match readNat s cn c (tSucc d + 4 * i) 4 with
    | .ok n => .ok (n % 2 ^ 24)
    | .error e => .error e) (rangeFrom 0 (tNsucc d))

/-! ### Scale slots (R56, R58, R85, R161) -/

/-- Combine an amax into a slot's AMAX and record the destination format. -/
def gatherAmax (s : State) (cn slot : Nat) (a : Bits32) (f : Fmt) : X State :=
  match s.ctx? cn with
  | none => .error .partition
  | some c =>
    match readNat s cn c (scaleSlotVa slot) 4 with
    | .error e => .error e
    | .ok old =>
      match taskWrite s cn (scaleSlotVa slot) (toBytes 4 (amaxStep (BitVec.ofNat 32 old) a).toNat) with
      | .error e => .error e
      | .ok s => .ok (s.modCtx cn (fun c => { c with slotFmt := NMap.set c.slotFmt slot f.code }))

end Sys2Proof.Machine
end

