-- ==== Sys2Proof/Machine/Issue.lean ====
section
/-!
DEFINITION. The issue of one instruction: fetch, the checks made whatever the predicate, the predicate, the body, and the move of the PC through the active loops (R65 to R67, R70, R75, R95, R96).
-/

namespace Sys2Proof.Machine

/-- What the body of an instruction leaves. -/
inductive Eff where
  /-- issued; the PC moves on -/
  | go (s : State) (r : Run)
  /-- issued; the PC stands where the body left it -/
  | jump (s : State) (r : Run)
  /-- a checked error -/
  | stop (s : State) (f : CFault)
deriving DecidableEq, Repr

/-- The outcome of every command of the block: a next state. -/
abbrev Res := Host.Outcome State Fault Refusal

/-- The PC lies inside the program (R75). -/
def pcInside (r : Run) : Bool := decide (tProg r.desc ≤ r.pc) && decide (r.pc < tProg r.desc + 16 * tPlen r.desc)

/-- Index of the instruction at the PC (R370). -/
def pcIndex (r : Run) : Nat := (r.pc - tProg r.desc) / 16

/-- The word at the PC. -/
def fetchWord (s : State) (r : Run) (c : Ctx) : X InstrWord :=
  match readNat s r.ctx c r.pc 16 with
  | .ok n => .ok (BitVec.ofNat 128 n)
  | .error e => .error e

/-- A word outside the encodings of the task's kind: class, class on this kind, operation or version (R66, R67). -/
def reservedWord (k : UnitKind) (w : InstrWord) : Bool :=
  !(decide (wClass w ≤ clPUSH)) || !(classAllowed k (wClass w)) || !(opDefined (wClass w) (wOp w)) || wIver w != 0

/-- The predicate of the word (R66). -/
def predicate (r : Run) (w : InstrWord) : Bool :=
  if wPsel w < 8 then preg r.P (wPsel w) else !(preg r.P (wPsel w - 8))

/-- End-of-body processing at an address: go round again or leave the loop, from the innermost loop out (R75). -/
def loopEnd (pc : Nat) : List LoopEntry → Nat × List LoopEntry
  | [] => (pc, [])
  | l :: r =>
    if pc = l.start + 16 * l.len then
      if 0 < l.remaining then (l.start, { l with remaining := l.remaining - 1, iter := l.iter + 1 } :: r)
      else loopEnd pc r
    else (pc, l :: r)

/-- The PC after an instruction that does not branch. -/
def advance (r : Run) : Run :=
  let p := loopEnd (r.pc + 16) r.loops
  { r with pc := p.1, loops := p.2 }

/-- Loops that a branch target leaves end, with every loop nested inside (R75). -/
def leaveLoops (target : Nat) (l : List LoopEntry) : List LoopEntry :=
  (l.reverse.takeWhile (fun x => decide (x.start ≤ target) && decide (target < x.start + 16 * x.len))).reverse

/-- A unit that is ready to issue, with its run and its context. -/
def issuing (s : State) (u : UnitId) : Option (Run × Ctx) :=
  match s.run? u with
  | none => none
  | some r =>
    if r.phase = .running then
      match s.ctx? r.ctx with
      | some c => some (r, c)
      | none => none
    else none

/-- Settle an instruction's effect. -/
def settle (u : UnitId) (r : Run) (e : Eff) : Res :=
  match e with
  | .go s r' => .next (s.setRun u (advance r'))
  | .jump s r' => .next (s.setRun u r')
  | .stop s f => .next (unitFault s u r f (pcIndex r))

/-- The issue event of one row. When the unit is not ready, the PC is out of bounds or another instruction stands at the PC, the
event is not this row's and nothing changes. DESIGN CHOICE: log entry 2. DEDUCED: log entry 21. -/
def issue (s : State) (u : UnitId) (cl op : Nat) (static : UnitKind → InstrWord → Bool)
    (body : State → UnitId → Ctx → Run → InstrWord → Eff) : Res :=
  match issuing s u with
  | none => .next s
  | some (r, c) =>
    if !pcInside r then .next s else
    match fetchWord s r c with
    | .error f => .next (unitFault s u r f (pcIndex r))
    | .ok w =>
      if reservedWord u.kind w || wClass w != cl || wOp w != op then .next s
      else if !static u.kind w then .next (unitFault s u r .illegalInstruction (pcIndex r))
      else if !predicate r w then .next (s.setRun u (advance r))
      else settle u r (body s u c r w)

/-- No operand field of the row is checked. -/
def noCheck (_ : UnitKind) (_ : InstrWord) : Bool := true

/-- A computation whose error stops the instruction. -/
def tryX {α : Type} (s : State) (x : X α) (k : α → Eff) : Eff :=
  match x with
  | .ok a => k a
  | .error f => .stop s f

/-- A check whose failure stops the instruction. -/
def check (s : State) (b : Bool) (f : CFault) (k : Unit → Eff) : Eff := if b then k () else .stop s f

/-- Take the snapshot of an asynchronous instruction (R71). -/
def snapshot (r : Run) (w : InstrWord) : Snapshot :=
  { ix := pcIndex r, word := w, S := r.S, A := r.A, T := r.T, E := r.E, Q := r.Q }

/-- The end of a synchronous instruction with writes: it waits for the shadow copies its writes need (R123). -/
def finishWrites (res : State × Option CFault) (cn : Nat) (ws : List WItem) (r : Run) : Eff :=
  match res.2 with
  | some f => .stop res.1 f
  | none =>
    let p := waitPages res.1 cn ws
    .go res.1 (if p.isEmpty then r else { r with phase := .waitShadow p })

end Sys2Proof.Machine
end

