-- ==== Sys2Proof/Machine/Ctrl.lean ====
section
/-!
DEFINITION. The meanings of the CTRL and SYNC classes (R72 to R77, R120 to R122).
-/

namespace Sys2Proof.Machine

/-- AX + IMM modulo 2^48 (R72, R73). -/
def axImm (r : Run) (w : InstrWord) : Nat := wrap 48 ((areg r.A (fAX w) : Int) + signed 64 (fIMM w))

/-- The same with bits [2:0] ignored (R73). -/
def axWord (r : Run) (w : InstrWord) : Nat := axImm r w - axImm r w % 8

/-- The second operand (R72). -/
def operand2 (r : Run) (w : InstrWord) : Word64 := if fIMMSEL w then BitVec.ofNat 64 (fIMM w) else sreg r.S (fSB w)

def execNop (u : UnitId) (s : State) : Res := issue s u clCTRL 0x00 noCheck (fun s _ _ r _ => .go s r)

/-- HALT waits until every asynchronous group has completed; the task then completes (R73). -/
def execHalt (u : UnitId) (s : State) : Res :=
  issue s u clCTRL 0x01 noCheck (fun s _ _ r _ => .jump s { r with phase := .halting })

/-- BR: PC + IMM × 16 (R73, R75). -/
def execBr (u : UnitId) (s : State) : Res :=
  issue s u clCTRL 0x02 noCheck (fun s _ _ r w =>
    let pc := wrap 48 ((r.pc : Int) + 16 * signed 64 (fIMM w))
    .jump s { r with pc := pc, loops := leaveLoops pc r.loops })

/-- The count of a LOOP. -/
def loopCount (r : Run) (w : InstrWord) : Nat := if fIMMSEL w then fIMM w % 2 ^ 32 else (sreg r.S (fSA w)).toNat % 2 ^ 32

/-- The body lies inside the body that encloses it. -/
def loopFits (r : Run) (len : Nat) : Bool :=
  match r.loops with
  | [] => true
  | l :: _ => decide (r.pc + 16 + 16 * len ≤ l.start + 16 * l.len)

/-- LOOP: LEN = 0 is refused whatever the predicate (R66, R73, R75). DEDUCED: log entry 21. -/
def execLoop (u : UnitId) (s : State) : Res :=
  issue s u clCTRL 0x03 (fun _ w => fLEN w != 0) (fun s _ _ r w =>
    let len := fLEN w
    check s (decide (r.loops.length < 4) && loopFits r len) .illegalInstruction fun _ =>
    let n := loopCount r w
    if n = 0 then .go s { r with pc := r.pc + 16 * len }
    else .jump s { r with pc := r.pc + 16, loops := { start := r.pc + 16, len := len, remaining := n - 1, iter := 0 } :: r.loops })

/-- Every issued instruction of the groups in a mask has completed (R73). -/
def groupsDone (r : Run) (mask : Nat) : Bool :=
  (!(bitAt mask 0) || r.moves.isEmpty) && (!(bitAt mask 1) || r.pushes == 0) &&
    (!(bitAt mask 2) || (r.drains.isEmpty && r.stagePushes == 0)) && (!(bitAt mask 3) || r.attns.isEmpty)

/-- WAIT (R73). -/
def execWait (u : UnitId) (s : State) : Res :=
  issue s u clCTRL 0x04 noCheck (fun s _ _ r w =>
    let m := fIMM w % 16
    if groupsDone r m then .go s r else .jump s { r with phase := .waitGroups m })

/-- A WAIT whose groups have all completed goes on. -/
def execWaitResume (u : UnitId) (s : State) : Res :=
  match s.run? u with
  | some r =>
    match r.phase with
    | .waitGroups m => if groupsDone r m then .next (s.setRun u (advance { r with phase := .running })) else .next s
    | _ => .next s
  | none => .next s

/-- SIGNAL: USER of the task's completion record (R73). -/
def execSignal (u : UnitId) (s : State) : Res :=
  issue s u clCTRL 0x05 noCheck (fun s _ _ r w => .go s { r with user := sreg32 r.S (fSA w) })

/-- The scalar operations of R74. -/
def saluOp (sub : Nat) (a b : Word64) : Word64 :=
  match sub with
  | 0x0 => a + b
  | 0x1 => a - b
  | 0x2 => a * b
  | 0x3 => a &&& b
  | 0x4 => a ||| b
  | 0x5 => a ^^^ b
  | 0x6 => a <<< (b.toNat % 64)
  | 0x7 => a >>> (b.toNat % 64)
  | 0x8 => a.sshiftRight (b.toNat % 64)
  | 0x9 => if b.slt a then b else a
  | 0xA => if a.slt b then b else a
  | 0xB => if b < a then b else a
  | _ => if a < b then b else a

/-- SALU: a SUB above 0xC is refused whatever the predicate (R66, R74). DEDUCED: log entry 21. -/
def execSalu (u : UnitId) (s : State) : Res :=
  issue s u clCTRL 0x06 (fun _ w => decide (fSUB w ≤ 0xC)) (fun s _ _ r w =>
    .go s { r with S := setS r.S (fSD w) (saluOp (fSUB w) (sreg r.S (fSA w)) (operand2 r w)) })

/-- SLI (R73). -/
def execSli (u : UnitId) (s : State) : Res :=
  issue s u clCTRL 0x07 noCheck (fun s _ _ r w => .go s { r with S := setS r.S (fSD w) (BitVec.ofNat 64 (fIMM w)) })

/-- The comparisons of R74. -/
def scmpOp (r : Run) (w : InstrWord) : Bool :=
  let a := sreg r.S (fSA w)
  let b := operand2 r w
  match fSUB w with
  | 0x0 => a == b
  | 0x1 => a != b
  | 0x2 => a.slt b
  | 0x3 => a.sle b
  | 0x4 => decide (a < b)
  | 0x5 => decide (a ≤ b)
  | 0x6 => preg r.P (fSA w % 8) && preg r.P (fSB w % 8)
  | 0x7 => preg r.P (fSA w % 8) || preg r.P (fSB w % 8)
  | _ => !(preg r.P (fSA w % 8))

/-- SCMP: a SUB above 0x8 or a destination P0 is refused whatever the predicate (R66, R74). DEDUCED: log entry 21. -/
def execScmp (u : UnitId) (s : State) : Res :=
  issue s u clCTRL 0x08 (fun _ w => decide (fSUB w ≤ 0x8) && fSD w % 8 != 0) (fun s _ _ r w =>
    .go s { r with P := setP r.P (fSD w % 8) (scmpOp r w) })

/-- The special registers of R76. -/
def specialReg (r : Run) (sel : Nat) : Word64 :=
  match sel with
  | 0 => r.astat.setWidth 64
  | 1 => BitVec.ofNat 64 (tStep r.desc)
  | 2 => BitVec.ofNat 64 (tCtx r.desc)
  | 3 => BitVec.ofNat 64 r.loops.length
  | n => match r.loops.reverse[n - 4]? with
    | some l => BitVec.ofNat 64 l.iter
    | none => 0

/-- RDSR: any other register is refused whatever the predicate (R66, R76). -/
def execRdsr (u : UnitId) (s : State) : Res :=
  issue s u clCTRL 0x09 (fun _ w => decide (fIMM w % 256 ≤ 7)) (fun s _ _ r w =>
    .go s { r with S := setS r.S (fSD w) (specialReg r (fIMM w % 256)) })

/-- WRSR: clears ASTAT bits (R73). -/
def execWrsr (u : UnitId) (s : State) : Res :=
  issue s u clCTRL 0x0A noCheck (fun s _ _ r w => .go s (r.clearFlags (sreg32 r.S (fSA w))))

/-- LDS (R73). -/
def execLds (u : UnitId) (s : State) : Res :=
  issue s u clCTRL 0x0B noCheck (fun s _ c r w =>
    tryX s (readNat s r.ctx c (axWord r w) 8) fun v => .go s { r with S := setS r.S (fSD w) (BitVec.ofNat 64 v) })

/-- STS (R73). -/
def execSts (u : UnitId) (s : State) : Res :=
  issue s u clCTRL 0x0C noCheck (fun s _ _ r w =>
    let ws : List WItem := [.ok (axWord r w, toBytes 8 (sreg r.S (fSD w)).toNat)]
    finishWrites (runBytes s r.ctx ws) r.ctx ws r)

/-- ASET (R73). -/
def execAset (u : UnitId) (s : State) : Res :=
  issue s u clCTRL 0x0D noCheck (fun s _ _ r w =>
    let base : Nat := if fSUB w % 2 = 1 then (sreg r.S (fSA w)).toNat else areg r.A (fAX w)
    .go s { r with A := setNth r.A (fAX w) (wrap 48 ((base : Int) + signed 64 (fIMM w))) })

/-- AGET (R73). -/
def execAget (u : UnitId) (s : State) : Res :=
  issue s u clCTRL 0x0E noCheck (fun s _ _ r w => .go s { r with S := setS r.S (fSD w) (BitVec.ofNat 64 (areg r.A (fAX w))) })

/-- TBASE: the base of a slot that holds a descriptor (R69, R73). -/
def execTbase (u : UnitId) (s : State) : Res :=
  issue s u clCTRL 0x0F noCheck (fun s _ _ r w =>
    tryX s (chainSlot r.T (fTX w)) fun b =>
    .go s { r with T := setNth r.T (fTX w) (some (BitVec.ofNat 512 (setField b.toNat 47 0 (areg r.A (fAX w))))) })

/-- CHLOAD (R73). -/
def execChload (u : UnitId) (s : State) : Res :=
  issue s u clCTRL 0x10 noCheck (fun s _ c r w =>
    tryX s (readNat s r.ctx c (axImm r w) 64) fun v =>
    let b := some (BitVec.ofNat 512 v)
    if fSUB w % 2 = 0 then .go s { r with E := setNth r.E (fSD w % 8) b } else .go s { r with Q := setNth r.Q (fSD w % 4) b })

/-- WCFA: fetch and add, the page shadowed first (R77, R120, R121). -/
def execWcfa (u : UnitId) (s : State) : Res :=
  issue s u clSYNC 0x00 noCheck (fun s _ c r w =>
    let va := axWord r w
    tryX s (readNat s r.ctx c va 8) fun v =>
    let b := toBytes 8 (BitVec.ofNat 64 v + sreg r.S (fSA w)).toNat
    tryX s (countedWrite s r.ctx va b) fun s' =>
    finishWrites (foulBytes s' r.ctx va 8, none) r.ctx [.ok (va, b)] { r with S := setS r.S (fSD w) (BitVec.ofNat 64 v) })

/-- TOKSET (R77). -/
def execTokset (u : UnitId) (s : State) : Res :=
  issue s u clSYNC 0x01 noCheck (fun s _ _ r w =>
    let ws : List WItem := [.ok (axWord r w, toBytes 8 (sreg r.S (fSA w)).toNat)]
    finishWrites (runBytes s r.ctx ws) r.ctx ws r)

/-- A token counter is at or below its threshold, both signed (R77). -/
def tokenReached (v : Nat) (thresh : Word64) : Bool := (BitVec.ofNat 64 v).sle thresh

/-- TOKWAIT (R77). -/
def execTokwait (u : UnitId) (s : State) : Res :=
  issue s u clSYNC 0x02 noCheck (fun s _ c r w =>
    let va := axWord r w
    tryX s (readNat s r.ctx c va 8) fun v =>
    if tokenReached v (sreg r.S (fSA w)) then .go s r
    else .jump s { r with phase := .waitToken va (sreg r.S (fSA w)) })

/-- A TOKWAIT whose counter has come down goes on; an address no longer mapped is a partition fault. -/
def execTokwaitResume (u : UnitId) (s : State) : Res :=
  match s.run? u with
  | some r =>
    match r.phase, s.ctx? r.ctx with
    | .waitToken va t, some c =>
      match readNat s r.ctx c va 8 with
      | .ok v => if tokenReached v t then .next (s.setRun u (advance { r with phase := .running })) else .next s
      | .error f => .next (unitFault s u r f (pcIndex r))
    | _, _ => .next s
  | none => .next s

/-- BND: legal only in a boundary task, where it ends the task as HALT does and is step 1 of the boundary: the staged
request is taken (R77, R114, R131); a BND elsewhere faults when it executes. DESIGN CHOICE: log entry 103. -/
def execBnd (u : UnitId) (s : State) : Res :=
  issue s u clSYNC 0x03 noCheck (fun s _ _ r _ =>
    check s (tBnd r.desc) .illegalInstruction fun _ => .jump (s.modCtx r.ctx Ctx.takeStaged) { r with phase := .handing })

/-- A word no row of the table stands for: reserved class or operation, nonzero IVER, a class not allowed on the kind (R66, R67). -/
def execReservedInstruction (u : UnitId) (s : State) : Res :=
  match issuing s u with
  | none => .next s
  | some (r, c) =>
    if !pcInside r then .next s else
    match fetchWord s r c with
    | .error f => .next (unitFault s u r f (pcIndex r))
    | .ok w => if reservedWord u.kind w then .next (unitFault s u r .illegalInstruction (pcIndex r)) else .next s

/-- A fetch outside the program's extent (R75). -/
def execProgramBoundsFetch (u : UnitId) (s : State) : Res :=
  match issuing s u with
  | none => .next s
  | some (r, _) => if pcInside r then .next s else .next (unitFault s u r .programBounds (pcIndex r))

end Sys2Proof.Machine
end

