-- ==== Sys2Proof/Machine/Reduce.lean ====
section
/-!
DEFINITION. The fixed reduction order: trees of 16, group order, integer accumulation and the three-pass split (R40 to R49).
-/

namespace Sys2Proof.Machine

/-- One level of the balanced tree: neighbours are added in pairs (R41). -/
def pairUp : List Bits32 → W (List Bits32)
  | a :: b :: r =>
    let (s, f1) := fadd .rne a b
    let (l, f2) := pairUp r
    (s :: l, f1 ||| f2)
  | l => (l, 0)

/-- Sum of 16 leaves in the tree of R41. -/
def tree16 (l : List Bits32) : W Bits32 :=
  let (a, f1) := pairUp l
  let (b, f2) := pairUp a
  let (c, f3) := pairUp b
  let (d, f4) := pairUp c
  (nth 0 d 0, f1 ||| f2 ||| f3 ||| f4)

/-- The first 16 of a list, filled up with +0.0 (R42). -/
def leaf16 (l : List Bits32) : List Bits32 := (l ++ List.replicate 16 0).take 16

/-- Group sums enter the accumulator one at a time in ascending order (R41); the fuel is the list's length. -/
def sumGroups : Nat → W Bits32 → List Bits32 → W Bits32
  | 0, acc, _ => acc
  | n + 1, acc, l =>
    match l with
    | [] => acc
    | l =>
      let (s4, f1) := tree16 (leaf16 l)
      let (a, f2) := fadd .rne acc.1 s4
      sumGroups n (a, acc.2 ||| f1 ||| f2) (l.drop 16)

/-- R41 over rounded products, from an initial accumulator. -/
def reduce41 (init : Bits32) (ps : List Bits32) : W Bits32 := sumGroups ps.length (init, 0) ps

/-- The order of R45 for the sums of the VEC class. -/
def sum45 (l : List Bits32) : W Bits32 := reduce41 0 l

/-- A product rounded to FP32 with RNE (R40), with the scale exponent of R163. -/
def product (k : Int) (a b : FV) : W Bits32 := rne (a.isNan || b.isNan) ((a.mul b).scale k)

/-- Clamp to INT32 and ISAT when it acts (R46). -/
def satAdd (acc s : Int) : Int × Flags :=
  let t := acc + s
  if t < -2147483648 then (-2147483648, ISAT) else if 2147483647 < t then (2147483647, ISAT) else (t, 0)

def sumInts : List Int → Int
  | [] => 0
  | x :: r => x + sumInts r

/-- Integer accumulation in groups of 16; each group's addition saturates (R46). -/
def reduceInt : Nat → Int × Flags → List Int → Int × Flags
  | 0, acc, _ => acc
  | n + 1, acc, l =>
    match l with
    | [] => acc
    | l =>
      let (a, f) := satAdd acc.1 (sumInts (l.take 16))
      reduceInt n (a, acc.2 ||| f) (l.drop 16)

/-- High and low BF16 parts of an FP32 element, as stored (R48). Their roundings set no flag. DESIGN CHOICE: log entry 102. -/
def splitBits (x : Bits32) : Nat × Nat :=
  match fp x with
  | .fin s m e =>
    let b := (roundF .bf16 .rne (.fin s m e)).1
    let b := if b % 2 ^ 15 > Fmt.bf16.maxCode then (if s then 2 ^ 15 else 0) + Fmt.bf16.maxCode else b
    (b, (roundF .bf16 .rne ((FV.fin s m e).sub (decodeF .bf16 b))).1)
  | v => ((roundF .bf16 .rne v).1, 0)

/-- The parts' values. -/
def split3 (x : Bits32) : FV × FV := (decodeF .bf16 (splitBits x).1, decodeF .bf16 (splitBits x).2)

/-- A product of passes 1 and 2 is +0 when one factor is the low part of a non-finite element (R49). -/
def splitProduct (k : Int) (x y : FV) (loOfNonFinite : Bool) : W Bits32 :=
  if loOfNonFinite then (0, 0) else product k x y

/-- The three passes of R49 over pairs of FP32 elements, each pair with its scale exponent; `none` is a masked leaf. -/
def reduceSplit3 (init : Bits32) (ps : List (Option (Bits32 × Bits32 × Int))) : W Bits32 :=
  let leaf (g : Bits32 × Bits32 × Int → W Bits32) (p : Option (Bits32 × Bits32 × Int)) : W Bits32 :=
    match p with
    | none => (0, 0)
    | some t => g t
  let pass (acc : W Bits32) (g : Bits32 × Bits32 × Int → W Bits32) : W Bits32 :=
    let l := ps.map (leaf g)
    let r := reduce41 acc.1 (l.map (·.1))
    (r.1, acc.2 ||| r.2 ||| l.foldl (fun f x => f ||| x.2) 0)
  let p1 := pass (init, 0) (fun t => splitProduct t.2.2 (split3 t.1).1 (split3 t.2.1).2 (!(fp t.2.1).isFinite))
  let p2 := pass p1 (fun t => splitProduct t.2.2 (split3 t.1).2 (split3 t.2.1).1 (!(fp t.1).isFinite))
  pass p2 (fun t => product t.2.2 (split3 t.1).1 (split3 t.2.1).1)

end Sys2Proof.Machine
end

