-- ==== Sys2Proof/Machine/Builtin.lean ====
section
/-!
DEFINITION. The functions of the built-in images, to 256 bits, and the results their error bounds allow (R208, R256).
-/

namespace Sys2Proof.Machine

/-! ### Arithmetic kept to 256 bits -/

/-- The leading 256 bits of a magnitude. -/
def chop (v : FV) : FV :=
  match v with
  | .fin n m e => .fin n (m >>> (Nat.log2 m - 255)) (e + ((Nat.log2 m - 255 : Nat) : Int))
  | v => v

def rmul (a b : FV) : FV := chop (a.mul b)
def radd (a b : FV) : FV := chop (a.add b)
def rnat (n : Nat) : FV := .fin false n 0

/-- The reciprocal of a value other than zero. -/
def rinv (v : FV) : FV :=
  match v with
  | .fin n m e => let k := Nat.log2 m + 256; .fin n (2 ^ k / m) (-(k : Int) - e)
  | v => v

def rdiv (a b : FV) : FV := rmul a (rinv b)

/-- Newton steps toward an integer square root. -/
def sqrtSteps (n : Nat) : Nat → Nat → Nat
  | 0, x => x
  | k + 1, x => sqrtSteps n k ((x + n / x) / 2)

/-- The square root of a value above zero. -/
def rsqrtOf (v : FV) : FV :=
  match v with
  | .fin _ m e =>
    let k : Nat := 512 + (e % 2).toNat
    let n := m <<< k
    .fin false (sqrtSteps n 16 (2 ^ (Nat.log2 n / 2 + 1))) ((e - k) / 2)
  | v => v

/-- log 2, and 1 / √(2π). -/
def ln2 : FV := .fin false 0xb17217f7d1cf79abc9e3b39803f2f6af40f343267298b62d8a0d175b8baafa2b (-256)
def invSqrt2Pi : FV := .fin false 0x662114cf50d942343f2cf1402eae38bfd3829f30512706d8c0471b4802639d2e (-256)

/-- An exact value rounded to an integer, ties to even. -/
def nearestInt (v : FV) : Int :=
  match v with
  | .fin neg m e => let n : Int := ((roundInt .rne m e).1 : Int); if neg then -n else n
  | _ => 0

/-- x = 2^n · m with 0.75 ≤ m < 1.5. -/
def logSplit (m : Nat) (e : Int) : Int × FV :=
  let top : Int := (Nat.log2 m : Int) + e
  -- m / 2^log2 m lies in [1, 2); at or above 1.5 the exponent rises by one
  let n := if 3 * 2 ^ Nat.log2 m ≤ 2 * m then top + 1 else top
  (n, .fin false m (e - n))

/-- 1 + r / k · (1 + r / (k + 1) · (…)). -/
def expTail (r : FV) : Nat → Nat → FV
  | 0, _ => rnat 1
  | n + 1, k => radd (rnat 1) (rdiv (rmul r (expTail r n (k + 1))) (rnat k))

/-- exp of a finite value. -/
def rexp (v : FV) : FV :=
  let n := nearestInt (rdiv v ln2)
  (expTail (v.sub ((ofInt n 0).mul ln2)) 56 1).scale n

/-- 1 / (2k + 1) + q · (1 / (2k + 3) + …). -/
def logTail (q : FV) : Nat → Nat → FV
  | 0, _ => rnat 0
  | n + 1, k => radd (rinv (rnat (2 * k + 1))) (rmul q (logTail q n (k + 1)))

/-- log of a value above zero. -/
def rlog (v : FV) : FV :=
  match v with
  | .fin _ m e =>
    let p := logSplit m e
    let z := rdiv (p.2.sub (rnat 1)) (p.2.add (rnat 1))
    radd ((ofInt p.1 0).mul ln2) (rmul (z.scale 1) (logTail (rmul z z) 60 0))
  | v => v

/-- 1 + q / (2k + 1) · (1 + q / (2k + 3) · (…)). -/
def phiTail (q : FV) : Nat → Nat → FV
  | 0, _ => rnat 1
  | n + 1, k => radd (rnat 1) (rdiv (rmul q (phiTail q n (k + 1))) (rnat (2 * k + 1)))

/-- The normal density and distribution. -/
def rdens (v : FV) : FV := rmul invSqrt2Pi (rexp ((rmul v v).scale (-1)).negate)
def rdist (v : FV) : FV := radd ((rnat 1).scale (-1)) (rmul (rdens v) (rmul v (phiTail (rmul v v) 240 1)))

/-- 1 / (1 + exp(-v)). -/
def rsigm (v : FV) : FV := rinv (radd (rnat 1) (rexp v.negate))

/-- tanh; close to zero by its series. -/
def rtanh (v : FV) : FV :=
  match v with
  | .fin n m e =>
    if (Nat.log2 m : Int) + e < -30 then
      let q := rmul v v
      rmul v (radd (rnat 1) (rmul q (radd (rdiv (rnat 1).negate (rnat 3)) (rmul q (rdiv (rnat 2) (rnat 15))))))
    else
      let t := rexp (FV.fin n m (e + 1))
      rdiv (t.sub (rnat 1)) (radd t (rnat 1))
  | v => v

/-- 2 √(2/π) (v + 0.044715 v³), the argument of the tanh form as a logistic, and its derivative. -/
def geluArg (v : FV) : FV :=
  rmul (invSqrt2Pi.scale 2) (radd v (rmul (rdiv (rnat 44715) (rnat 1000000)) (rmul v (rmul v v))))
def geluSlope (v : FV) : FV :=
  rmul (invSqrt2Pi.scale 2) (radd (rnat 1) (rmul (rdiv (rnat 134145) (rnat 1000000)) (rmul v v)))

/-- The function of an image at a finite argument of its domain. -/
def builtinReal (i : Nat) (v : FV) : FV :=
  match i with
  | 0 => rexp v
  | 1 => let n := nearestInt v; (rexp (rmul (v.sub (ofInt n 0)) ln2)).scale n
  | 2 => rlog v
  | 3 => rinv v
  | 4 => rinv (rsqrtOf v)
  | 5 => rsigm v
  | 6 => rtanh v
  | 7 => rmul v (rsigm v)
  | 8 => rmul v (rdist v)
  | 9 => rmul v (rsigm (geluArg v))
  | 10 => rlog (radd (rnat 1) (rexp v))
  | 16 => rmul (rsigm v) (rsigm v.negate)
  | 17 => (rmul (rsigm (v.scale 1)) (rsigm (v.scale 1).negate)).scale 2
  | 18 => rmul (rsigm v) (radd (rnat 1) (rmul v (rsigm v.negate)))
  | 19 => radd (rdist v) (rmul v (rdens v))
  | 20 =>
    let g := rsigm (geluArg v)
    radd g (rmul v (rmul (geluSlope v) (rmul g (rsigm (geluArg v).negate))))
  | _ => rsigm v

/-! ### What the bounds allow -/

/-- |a - b| is at most 2^k. -/
def near (a b : FV) (k : Int) : Bool :=
  match a.sub b with
  | .fin _ m e => magLe m e 1 k
  | _ => false

/-- Exponent of the leading bit, not below that of the smallest normal FP32 number. -/
def leadExp (v : FV) : Int :=
  match v with
  | .fin _ m e => if m = 0 then -126 else max (-126) ((Nat.log2 m : Int) + e)
  | _ => -126

/-- A result is within 4 ulp in FP32, within 1 ulp once rounded to BF16, and within 2^-22 of exp at or below zero where that is normal (R208). -/
def withinBounds (i : Nat) (x y : Bits32) : Bool :=
  let v := builtinReal i (fp x)
  let top := leadExp v
  near (fp y) v (top - 21) && near (decodeF .bf16 (roundF .bf16 .rne (fp y)).1) v (top - 7) &&
    (i != 0 || !(x.getLsbD 31) ||
      (match (fp y).sub v, v with
       | .fin _ m e, .fin _ n g => magLe m e n (g - 22) || !(magLe 1 (-126) n g)
       | _, _ => false))

/-- A finite FP32 number some steps of the last place away. -/
def stepUlps (x : Bits32) (k : Int) : Bits32 :=
  if k = 0 then x else
  let o : Int := (if x.getLsbD 31 then -(field x.toNat 30 0 : Int) else (field x.toNat 30 0 : Int)) + k
  BitVec.ofNat 32 (o.natAbs + (if o < 0 then 2 ^ 31 else 0))

/-- A result inside the domain: the correctly rounded one, or another that the bounds allow. The manual lists no coefficient, so which is
open. DESIGN CHOICE: log entry 7. -/
def builtinNear (i : Nat) (x : Bits32) : W Bits32 :=
  let a := roundF .fp32 .rne (builtinReal i (fp x))
  if a.2 &&& FOVF = FOVF then (BitVec.ofNat 32 a.1, FOVF) else
  let y := stepUlps (BitVec.ofNat 32 a.1) (((Config.builtinStep i x % 9 : Nat) : Int) - 4)
  let z := if withinBounds i x y then y else BitVec.ofNat 32 a.1
  -- the enclosing rounding of an image with argument reduction may meet the subnormal range (R205)
  (z, if decide (field z.toNat 30 23 = 0) && (i == 0 || i == 1 || i == 3) && Config.builtinStep i x / 9 % 2 == 1 then FTINY else 0)

end Sys2Proof.Machine
end

