-- ==== Sys2Proof/Machine/Tables.lean ====
section
/-!
DEFINITION. Function tables: image layout, the lookup of R204 and R459, the exact values of the built-in images (R201 to R209, R256), and normalisation (R220).
-/

namespace Sys2Proof.Machine

/-- The bytes of an image by offset. -/
abbrev Img := Nat → Byte

def imgNat (g : Img) (off n : Nat) : Nat := ofBytes ((rangeFrom off n).map g)

/-! ### Header (R202) -/

def hIvers (g : Img) : Nat := imgNat g 0 1
def hFlags (g : Img) : Nat := imgNat g 0 4
def hRred (g : Img) : Nat := field (hFlags g) 9 8
def hOdd (g : Img) : Bool := bitAt (hFlags g) 10
def hNeg (g : Img) : Nat := field (hFlags g) 12 11
def hZero (g : Img) : Nat := field (hFlags g) 14 13
def hW (g : Img) : Nat := field (hFlags g) 15 15
def hSatlo (g : Img) : Bits32 := BitVec.ofNat 32 (imgNat g 4 4)
def hSathi (g : Img) : Bits32 := BitVec.ofNat 32 (imgNat g 8 4)
def hKhi (g : Img) : Bits32 := BitVec.ofNat 32 (imgNat g 12 4)
def hKlo (g : Img) : Bits32 := BitVec.ofNat 32 (imgNat g 16 4)
def hXlo (g : Img) : Bits32 := BitVec.ofNat 32 (imgNat g 20 4)
def hXhi (g : Img) : Bits32 := BitVec.ofNat 32 (imgNat g 24 4)
def hModes (g : Img) : Nat := imgNat g 28 1
def hLomode (g : Img) : Nat := field (hModes g) 1 0
def hHimode (g : Img) : Nat := field (hModes g) 3 2

/-- Segment map entry (R203). -/
def mapEntry (g : Img) (i : Nat) : Nat := imgNat g (0x40 + 2 * i) 2
def mBase (e : Nat) : Nat := field e 8 0
def mNsb (e : Nat) : Nat := field e 11 9
def mMode (e : Nat) : Nat := field e 13 12

def coef (g : Img) (s k : Nat) : Bits32 := BitVec.ofNat 32 (imgNat g (0x440 + 12 * s + 4 * k) 4)

/-! ### Lookup (R204, R205, R459) -/

/-- An exact value that is an FP32 number, as its bits; an exact zero is +0. -/
def bits32 (v : FV) : Bits32 :=
  match v with
  | .fin _ 0 _ => 0
  | v => BitVec.ofNat 32 (roundF .fp32 .rne v).1

/-- Rounding of an enclosing rne(): its own overflow and underflow flags only (R205). -/
def enclose (v : FV) : W Bits32 :=
  let p := roundF .fp32 .rne v
  (BitVec.ofNat 32 p.1, p.2)

/-- seg(r): the polynomial of one segment. A NaN coefficient is an operand NaN (R453). -/
def seg (g : Img) (r : Bits32) : W Bits32 :=
  let ex := field r.toNat 30 23
  let e := mapEntry g ((if r.getLsbD 31 then 256 else 0) + ex)
  if mMode e = 1 then (hSatlo g, 0)
  else if mMode e = 2 then (hSathi g, 0)
  else if mMode e = 3 then (r, 0)
  else if ex = 255 then (nan32, FNAN)
  else
    let k := mNsb e
    let fr := r.toNat % 2 ^ 23
    let top := fr >>> (23 - k)
    let s := mBase e + top
    let o : Bits32 := BitVec.ofNat 32 (r.toNat - fr + top * 2 ^ (23 - k) + 2 ^ (22 - k))
    let d := bits32 ((fp r).sub (fp o))
    let c0 := coef g s 0
    let c1 := coef g s 1
    let c2 := coef g s 2
    let y := (ffma .rne (ffma .rne c2 d c1).1 d c0).1
    (y, nanIn32 c0 ||| nanIn32 c1 ||| nanIn32 c2)

/-- khi + klo, formed exactly. -/
def hK (g : Img) : FV := (fp (hKhi g)).add (fp (hKlo g))

/-- An exact zero has no sign (R204: "formed exactly"). DEDUCED: log entry 90. -/
def unsignZero (v : FV) : FV :=
  match v with
  | .fin _ 0 e => .fin false 0 e
  | v => v

/-- x = 2^(v·n) · m with m = mant · 2^exp in [1, 2^v), for a finite x above zero. -/
def powerSplit (v : Nat) (m : Nat) (e : Int) : Int × FV :=
  let top : Int := (Nat.log2 m : Int) + e
  let n := top / (v : Int)
  (n, .fin false m (e - (v : Int) * n))

/-- The sign of k for an infinite argument (R459). -/
def signOf (v : FV) : Int :=
  match v with
  | .fin _ 0 _ => 0
  | .fin n _ _ => if n then -1 else 1
  | .inf n => if n then -1 else 1
  | .nan => 0

/-- The core of a finite argument when khi + klo is no finite number, which the spec leaves open. DESIGN CHOICE: log entry 98. -/
def openLookup (g : Img) (x : Bits32) : W Bits32 :=
  let p := Config.infiniteReduction (hRred g) x (hKhi g) (hKlo g)
  (p.1, p.2 &&& (FOVF ||| FNAN ||| FTINY))

/-- core(x) of R204, with the limits of R459. DEDUCED: log entry 90. -/
def core (g : Img) (x : Bits32) : W Bits32 :=
  match fp x with
  | .inf neg =>
    match hRred g with
    | 0 => seg g x
    | 1 =>
      let k := signOf (hK g) * (if neg then -1 else 1)
      if k = 0 then (nan32, FNAN) else if 0 < k then (inf32, 0) else (0, 0)
    | 2 =>
      let k := signOf (hK g)
      if k = 0 then (nan32, FNAN) else if 0 < k then (inf32, 0) else (ninf32, 0)
    | _ => (0, 0)
  | .fin neg m e =>
    if (hRred g = 1 ∨ hRred g = 2) ∧ (hK g).isFinite = false then openLookup g x else
    match hRred g with
    | 0 => seg g x
    | 1 =>
      let t := (FV.fin neg m e).mul (hK g)
      let n := nearestInt t
      let r := bits32 (unsignZero (t.sub (ofInt n 0)))
      let y := seg g r
      let z := enclose ((fp y.1).scale n)
      (z.1, y.2 ||| z.2)
    | 2 =>
      let p := logSplit m e
      let y := seg g (bits32 (p.2.sub (ofInt 1 0)))
      let z := enclose ((unsignZero ((ofInt p.1 0).mul (hK g))).add (fp y.1))
      (z.1, y.2 ||| z.2)
    | _ =>
      let p := powerSplit (1 + hW g) m e
      let y := seg g (bits32 p.2)
      let z := enclose ((fp y.1).scale (-p.1))
      (z.1, y.2 ||| z.2)
  | .nan => (nan32, 0)

def endValue (g : Img) (mode : Nat) (x : Bits32) : W Bits32 :=
  match mode with
  | 0 => (hSatlo g, 0)
  | 1 => (hSathi g, 0)
  | 2 => (x, 0)
  | _ => core g x

def negBits (x : Bits32) : Bits32 := x ^^^ 0x80000000

/-- The bounds of XLO and XHI, then the core. -/
def bounded (g : Img) (x : Bits32) : W Bits32 :=
  if (fp x).lt (fp (hXlo g)) then endValue g (hLomode g) x
  else if !((fp x).lt (fp (hXhi g))) then endValue g (hHimode g) x
  else core g x

def flipIf (b : Bool) (p : W Bits32) : W Bits32 := if b then (negBits p.1, p.2) else p

/-- lookup(x) on the bytes of an image (R204). `operand` says that x is an operand of the instruction, so that a NaN sets FNANIN.
DEDUCED: log entry 20. -/
def lookupImg (g : Img) (x : Bits32) (operand : Bool) : W Bits32 :=
  if isNan32 x then (nan32, if operand then FNANIN else 0) else
  let neg := x.getLsbD 31
  let rred := hRred g
  if rred = 2 ∨ rred = 3 then
    if (fp x).isZero then
      (match hZero g with
       | 0 => hSatlo g
       | 1 => hSathi g
       | _ => (hSathi g &&& 0x7FFFFFFF) ||| (x &&& 0x80000000), 0)
    else if neg then
      match hNeg g with
      | 0 => (nan32, FNAN)
      | 2 => (hSatlo g, 0)
      | _ => flipIf true (bounded g (negBits x))
    else bounded g x
  else if hOdd g && neg then flipIf true (bounded g (negBits x))
  else bounded g x

/-! ### Built-in images (R208, R256) -/

/-- a/b ≤ x, and x < a/b, for a finite decimal bound. -/
def atLeast (x : Bits32) (num : Int) (den : Nat) : Bool :=
  match fp x with
  | .inf n => !n
  | .fin n m e => !((FV.fin n (m * den) e).lt (ofInt num 0))
  | .nan => false

/-- A finite FP32 value that is ±2^k. -/
def powerOfTwo (x : Bits32) : Option Int :=
  match fp x with
  | .fin _ m e => if m != 0 && m == 2 ^ Nat.log2 m then some ((Nat.log2 m : Int) + e) else none
  | _ => none

def signed32 (neg : Bool) (x : Bits32) : Bits32 := if neg then x ||| 0x80000000 else x

/-- The results the table of a built-in image gives exactly: outside its domain, and at its exact points. -/
def builtinExact (i : Nat) (x : Bits32) : Option (W Bits32) :=
  let v := fp x
  let neg := x.getLsbD 31
  let bound (lo : Int) (lden : Nat) (hi : Int) (hden : Nat) (below above : Bits32) : Option (W Bits32) :=
    if !(atLeast x lo lden) then some (below, 0) else if atLeast x hi hden then some (above, 0) else none
  if v.isNan then none else
  match i with
  | 0 => if v.isZero then some (one32, 0) else bound (-10398) 100 8873 100 0 inf32
  | 1 =>
    match bound (-150) 1 128 1 0 inf32 with
    | some r => some r
    | none =>
      match v with
      | .fin n m e =>
        if (roundInt .rne m e).2 then none
        else some (enclose (.fin false 1 (if n then -((roundInt .rne m e).1 : Int) else ((roundInt .rne m e).1 : Int))))
      | _ => none
  | 2 =>
    if v.isZero then some (ninf32, 0) else if neg then some (nan32, FNAN)
    else if x = inf32 then some (inf32, 0) else if x = one32 then some (0, 0) else none
  | 3 =>
    if v.isZero then some (signed32 neg inf32, 0) else if !v.isFinite then some (signed32 neg 0, 0)
    else (powerOfTwo x).map (fun k => enclose (.fin neg 1 (-k)))
  | 4 =>
    if v.isZero then some (signed32 neg inf32, 0) else if neg then some (nan32, FNAN)
    else if x = inf32 then some (0, 0)
    else match powerOfTwo x with
      | some k => if k % 2 = 0 then some (enclose (.fin false 1 (-(k / 2)))) else none
      | none => none
  | 5 => if v.isZero then some (0x3F000000, 0) else bound (-16) 1 175 10 0 one32
  | 6 =>
    if v.isZero then some (x, 0)
    else if atLeast (x &&& 0x7FFFFFFF) 91 10 then some (signed32 neg one32, 0) else none
  | 7 => bound (-16) 1 20 1 0x80000000 x
  | 8 => bound (-8) 1 6 1 0x80000000 x
  | 9 => bound (-8) 1 6 1 0x80000000 x
  | 10 => bound (-16) 1 17 1 0 x
  | 16 => bound (-16) 1 175 10 0 0
  | 17 => if atLeast (x &&& 0x7FFFFFFF) 91 10 then some (0, 0) else none
  | 18 => bound (-16) 1 20 1 0x80000000 one32
  | 19 => bound (-8) 1 6 1 0x80000000 one32
  | 20 => bound (-8) 1 6 1 0x80000000 one32
  | 21 => if v.isZero then some (0x3F000000, 0) else bound (-16) 1 175 10 0 one32
  | 22 => some (if neg || v.isZero then 0 else one32, 0)
  | _ => none

/-- Bytes of a built-in image (R207, R256). -/
def builtinImg (i : Nat) : Img := fun o => builtinRead (0x2000 * i + o)

/-- A lookup in a built-in image: the exact results of R208 and R256, and inside the domain one that their bounds allow. -/
def lookupBuiltin (i : Nat) (x : Bits32) (operand : Bool) : W Bits32 :=
  if isNan32 x then (nan32, if operand then FNANIN else 0) else
  match builtinExact i x with
  | some r => r
  | none => builtinNear i x

/-- Images a LOAD accepts from the built-in region: those that are not reserved (R208, R256). -/
def builtinValid (i : Nat) : Bool := decide (i < 11) || (decide (16 ≤ i) && decide (i < 23))

/-! ### The active image of a slot (R210, R211) -/

def TabSlot.bank (t : TabSlot) (k : Nat) : Bank := if k = 0 then t.bank0 else t.bank1
def TabSlot.setBank (t : TabSlot) (k : Nat) (b : Bank) : TabSlot := if k = 0 then { t with bank0 := b } else { t with bank1 := b }

def Bank.empty : Bank := { state := .empty, src := none, loader := none, foul := false }
/-- A bank with the image of a completed LOAD. -/
def Bank.loaded (src : Option Nat) (loader : Option (Word64 × Nat × Nat)) : Bank := { state := .ready, src := src, loader := loader, foul := false }
def TabSlot.dflt : TabSlot := { active := 0, bank0 := .empty, bank1 := .empty }

/-- Bytes of a bank as the context reads them. -/
def bankImg (s : State) (cn : Nat) (c : Ctx) (slot bank : Nat) : Img := fun o =>
  match readByte s cn c (bankVa slot bank + o) with
  | .ok b => b
  | .error _ => 0

/-- A lookup through a slot with the bank that was active when the task was admitted (R211). One through a bank that was written by other
means than LOAD is unpredictable (R213). -/
def lookupSlot (s : State) (cn : Nat) (c : Ctx) (banks : List Nat) (slot : Nat) (x : Bits32) (operand : Bool) : W Bits32 :=
  let k := nth 0 banks slot
  if ((nth .dflt c.tabs slot).bank k).foul then
    (BitVec.ofNat 32 (Config.freeNat s.freeIx x.toNat), BitVec.ofNat 32 (Config.freeNat s.freeIx (2 ^ 32 + x.toNat)) &&& 0x3F)
  else match ((nth .dflt c.tabs slot).bank k).src with
  | some i => lookupBuiltin i x operand
  | none => lookupImg (bankImg s cn c slot k) x operand

/-- The checks of R206 on the bytes of an image. -/
def imageOk (g : Img) : Bool :=
  let rred := hRred g
  let pw := rred = 2 ∨ rred = 3
  hIvers g == 1 && field (hFlags g) 31 16 == 0 &&
    (!(hOdd g) || rred == 0) && hNeg g != 3 && (decide pw || hNeg g == 0) && hZero g != 3 && (decide pw || hZero g == 0) &&
    (rred == 3 || hW g == 0) && (hModes g >>> 4) == 0 && (rangeFrom 29 35).all (fun o => g o == 0) &&
    !(isNan32 (hKhi g)) && !(isNan32 (hKlo g)) && !(isNan32 (hSatlo g)) && !(isNan32 (hSathi g)) &&
    !(isNan32 (hXlo g)) && !(isNan32 (hXhi g)) && !((fp (hXhi g)).lt (fp (hXlo g))) &&
    (rangeFrom 0 512).all (fun i =>
      let e := mapEntry g i
      field e 15 14 == 0 && (mMode e != 0 || decide (mBase e + 2 ^ mNsb e ≤ 512)))

/-! ### Normalisation (R168, R220) -/

/-- A combined statistics record: n, a, s1, s2. -/
structure StatRec where
  n : Nat
  a : Bits32
  s1 : Bits32
  s2 : Bits32
deriving DecidableEq, Repr

def StatRec.zero : StatRec := { n := 0, a := 0, s1 := 0, s2 := 0 }

def StatRec.ofNat (x : Nat) : StatRec :=
  { n := field x 31 0, a := BitVec.ofNat 32 (field x 63 32), s1 := BitVec.ofNat 32 (field x 95 64),
    s2 := BitVec.ofNat 32 (field x 127 96) }

/-- A count as FP32 with RNE. -/
def natF (n : Nat) : Bits32 := BitVec.ofNat 32 (roundF .fp32 .rne (.fin false n 0)).1

/-- FNANIN of a record that is consumed (R453). -/
def StatRec.nanFlags (r : StatRec) : Flags := nanIn32 r.a ||| nanIn32 r.s1 ||| nanIn32 r.s2

/-- One step of the combination of R168. -/
def combine (p : W StatRec) (r : StatRec) : W StatRec :=
  let c := p.1
  if r.n = 0 then p
  else if c.n = 0 then (r, p.2 ||| r.nanFlags)
  else
    let d := fsub .rne r.a c.a
    let e := fmul .rne (natF r.n) d.1
    -- 2 · r.s1 is a rounded operation of its own
    let t := fmul .rne 0x40000000 r.s1
    let u := fadd .rne t.1 e.1
    let v := fmul .rne d.1 u.1
    let x := fadd .rne r.s2 v.1
    let y := fadd .rne c.s2 x.1
    let z := fadd .rne r.s1 e.1
    let q := fadd .rne c.s1 z.1
    ({ n := c.n + r.n, a := c.a, s1 := q.1, s2 := y.1 },
     p.2 ||| r.nanFlags ||| d.2 ||| e.2 ||| t.2 ||| u.2 ||| v.2 ||| x.2 ||| y.2 ||| z.2 ||| q.2)

def combineAll (l : List StatRec) : W StatRec := l.foldl combine (StatRec.zero, 0)

/-- The mean and the inverse deviation; `mean` selects the mean square of KIND 0x3 (R220). -/
def meanRho (rms : Bool) (eps : Bits32) (r : StatRec) : W (Bits32 × Bits32) :=
  if r.n = 0 then ((0, 0), 0) else
  let q := lookupBuiltin 3 (natF r.n) false
  let dl := fmul .rne r.s1 q.1
  let mu := fadd .rne r.a dl.1
  let m2 := fmul .rne r.s2 q.1
  let (v, fl) : Bits32 × Flags :=
    if rms then
      let t := fmul .rne 0x40000000 dl.1
      let u := fadd .rne r.a t.1
      let w := fmul .rne r.a u.1
      let z := fadd .rne m2.1 w.1
      (z.1, t.2 ||| u.2 ||| w.2 ||| z.2)
    else
      let w := fmul .rne dl.1 dl.1
      let z := fsub .rne m2.1 w.1
      (z.1, w.2 ||| z.2)
  let v := if isNan32 v then v else if v.getLsbD 31 then 0 else v
  let t := fadd .rne v eps
  let rho := lookupBuiltin 4 t.1 false
  ((mu.1, rho.1), q.2 ||| dl.2 ||| mu.2 ||| m2.2 ||| fl ||| t.2 ||| rho.2 ||| nanIn32 eps)

end Sys2Proof.Machine
end

