-- ==== Sys2Proof/Machine/Tab.lean ====
section
/-!
DEFINITION. The TAB class: LOOKUP and LOAD (R84, R201, R206, R211).
-/

namespace Sys2Proof.Machine

def tbTD (w : InstrWord) : Nat := InstrWordBits w 21 16
def tbTS (w : InstrWord) : Nat := InstrWordBits w 27 22
def tbSLOT (w : InstrWord) : Nat := InstrWordBits w 30 28
def tbRM (w : InstrWord) : Nat := InstrWordBits w 32 31
def tbMULEN (w : InstrWord) : Bool := bitAt w.toNat 33
def tbTS2 (w : InstrWord) : Nat := InstrWordBits w 39 34
def tbBANK (w : InstrWord) : Nat := InstrWordBits w 40 40

/-- The product of a lookup and its multiplier, formed exactly and rounded once into the destination (R84, R257). -/
def mulRound (f : Fmt) (rm : RM) (y x : Bits32) : Nat × Flags :=
  let v := (fp y).mul (fp x)
  let p := roundF f rm v
  (p.1, if v.isNan && !(isNan32 y) && !(isNan32 x) then p.2 ||| FNAN else p.2)

/-- One element of a LOOKUP: its write and flags. -/
def lookupElem (s : State) (cn : Nat) (c : Ctx) (r : Run) (w : InstrWord) (d t : TD) (t2 : Option TD) (ix : List Nat) :
    X ((Nat × Bytes) × Flags) :=
  match read32 s cn c t ix with
  | .error e => .error e
  | .ok x =>
    let y := lookupSlot s cn c r.banks (tbSLOT w) x.1 true
    let rm := RM.ofCode (tbRM w)
    match t2 with
    | none =>
      let p := narrow d.fmt rm y.1
      .ok (elemWrite d ix p.1, x.2 ||| y.2 ||| p.2)
    | some t2 =>
      match read32 s cn c t2 ix with
      | .error e => .error e
      | .ok m =>
        let p := mulRound d.fmt rm y.1 m.1
        .ok (elemWrite d ix p.1, x.2 ||| y.2 ||| m.2 ||| p.2)

/-- The write part of computed elements. -/
def itemWrites (l : List (X ((Nat × Bytes) × Flags))) : List WItem :=
  l.map (fun x => match x with
    | .ok p => .ok p.1
    | .error e => .error e)

/-- The flags of computed elements. -/
def itemFlags (l : List (X ((Nat × Bytes) × Flags))) : Flags :=
  orFlags (l.map (fun x => match x with
    | .ok p => p.2
    | .error _ => 0))

/-- LOOKUP; an empty source moves no data (R84, R89, R204). A source of another shape is read at TD's tuples. DESIGN CHOICE: log entry 103. -/
def execLookup (u : UnitId) (s : State) : Res :=
  issue s u clTAB 0x00 noCheck (fun s _ c r w =>
    tryX s (tslot r.T (tbTD w)) fun d =>
    tryX s (tslot r.T (tbTS w)) fun t =>
    tryX s (if tbMULEN w then (tslot r.T (tbTS2 w)).map some else .ok none) fun t2 =>
    check s (rmOk (tbRM w) d.fmt && d.cmp == 0) .illegalInstruction fun _ =>
    tryX s (useSource s r.ctx c t) fun _ =>
    tryX s (match t2 with
      | some t2 => useSource s r.ctx c t2
      | none => .ok ()) fun _ =>
    if t.count = 0 || (t2.map (fun x => x.count == 0)).getD false then .go s r else
    let items := (tuples d.exts).map (lookupElem s r.ctx c r w d t t2)
    finishWrites (runWrites s r.ctx d false (itemWrites items)) r.ctx (itemWrites items) (r.raise (itemFlags items)))

/-- The built-in image that lies at an address (R207). -/
def builtinAt (va : Nat) : Option Nat :=
  if tabLo ≤ va ∧ (va - tabLo) % 0x2000 = 0 then some ((va - tabLo) / 0x2000) else none

/-- A source descriptor that LOAD accepts (R201). -/
def loadSourceOk (t : TD) : Bool :=
  t.fmt == .uint8 && t.rank == 1 && nth 0 t.ext 0 == 7232 && nth 0 t.str 0 == 1 && t.cmp == 0

def setBankState (s : State) (cn slot bank : Nat) (b : Bank) : State :=
  s.modCtx cn (fun c => { c with tabs := setNth c.tabs slot ((nth .dflt c.tabs slot).setBank bank b) })

/-- The built-in image that a run of bytes is: by its address, or a copy. -/
def builtinOf (va : Nat) (bs : Bytes) : Option Nat :=
  match (builtinAt va).filter builtinValid with
  | some i => some i
  | none => ((rangeFrom 0 23).filter builtinValid).find? (fun i => bs == (rangeFrom 0 7232).map (builtinImg i))

/-- A task of the epoch follows one of a list in its graph. -/
def follows (s : State) (cn : Nat) (c : Ctx) (e : Epoch) (task : Nat) : Nat → List Nat → Bool
  | 0, _ => false
  | n + 1, l =>
    let next := dedup (l.flatMap (fun t =>
      match (NMap.get? e.tasks t).map (fun x => readSucc s cn c x.desc) with
      | some (.ok l) => l
      | _ => []))
    next.contains task || (!next.isEmpty && follows s cn c e task n next)

/-- The bank was LOADed in this attempt by a task that the one on the unit does not depend on (R213). -/
def loadRaces (s : State) (c : Ctx) (r : Run) (b : Bank) : Bool :=
  match b.loader, c.epoch with
  | some (ep, att, t), some e => ep == c.epochNo && att == r.att && t != r.task && !(follows s r.ctx c e r.task e.count [t])
  | _, _ => false

/-- LOAD: into the inactive bank; one that names the active bank writes nothing and sets the table-bank warning (R84, R206, R210). While a
shadow copy is under way the bank is LOADING and the LOAD goes on from its word (R123, R214). Two LOADs of an epoch without a dependence
leave an unpredictable image (R213). -/
def execLoad (u : UnitId) (s : State) : Res :=
  issue s u clTAB 0x01 noCheck (fun s _ c r w =>
    tryX s (tslot r.T (tbTS w)) fun t =>
    check s (loadSourceOk t) .illegalInstruction fun _ =>
    let slot := tbSLOT w
    let bank := tbBANK w
    if nth 0 r.banks slot = bank then .go s { r with tbw := true } else
    tryX s (readBytes s r.ctx c t.addr 7232) fun bs =>
    let img : Img := fun o => nth 0 bs o
    let src := builtinOf t.addr bs
    check s (imageOk img || src.isSome) .illegalInstruction fun _ =>
    let old := (nth .dflt c.tabs slot).bank bank
    let races := loadRaces s c r old
    let s1 := setBankState s r.ctx slot bank { old with state := .loading }
    let ws : List WItem := [.ok (bankVa slot bank, if races then (rangeFrom 0 7232).map (Config.freeByte s.freeIx) else bs)]
    match prepareAll s1 r.ctx ws with
    | .error f => .stop s1 f
    | .ok s2 =>
      if !(waitPages s2 r.ctx ws).isEmpty then .jump s2 r else
      match runBytes s2 r.ctx ws with
      | (s3, some f) => .stop s3 f
      | (s3, none) =>
        .go (setBankState (if races then s3.tick else s3) r.ctx slot bank
          (Bank.loaded (if races then none else src) (some (c.epochNo, r.att, r.task)))) r)

end Sys2Proof.Machine
end

