-- ==== Sys2Proof/Machine/Vec.lean ====
section
/-!
DEFINITION. The VEC class (R38, R45, R83, R198, R199, R219, R262, R455, R456).
-/

namespace Sys2Proof.Machine

def vTD (w : InstrWord) : Nat := InstrWordBits w 21 16
def vTS1 (w : InstrWord) : Nat := InstrWordBits w 27 22
def vTS2 (w : InstrWord) : Nat := InstrWordBits w 33 28
def vTS3 (w : InstrWord) : Nat := InstrWordBits w 39 34
def vRM (w : InstrWord) : Nat := InstrWordBits w 41 40
def vAXIS (w : InstrWord) : Nat := InstrWordBits w 44 42
def vSK (w : InstrWord) : Nat := InstrWordBits w 49 45
def vSKEN (w : InstrWord) : Bool := bitAt w.toNat 50
/-- Pooling extent minus one and stride minus one along dimension d, 1 to 3. -/
def vPEXT (w : InstrWord) (d : Nat) : Nat := InstrWordBits w (53 + 3 * (d - 1)) (51 + 3 * (d - 1))
def vPSTR (w : InstrWord) (d : Nat) : Nat := InstrWordBits w (62 + 3 * (d - 1)) (60 + 3 * (d - 1))

/-- A destination of a VEC operation: RNS only into FP8, never compressed (R51, R300). -/
def vecDest (T : List (Option (BitVec 512))) (slot rm : Nat) : X TD :=
  match tslot T slot with
  | .error e => .error e
  | .ok d => if rmOk rm d.fmt && d.cmp == 0 then .ok d else .error .illegalInstruction

def vecSource (s : State) (cn : Nat) (c : Ctx) (T : List (Option (BitVec 512))) (slot : Nat) : X TD :=
  match tslot T slot with
  | .error e => .error e
  | .ok t =>
    match useSource s cn c t with
    | .ok _ => .ok t
    | .error e => .error e

/-- The second stage of R455: an FP32 result into the destination format. -/
def vecStore (d : TD) (rm : Nat) (ix : List Nat) (y : W Bits32) : (Nat × Bytes) × Flags :=
  let p := narrow d.fmt (RM.ofCode rm) y.1
  (elemWrite d ix p.1, y.2 ||| p.2)

/-- Element-wise operations on up to three FP32 operands. -/
def vecOp (op : Nat) (rm : RM) (a b c : Bits32) : W Bits32 :=
  match op with
  | 0 => fadd rm.fp32 a b
  | 1 => fsub rm.fp32 a b
  | 2 => fmul rm.fp32 a b
  | 3 => ffma rm.fp32 a b c
  | 4 => (fmin a b, 0)
  | 5 => (fmax a b, 0)
  | 6 => (if isNan32 a then nan32 else a &&& 0x7FFFFFFF, 0)
  | _ => (if isNan32 a then nan32 else negBits a, 0)

/-- Operands an operation reads beside TS1: the second for ADD to MAX, the third for FMA. -/
def usesSecond (op : Nat) : Bool := decide (op ≤ 5)
def usesThird (op : Nat) : Bool := op == 3

/-- An optional operand at an index tuple: +0 when it is not read. -/
def readOpt (s : State) (cn : Nat) (c : Ctx) (t : Option TD) (ix : List Nat) : X (W Bits32) :=
  match t with
  | some t => read32 s cn c t ix
  | none => .ok (0, 0)

/-- One element of an element-wise operation. -/
def vecElem (s : State) (cn : Nat) (c : Ctx) (op rm : Nat) (d t1 : TD) (t2 : Option TD) (k : Option Bits32) (t3 : Option TD)
    (ix : List Nat) : X ((Nat × Bytes) × Flags) :=
  match read32 s cn c t1 ix, readOpt s cn c t2 ix, readOpt s cn c t3 ix with
  | .error e, _, _ => .error e
  | _, .error e, _ => .error e
  | _, _, .error e => .error e
  | .ok a, .ok b, .ok z =>
    let b : W Bits32 := match k with
      | some v => (v, nanIn32 v)
      | none => b
    let y := vecOp op (RM.ofCode rm) a.1 b.1 z.1
    .ok (vecStore d rm ix (y.1, a.2 ||| b.2 ||| z.2 ||| y.2))

/-- The element-wise operations ADD, SUB, MUL, FMA, MIN, MAX, ABS and NEG (R38, R456). -/
def vecElementwise (op : Nat) (u : UnitId) (s : State) : Res :=
  issue s u clVEC op noCheck (fun s _ c r w =>
    let sk := usesSecond op && vSKEN w
    tryX s (vecDest r.T (vTD w) (vRM w)) fun d =>
    tryX s (vecSource s r.ctx c r.T (vTS1 w)) fun t1 =>
    tryX s (if usesSecond op && !sk then (vecSource s r.ctx c r.T (vTS2 w)).map some else .ok none) fun t2 =>
    tryX s (if usesThird op then (vecSource s r.ctx c r.T (vTS3 w)).map some else .ok none) fun t3 =>
    check s (sameShape d t1 && (t2.map (sameShape d)).getD true && (t3.map (sameShape d)).getD true) .illegalInstruction fun _ =>
    let k : Option Bits32 := if sk then some (sreg32 r.S (vSK w)) else none
    let items := (tuples d.exts).map (vecElem s r.ctx c op (vRM w) d t1 t2 k t3)
    finishWrites (runWrites s r.ctx d false (itemWrites items)) r.ctx (itemWrites items) (r.raise (itemFlags items)))

def execVecAdd (u : UnitId) (s : State) : Res := vecElementwise 0x00 u s
def execVecSub (u : UnitId) (s : State) : Res := vecElementwise 0x01 u s
def execVecMul (u : UnitId) (s : State) : Res := vecElementwise 0x02 u s
def execVecFma (u : UnitId) (s : State) : Res := vecElementwise 0x03 u s
def execVecMin (u : UnitId) (s : State) : Res := vecElementwise 0x04 u s
def execVecMax (u : UnitId) (s : State) : Res := vecElementwise 0x05 u s
def execVecAbs (u : UnitId) (s : State) : Res := vecElementwise 0x06 u s
def execVecNeg (u : UnitId) (s : State) : Res := vecElementwise 0x07 u s

/-! ### Reductions along AXIS (R45, R199, R219, R456) -/

/-- AXIS 6 and 7 are refused whatever the predicate (R66, R456). -/
def axisOk (_ : UnitKind) (w : InstrWord) : Bool := decide (vAXIS w ≤ 5)

/-- TS1's rank and extents, except for an extent of 1 along AXIS (R456). -/
def reducedShape (axis : Nat) (d t : TD) : Bool :=
  d.rank == t.rank && (rangeFrom 0 t.rank).all (fun i => nth 0 d.ext i == (if i = axis then 1 else nth 0 t.ext i))

/-- The line of the source that an output element reduces. -/
def readLine (s : State) (cn : Nat) (c : Ctx) (t : TD) (axis : Nat) (ix : List Nat) : X (List (W Bits32)) :=
  mapE (fun k => read32 s cn c t (setNth ix axis k)) (rangeFrom 0 (t.extD axis))

/-- a ranks strictly below b in the order of R199. -/
def rankLt (a b : Bits32) : Bool :=
  if isNan32 b then !(isNan32 a) else if isNan32 a then false else (fp a).lt (fp b)

/-- Index and value of the winner of a list, indexes counted from i; ties go to the lowest (R199). DEDUCED: log entry 20. -/
def argWin : Nat → List Bits32 → Option (Nat × Bits32)
  | _, [] => none
  | i, x :: r =>
    match argWin (i + 1) r with
    | none => some (i, x)
    | some (j, y) => if rankLt x y then some (j, y) else some (i, x)

/-- Minimum or maximum over a list that is not empty (R38). -/
def foldExt (f : Bits32 → Bits32 → Bits32) : List Bits32 → Bits32
  | [] => 0
  | x :: r => r.foldl f (if isNan32 x then nan32 else x)

/-- d = rne(x - a) and q = rne(d · d) of a line, each summed in the order of R45 (R219). -/
def statsLine (l : List Bits32) : W (Bits32 × Bits32) :=
  let a := nth 0 l 0
  let d := gatherW (l.map (fun x => fsub .rne x a))
  let q := gatherW (d.1.map (fun x => fmul .rne x x))
  let s1 := sum45 d.1
  let s2 := sum45 q.1
  ((s1.1, s2.1), d.2 ||| q.2 ||| s1.2 ||| s2.2)

/-- What a reduction writes for one line, as FP32 values or an index: TD and, for STATS, TS3. -/
def reduceLine (op : Nat) (l : List (W Bits32)) : W (Bits32 × Bits32) :=
  let xs := l.map (·.1)
  let fl := orFlags (l.map (·.2))
  match op with
  | 0x10 => let p := sum45 xs; ((p.1, 0), fl ||| p.2)
  | 0x11 => ((foldExt fmax xs, 0), fl)
  | 0x12 => ((foldExt fmin xs, 0), fl)
  | 0x13 => let p := statsLine xs; (p.1, fl ||| p.2)
  | _ => ((BitVec.ofNat 32 (((argWin 0 xs).map (·.1)).getD 0), 0), fl)

/-- One output of a reduction. DEDUCED: log entry 20. -/
def reduceElem (s : State) (cn : Nat) (c : Ctx) (op rm axis : Nat) (d t : TD) (second : Bool) (ix : List Nat) :
    X ((Nat × Bytes) × Flags) :=
  match readLine s cn c t axis ix with
  | .error e => .error e
  | .ok l =>
    let p := reduceLine op l
    if op = 0x14 then .ok (elemWrite d ix p.1.1.toNat, p.2)
    else .ok (vecStore d rm ix (if second then p.1.2 else p.1.1, p.2))

/-- RSUM, RMAX, RMIN, STATS and ARGMAX. An empty source moves no data (R89, R199). -/
def vecReduce (op : Nat) (u : UnitId) (s : State) : Res :=
  issue s u clVEC op axisOk (fun s _ c r w =>
    let axis := vAXIS w
    tryX s (vecDest r.T (vTD w) (vRM w)) fun d =>
    tryX s (vecSource s r.ctx c r.T (vTS1 w)) fun t =>
    tryX s (if op = 0x13 then (vecDest r.T (vTS3 w) (vRM w)).map some else .ok none) fun d3 =>
    check s (reducedShape axis d t && (d3.map (fun x => reducedShape axis x t && x.fmt == .fp32)).getD true &&
      (op != 0x13 || d.fmt == .fp32) && (op != 0x14 || d.fmt == .int32)) .illegalInstruction fun _ =>
    if t.count = 0 then .go s r else
    let one := (tuples d.exts).map (reduceElem s r.ctx c op (vRM w) axis d t false)
    let two := match d3 with
      | some d3 => (tuples d3.exts).map (reduceElem s r.ctx c op (vRM w) axis d3 t true)
      | none => []
    let ws := itemWrites one ++ (match d3 with
      | some d3 => destItems s d3 (itemWrites two)
      | none => [])
    finishWrites (runWrites s r.ctx d false ws) r.ctx ws (r.raise (itemFlags (one ++ two))))

def execRsum (u : UnitId) (s : State) : Res := vecReduce 0x10 u s
def execRmax (u : UnitId) (s : State) : Res := vecReduce 0x11 u s
def execRmin (u : UnitId) (s : State) : Res := vecReduce 0x12 u s
def execVecStats (u : UnitId) (s : State) : Res := vecReduce 0x13 u s
def execVecArgmax (u : UnitId) (s : State) : Res := vecReduce 0x14 u s

/-! ### Pooling (R198) -/

/-- Input positions of a window along one dimension. -/
def poolSpan (w : InstrWord) (t : TD) (d o : Nat) : List Nat :=
  ((rangeFrom 0 (vPEXT w d + 1)).map (fun u => o * (vPSTR w d + 1) + u)).filter (fun p => decide (p < t.extD d))

/-- Included index tuples of a window, dimension 1 fastest; a dimension TD lacks counts as one of extent 1. -/
def poolTuples (w : InstrWord) (t : TD) (ix : List Nat) : List (List Nat) :=
  let at' (d : Nat) : Nat := nth 0 ix d
  (poolSpan w t 3 (at' 3)).flatMap (fun p3 => (poolSpan w t 2 (at' 2)).flatMap (fun p2 =>
    (poolSpan w t 1 (at' 1)).map (fun p1 => setNth (setNth (setNth (ix ++ List.replicate (6 - ix.length) 0) 1 p1) 2 p2) 3 p3)))

/-- Agreement in dimension 0 and in every dimension above 3. -/
def poolShape (d t : TD) : Bool := [0, 4, 5].all (fun i => d.extD i == t.extD i)

/-- The value of a window; the mean's product is rounded as any product of the class (R38, R455), its sum as R45 gives. -/
def poolValue (op : Nat) (rm : RM) (l : List Bits32) : W Bits32 :=
  if l.isEmpty then (0, 0)
  else if op = 0x18 then (foldExt fmax l, 0)
  else
    let p := sum45 l
    let q := fmul rm.fp32 p.1 (ratio32 1 l.length)
    (q.1, p.2 ||| q.2)

def poolElem (s : State) (cn : Nat) (c : Ctx) (op : Nat) (w : InstrWord) (d t : TD) (ix : List Nat) :
    X ((Nat × Bytes) × Flags) :=
  match mapE (fun p => read32 s cn c t p) (poolTuples w t ix) with
  | .error e => .error e
  | .ok l =>
    let p := poolValue op (RM.ofCode (vRM w)) (l.map (·.1))
    .ok (vecStore d (vRM w) ix (p.1, orFlags (l.map (·.2)) ||| p.2))

/-- MAXPOOL and AVGPOOL over dimensions 1 to 3. An empty source moves no data (R89). -/
def vecPool (op : Nat) (u : UnitId) (s : State) : Res :=
  issue s u clVEC op noCheck (fun s _ c r w =>
    tryX s (vecDest r.T (vTD w) (vRM w)) fun d =>
    tryX s (vecSource s r.ctx c r.T (vTS1 w)) fun t =>
    check s (poolShape d t) .illegalInstruction fun _ =>
    if t.count = 0 then .go s r else
    let items := (tuples d.exts).map (poolElem s r.ctx c op w d t)
    finishWrites (runWrites s r.ctx d false (itemWrites items)) r.ctx (itemWrites items) (r.raise (itemFlags items)))

def execMaxpool (u : UnitId) (s : State) : Res := vecPool 0x18 u s
def execAvgpool (u : UnitId) (s : State) : Res := vecPool 0x19 u s

/-! ### RAND (R262) -/

/-- One round of Philox-4×32 on (c0, c1, c2, c3) under the key (k0, k1). -/
def philoxRound (k0 k1 : Bits32) (x : Bits32 × Bits32 × Bits32 × Bits32) : Bits32 × Bits32 × Bits32 × Bits32 :=
  let p0 := 0xD2511F53 * x.1.toNat
  let p1 := 0xCD9E8D57 * x.2.2.1.toNat
  let hi (p : Nat) : Bits32 := BitVec.ofNat 32 (p / 2 ^ 32)
  (hi p1 ^^^ x.2.1 ^^^ k0, BitVec.ofNat 32 p1, hi p0 ^^^ x.2.2.2 ^^^ k1, BitVec.ofNat 32 p0)

/-- n rounds, the key advancing after each. -/
def philoxRounds : Nat → Bits32 → Bits32 → Bits32 × Bits32 × Bits32 × Bits32 → Bits32 × Bits32 × Bits32 × Bits32
  | 0, _, _, x => x
  | n + 1, k0, k1, x => philoxRounds n (k0 + 0x9E3779B9) (k1 + 0xBB67AE85) (philoxRound k0 k1 x)

/-- Output word 0 for the element e. -/
def randWord (seed : Word64) (step : Bits32) (e : Nat) : Bits32 :=
  (philoxRounds 10 (seed.setWidth 32) ((seed >>> 32).setWidth 32)
    (BitVec.ofNat 32 e, BitVec.ofNat 32 (e / 2 ^ 32), step, 0)).1

/-- Linear index of an element, independent of strides, modulo 2^64. -/
def linearIndex : List Nat → List Nat → Nat
  | e :: es, i :: is => i + e * linearIndex es is
  | _, _ => 0

/-- The bits RAND writes for a word; none for a format it does not take. -/
def randBits (f : Fmt) (rm : RM) (u : Bits32) : Option Nat :=
  match f with
  | .fp32 => some (roundF .fp32 .rne (.fin false (u.toNat / 256) (-24))).1
  | .bf16 => some (roundF .bf16 rm (.fin false (u.toNat / 256) (-24))).1
  | .fp16 => some (roundF .fp16 rm (.fin false (u.toNat / 256) (-24))).1
  | .int32 => some u.toNat
  | .uint8 => some (u.toNat / 2 ^ 24)
  | _ => none

def execRand (u : UnitId) (s : State) : Res :=
  issue s u clVEC 0x20 noCheck (fun s _ _ r w =>
    tryX s (vecDest r.T (vTD w) (vRM w)) fun d =>
    check s (randBits d.fmt .rne 0).isSome .illegalInstruction fun _ =>
    let ws : List WItem := (tuples d.exts).map (fun ix =>
      let word := randWord (sreg r.S (vSK w)) (BitVec.ofNat 32 (tStep r.desc)) (linearIndex d.exts ix % 2 ^ 64)
      .ok (elemWrite d ix ((randBits d.fmt (RM.ofCode (vRM w)) word).getD 0)))
    finishWrites (runWrites s r.ctx d false ws) r.ctx ws r)

end Sys2Proof.Machine
end

