-- ==== Sys2Proof/Machine/Chains.lean ====
section
/-!
DEFINITION. Prologues and epilogue chains: the checks at issue, the element transforms, statistics and argmax records, block quantisation, pushes (R155 to R175, R465).
-/

namespace Sys2Proof.Machine

/-! ### Prologues (R172, R173) -/

/-- An element as the array receives it: format, stored bits, scale exponent, flags raised on the way. -/
structure Operand where
  fmt : Fmt
  bits : Nat
  exp : Int
  flags : Flags
deriving DecidableEq, Repr

/-- Channel and row of an operand element. -/
structure Pos where
  chan : Nat
  row : Nat
deriving DecidableEq, Repr

def qKindOk (q : BitVec 512) : Bool := decide (1 ≤ qKind q) && decide (qKind q ≤ 4)
def qFmt (q : BitVec 512) : Fmt := (Fmt.ofCode (qOfmt q)).getD .fp32

/-- The checks of R173 and R209 on a prologue record; the pairing under R39 is checked by the instruction. -/
def prologueCheck (s : State) (cn : Nat) (c : Ctx) (k : UnitKind) (S : List Word64) (T : List (Option (BitVec 512))) (q : BitVec 512) :
    X Unit :=
  let fmtOk := match Fmt.ofCode (qOfmt q) with
    | some f => f.isNarrowFloat && rmOk (qRm q) f
    | none => false
  if !(qKindOk q && fmtOk && (qKind q == 1 || qScnt q != 0) && (!(qAda q) || sreg S (qRps q) != 0) &&
      !(k == .pipeline && (qKind q == 1 || qPact q))) then .error .illegalInstruction else
  let slots := (if qAff q then [qTg q, qTbt q] else []) ++ (if qAda q then [qTas q, qTah q] else [])
  match mapE (vecSource s cn c T) slots with
  | .ok _ => .ok ()
  | .error e => .error e

/-- Virtual address of a statistics record: A[SAX] + 16 × (S[SOF] + b × S[SBS] + v × SRS + j) (R166, R173). DEDUCED: log entry 88. -/
def statAddr (A : List Nat) (S : List Word64) (sax sof sbs srs b v j : Nat) : Nat :=
  wrap 48 ((areg A sax : Int) + 16 * (sregInt S sof + (b : Int) * sregInt S sbs + (v : Int) * srs + j))

/-- Mean and inverse deviation of the row or group an element belongs to. -/
def prologueStats (s : State) (cn : Nat) (c : Ctx) (A : List Nat) (S : List Word64) (q : BitVec 512) (b : Nat) (p : Pos) :
    X (W (Bits32 × Bits32)) :=
  if qKind q = 1 then .ok ((0, 0), 0) else
  let v := if qKind q = 4 then p.chan >>> qGlog q else p.row
  match mapE (fun j => readNat s cn c (statAddr A S (qSax q) (qSof q) (qSbs q) (qSrs q) b v j) 16) (rangeFrom 0 (qScnt q)) with
  | .error e => .error e
  | .ok l =>
    let r := combineAll (l.map StatRec.ofNat)
    let m := meanRho (qKind q == 3) (qEps q) r.1
    .ok (m.1, r.2 ||| m.2)

/-- A slot's element as FP32; a descriptor already checked at issue. -/
def slotElem (s : State) (cn : Nat) (c : Ctx) (T : List (Option (BitVec 512))) (slot : Nat) (ix : List Nat) : X (W Bits32) :=
  match tslot T slot with
  | .error e => .error e
  | .ok t => read32 s cn c t ix

/-- The sample index of a row (R173). -/
def sampleIndex (S : List Word64) (q : BitVec 512) (b : Nat) (p : Pos) : Int :=
  Int.fdiv ((sreg S (qRow q) + BitVec.ofNat 64 b * sreg S (qRbs q) + BitVec.ofNat 64 p.row).toInt) (sregInt S (qRps q))

/-- Adaptive scale or shift at a channel and a sample: +0.0 outside the tensor. -/
def adaptive (s : State) (cn : Nat) (c : Ctx) (T : List (Option (BitVec 512))) (slot : Nat) (limit : Nat) (chan : Nat) (smp : Int) :
    X (W Bits32) :=
  if smp < 0 ∨ (limit : Int) ≤ smp then .ok (0, 0) else slotElem s cn c T slot [chan, smp.toNat]

def slotExt1 (T : List (Option (BitVec 512))) (slot : Nat) : Nat :=
  match tslot T slot with
  | .ok t => t.extD 1
  | .error _ => 0

/-- The affine and adaptive steps. -/
def prologueScale (s : State) (cn : Nat) (c : Ctx) (S : List Word64) (T : List (Option (BitVec 512))) (q : BitVec 512) (b : Nat)
    (p : Pos) (y : W Bits32) : X (W Bits32) :=
  let y1 : X (W Bits32) :=
    if qAff q then
      match slotElem s cn c T (qTg q) [p.chan], slotElem s cn c T (qTbt q) [p.chan] with
      | .ok g, .ok h => let z := ffma .rne y.1 g.1 h.1; .ok (z.1, y.2 ||| g.2 ||| h.2 ||| z.2)
      | .error e, _ => .error e
      | _, .error e => .error e
    else .ok y
  match y1 with
  | .error e => .error e
  | .ok y =>
    if qAda q then
      let smp := sampleIndex S q b p
      -- an index outside either tensor gives a scale and a shift of +0.0
      let lim := min (slotExt1 T (qTas q)) (slotExt1 T (qTah q))
      match adaptive s cn c T (qTas q) lim p.chan smp, adaptive s cn c T (qTah q) lim p.chan smp with
      | .ok g, .ok h =>
        let t := fadd .rne one32 g.1
        let z := ffma .rne y.1 t.1 h.1
        .ok (z.1, y.2 ||| g.2 ||| h.2 ||| t.2 ||| z.2)
      | .error e, _ => .error e
      | _, .error e => .error e
    else .ok y

/-- The element an operand with a prologue delivers (R173). -/
def prologueElem (s : State) (cn : Nat) (c : Ctx) (banks : List Nat) (A : List Nat) (S : List Word64)
    (T : List (Option (BitVec 512))) (q : BitVec 512) (b : Nat) (p : Pos) (x : W Bits32) : X Operand :=
  match prologueStats s cn c A S q b p with
  | .error e => .error e
  | .ok st =>
    let y : W Bits32 :=
      if qKind q = 2 ∨ qKind q = 4 then
        let d := fsub .rne x.1 st.1.1
        let z := fmul .rne d.1 st.1.2
        (z.1, x.2 ||| st.2 ||| d.2 ||| z.2)
      else if qKind q = 3 then let z := fmul .rne x.1 st.1.2; (z.1, x.2 ||| st.2 ||| z.2)
      else x
    match prologueScale s cn c S T q b p y with
    | .error e => .error e
    | .ok y =>
      let y : W Bits32 :=
        if qKind q = 1 ∨ qPact q = true then
          let z := lookupSlot s cn c banks (qSlot q) y.1 false
          (z.1, y.2 ||| z.2)
        else y
      let z := narrow (qFmt q) (RM.ofCode (qRm q)) y.1
      .ok { fmt := qFmt q, bits := z.1, exp := 0, flags := y.2 ||| z.2 }

/-- An operand element, through its prologue when there is one. -/
def operandElem (s : State) (cn : Nat) (c : Ctx) (banks : List Nat) (A : List Nat) (S : List Word64)
    (T : List (Option (BitVec 512))) (q : Option (BitVec 512)) (b : Nat) (t : TD) (ix : List Nat) (p : Pos) : X Operand :=
  match readScaled s cn c t ix with
  | .error e => .error e
  | .ok (bits, k) =>
    match q with
    | none => .ok { fmt := t.fmt, bits := bits, exp := k, flags := nanFlag t.fmt bits }
    | some q => prologueElem s cn c banks A S T q b p (input32 t bits k)

/-- The token counters that hold a matrix instruction (R174). DEDUCED: log entry 24. -/
def prologueTokens (A : List Nat) (S : List Word64) (qs : List (BitVec 512)) : List (Nat × Word64) :=
  (qs.filter qTwen).map (fun q => (areg A (qTwax q) - areg A (qTwax q) % 8, sreg S (qTws q)))

/-- Every token counter of the list is at or below its threshold. -/
def tokensReached (s : State) (cn : Nat) (c : Ctx) (l : List (Nat × Word64)) : X Bool :=
  match mapE (fun p => match readNat s cn c p.1 8 with
    | .ok v => .ok ((BitVec.ofNat 64 v).sle p.2)
    | .error e => .error e) l with
  | .ok bs => .ok (bs.all (fun b => b))
  | .error e => .error e

/-! ### Stage parameters (R157) -/

def gp (g : Stage) (hi lo : Nat) : Nat := field g.param hi lo

/-! ### The checks of R159 -/

def isFloatStageFmt (f : Option Fmt) : Bool :=
  match f with
  | some f => !f.isInt
  | none => false

def isQuantFmt (f : Option Fmt) : Bool :=
  match f with
  | some .e4m3 => true
  | some .e5m2 => true
  | some .int8 => true
  | some .uint8 => true
  | _ => false

/-- One stage on its own: OPC, reserved fields, formats, PUSH destination, table stages in a pipeline (R159, R209). -/
def stageOk (k : UnitKind) (g : Stage) : Bool :=
  let f := Fmt.ofCode g.fmtCode
  decide (1 ≤ g.opc) && decide (g.opc ≤ 9) && g.param >>> g.paramWidth == 0 &&
    (g.isValue || (g.fmtCode == 0 && g.rm == 0)) &&
    (!(decide (1 ≤ g.opc) && decide (g.opc ≤ 4)) || (isFloatStageFmt f && rmOk g.rm g.fmt)) &&
    (g.opc != 5 || (isQuantFmt f && rmOk g.rm g.fmt)) &&
    (g.opc != 8 || (decide (gp g 4 0 ≤ 23) && (gp g 5 5 == 0 || decide (gp g 9 6 ≤ 7)))) &&
    !(k == .pipeline && g.opc == 4)

/-- After a QUANT stage only PUSH and COMPRESS may follow; COMPRESS is last (R159). -/
def orderOk : List Stage → Bool
  | [] => true
  | g :: r =>
    (g.opc != 5 || r.all (fun x => x.opc == 8 || x.opc == 9)) && (g.opc != 9 || r.isEmpty) && orderOk r

/-- Descriptor slots a stage reads, with its batch stride register. -/
def stageSlots (g : Stage) : List (Nat × Nat) :=
  if g.opc = 1 then [(gp g 5 0, gp g 10 6)]
  else if g.opc = 2 then [(gp g 5 0, gp g 10 6)]
  else if g.opc = 3 ∧ gp g 0 0 = 1 then [(gp g 11 6, gp g 16 12)]
  else []

/-- The tensors of a stage: slot, descriptor, formats, residual shape, batch stride (R159, R162). DEDUCED: log entry 23. -/
def stageTensorOk (s : State) (cn : Nat) (c : Ctx) (S : List Word64) (T : List (Option (BitVec 512))) (tc : TD) (bcnt : Nat) (g : Stage) :
    X Unit :=
  foldE (fun _ p =>
    match vecSource s cn c T p.1 with
    | .error e => .error e
    | .ok t =>
      need (!t.fmt.isInt && (g.opc != 2 || (rangeFrom 0 6).all (fun d => t.extD d == tc.extD d)) &&
        (bcnt == 0 || t.sblk != 1 || sregInt S p.2 % 32 == 0)) .illegalInstruction) () (stageSlots g)

def chainCheck (s : State) (cn : Nat) (c : Ctx) (k : UnitKind) (S : List Word64) (T : List (Option (BitVec 512))) (e : BitVec 512)
    (tc : TD) (bcnt : Nat) : X Unit :=
  let l := chStages e
  let quant := l.find? (fun g => g.opc == 5)
  let comp := l.any (fun g => g.opc == 9)
  if !(decide (1 ≤ chNst e) && decide (chNst e ≤ 8) && l.all (stageOk k) && orderOk l && rmOk (chRmw e) tc.fmt &&
      (comp == (tc.cmp != 0)) &&
      (match quant with
       | some g => g.fmtCode == tc.fmtCode && tc.sblk == 1
       | none => tc.sblk == 0)) then .error .illegalInstruction
  else foldE (fun _ g => stageTensorOk s cn c S T tc bcnt g) () l

/-! ### One tile through the chain (R158, R161, R165 to R171) -/

/-- A value of the tile: column, row, index in C, current value widened to FP32. -/
structure CVal where
  col : Nat
  row : Nat
  ix : List Nat
  x : Bits32
deriving DecidableEq, Repr

/-- What a tile leaves beside its values. -/
structure TileOut where
  flags : Flags
  recs : List WItem
  flights : List (List (Nat × Bytes) × Nat)
  amax : List (Nat × Bits32 × Fmt)
  tokens : List Nat
deriving Repr

def TileOut.empty : TileOut := { flags := 0, recs := [], flights := [], amax := [], tokens := [] }

/-- The chain's state between stages: values, their format, block codes of a QUANT stage by row and block. -/
structure ChainSt where
  vals : List CVal
  fmt : Fmt
  codes : List (Nat × Nat × Nat)
  out : TileOut
deriving Repr

/-- The tile a chain runs on. -/
structure Tile where
  b : Nat
  tc : TD
  nmax : Nat
  col0 : Nat
deriving DecidableEq, Repr

/-- Block number of a value along its row (R161): dimension 0 of C in blocks of 32. DEDUCED: log entry 27. -/
def blockOf (tc : TD) (ix : List Nat) : Nat :=
  nth 0 ix 0 / 32 + ceilDiv (tc.extD 0) 32 * (nth 0 ix 4 + tc.extD 4 * nth 0 ix 5)

/-- Replace every value by f, collecting flags. -/
def mapVals (st : ChainSt) (g : Stage) (f : CVal → X (W Bits32)) : X ChainSt :=
  match mapE (fun v => match f v with
    | .ok y =>
      let p := narrow g.fmt (RM.ofCode g.rm) y.1
      .ok ({ v with x := widen g.fmt p.1 }, y.2 ||| p.2)
    | .error e => .error e) st.vals with
  | .error e => .error e
  | .ok l => .ok { st with vals := l.map (·.1), fmt := g.fmt, out := { st.out with flags := st.out.flags ||| orFlags (l.map (·.2)) } }

/-- A stage's tensor, its base advanced for the batch iteration. -/
def stageTensor (T : List (Option (BitVec 512))) (S : List Word64) (slot sbs b : Nat) : X TD :=
  match tslot T slot with
  | .error e => .error e
  | .ok t => .ok (t.advance ((b : Int) * sregInt S sbs))

def stageBias (s : State) (cn : Nat) (c : Ctx) (sn : Snapshot) (t : Tile) (g : Stage) (st : ChainSt) : X ChainSt :=
  match stageTensor sn.T sn.S (gp g 5 0) (gp g 10 6) t.b with
  | .error e => .error e
  | .ok d => mapVals st g (fun v => match read32 s cn c d [v.col] with
    | .ok h => let y := vecOp 0 (RM.ofCode g.rm) v.x h.1 0; .ok (y.1, y.2 ||| h.2)
    | .error e => .error e)

def stageResid (s : State) (cn : Nat) (c : Ctx) (sn : Snapshot) (t : Tile) (g : Stage) (st : ChainSt) : X ChainSt :=
  match stageTensor sn.T sn.S (gp g 5 0) (gp g 10 6) t.b with
  | .error e => .error e
  | .ok d => mapVals st g (fun v => match read32 s cn c d v.ix with
    | .ok h => let y := vecOp 0 (RM.ofCode g.rm) v.x h.1 0; .ok (y.1, y.2 ||| h.2)
    | .error e => .error e)

def stageScale (s : State) (cn : Nat) (c : Ctx) (sn : Snapshot) (t : Tile) (g : Stage) (st : ChainSt) : X ChainSt :=
  if gp g 0 0 = 0 then
    let k := sreg32 sn.S (gp g 5 1)
    mapVals st g (fun v => let y := vecOp 2 (RM.ofCode g.rm) v.x k 0; .ok (y.1, y.2 ||| nanIn32 k))
  else
    match stageTensor sn.T sn.S (gp g 11 6) (gp g 16 12) t.b with
    | .error e => .error e
    | .ok d => mapVals st g (fun v => match read32 s cn c d [v.col] with
      | .ok h => let y := vecOp 2 (RM.ofCode g.rm) v.x h.1 0; .ok (y.1, y.2 ||| h.2)
      | .error e => .error e)

def stageAct (s : State) (cn : Nat) (c : Ctx) (banks : List Nat) (g : Stage) (st : ChainSt) : X ChainSt :=
  mapVals st g (fun v => .ok (lookupSlot s cn c banks (gp g 2 0) v.x false))

/-- The blocks of a tile: row, block number, its values. -/
def addBlock (tc : TD) (v : CVal) : List (Nat × Nat × List CVal) → List (Nat × Nat × List CVal)
  | [] => [(v.row, blockOf tc v.ix, [v])]
  | (m, j, l) :: r => if m == v.row && j == blockOf tc v.ix then (m, j, l ++ [v]) :: r else (m, j, l) :: addBlock tc v r

def blocksOfTile (tc : TD) (l : List CVal) : List (Nat × Nat × List CVal) := l.foldl (fun acc v => addBlock tc v acc) []

/-- QUANT: a code per block, the values scaled and rounded once, the codes written, the amax gathered (R161). -/
def stageQuant (t : Tile) (g : Stage) (st : ChainSt) : X ChainSt :=
  let bl := blocksOfTile t.tc st.vals
  let codes := bl.map (fun p =>
    let a := amaxOf (p.2.2.map (·.x))
    (p.1, p.2.1, scaleCode a g.fmt (gp g 2 0), amaxFlag a, ((p.2.2.head?).map (·.ix)).getD []))
  let codeFor (v : CVal) : Nat :=
    ((codes.find? (fun q => q.1 == v.row && q.2.1 == blockOf t.tc v.ix)).map (fun q => q.2.2.1)).getD 127
  let l := st.vals.map (fun v =>
    let p := roundF g.fmt (RM.ofCode g.rm) ((fp v.x).scale (127 - (codeFor v : Int)))
    ({ v with x := widen g.fmt p.1 }, p.2))
  let a := amaxOf (st.vals.map (·.x))
  let amen := bitAt g.param 3
  .ok { vals := l.map (·.1), fmt := g.fmt, codes := codes.map (fun q => (q.1, q.2.1, q.2.2.1)),
        out := { st.out with
          flags := st.out.flags ||| orFlags (l.map (·.2)) ||| orFlags (codes.map (fun q => q.2.2.2.1)) ||| (if amen then amaxFlag a else 0),
          recs := st.out.recs ++ codes.map (fun q => .ok (t.tc.codeAddr q.2.2.2.2, toBytes 1 q.2.2.1)),
          amax := if amen && !st.vals.isEmpty then st.out.amax ++ [(gp g 15 4, a, g.fmt)] else st.out.amax } }

/-- Bytes of a statistics record (R164). -/
def recordBytes (n : Nat) (a s1 s2 : Bits32) : Bytes :=
  toBytes 4 n ++ toBytes 4 a.toNat ++ toBytes 4 s1.toNat ++ toBytes 4 s2.toNat

/-- Differences from the shift and their squares of one row's columns, masked columns +0.0. -/
def rowDiffs (a : Bits32) (cols : List Nat) (l : List CVal) : W (List Bits32 × List Bits32) :=
  let ps := cols.map (fun n => match l.find? (fun v => v.col == n) with
    | some v =>
      let d := fsub .rne v.x a
      let q := fmul .rne d.1 d.1
      ((d.1, q.1), d.2 ||| q.2)
    | none => ((0, 0), 0))
  ((ps.map (fun p => p.1.1), ps.map (fun p => p.1.2)), orFlags (ps.map (·.2)))

def statShift (g : Stage) (l : List CVal) : Bits32 := if bitAt g.param 4 then 0 else ((l.head?).map (·.x)).getD 0

/-- Row mode: the record of one row. -/
def rowRecord (g : Stage) (t : Tile) (l : List CVal) : W Bytes :=
  let a := statShift g l
  let d := rowDiffs a (rangeFrom t.col0 128) l
  let s1 := sum45 d.1.1
  let s2 := sum45 d.1.2
  (recordBytes l.length a s1.1 s2.1, d.2 ||| s1.2 ||| s2.2)

/-- Group mode: rows in ascending order, each row's group summed in the order of R45. -/
def groupRecord (g : Stage) (cols : List Nat) (rows : List Nat) (l : List CVal) : W Bytes :=
  let a := statShift g l
  let p := rows.foldl (fun (acc : W (Bits32 × Bits32)) m =>
    let d := rowDiffs a cols (l.filter (fun v => v.row == m))
    let r1 := sum45 d.1.1
    let r2 := sum45 d.1.2
    let s1 := fadd .rne acc.1.1 r1.1
    let s2 := fadd .rne acc.1.2 r2.1
    ((s1.1, s2.1), acc.2 ||| d.2 ||| r1.2 ||| r2.2 ||| s1.2 ||| s2.2)) ((0, 0), 0)
  if l.isEmpty then (recordBytes 0 0 0 0, 0) else (recordBytes l.length a p.1.1 p.1.2, p.2)

def rowsOf (l : List CVal) : List Nat := l.foldl (fun acc v => insertNat v.row acc) []

/-- STATS (R165, R166, R465): values come in ascending row, then ascending column.
DEDUCED: log entry 24. DEDUCED: log entry 88. DEDUCED: log entry 89. -/
def stageStats (sn : Snapshot) (t : Tile) (g : Stage) (st : ChainSt) : X ChainSt :=
  let addr (v : Nat) : Nat := statAddr sn.A sn.S (gp g 8 5) (gp g 13 9) (gp g 18 14) (gp g 30 19) t.b v 0
  let rows := rowsOf st.vals
  let recs : List (Nat × W Bytes) :=
    if gp g 0 0 = 0 then
      rows.map (fun m => (addr m, rowRecord g t (st.vals.filter (fun v => v.row == m))))
    else
      let w := 2 ^ gp g 3 1
      (rangeFrom 0 (ceilDiv t.nmax w)).map (fun u =>
        let cols := rangeFrom (t.col0 + u * w) w
        (addr u, groupRecord g cols rows (st.vals.filter (fun v => decide (t.col0 + u * w ≤ v.col) && decide (v.col < t.col0 + (u + 1) * w)))))
  let ten := bitAt g.param 35
  .ok { st with out := { st.out with
    flags := st.out.flags ||| orFlags (recs.map (fun p => p.2.2)),
    recs := st.out.recs ++ recs.map (fun p => .ok (p.1, p.2.1)),
    tokens := if ten then st.out.tokens ++ [areg sn.A (gp g 34 31) - areg sn.A (gp g 34 31) % 8] else st.out.tokens } }

/-- The better of a stored argmax record and a new winner (R169, R199). -/
def betterRecord (old new : Bits32 × Bits32) : Bits32 × Bits32 :=
  if rankLt old.1 new.1 then new else if rankLt new.1 old.1 then old
  else if new.2.slt old.2 then new else old

/-- ARGMAX (R169). DEDUCED: log entry 20. -/
def stageArgmax (s : State) (cn : Nat) (c : Ctx) (sn : Snapshot) (t : Tile) (g : Stage) (st : ChainSt) : X ChainSt :=
  let addr (m : Nat) : Nat :=
    wrap 48 ((areg sn.A (gp g 3 0) : Int) + 8 * (sregInt sn.S (gp g 8 4) + (t.b : Int) * sregInt sn.S (gp g 13 9) + m))
  let chan (n : Nat) : Bits32 := (sreg sn.S (gp g 18 14)).setWidth 32 + BitVec.ofNat 32 (t.b * gp g 35 20 + n)
  match mapE (fun m =>
    let l := st.vals.filter (fun v => v.row == m)
    match argWin 0 (l.map (·.x)) with
    | none => .error CFault.illegalInstruction
    | some (i, x) =>
      let new := (x, chan (((l[i]?).map (·.col)).getD 0))
      if bitAt g.param 19 then
        match readNat s cn c (addr m) 8 with
        | .error e => .error e
        | .ok o =>
          let old : Bits32 × Bits32 := (BitVec.ofNat 32 o, BitVec.ofNat 32 (o / 2 ^ 32))
          let best := betterRecord old new
          .ok ((addr m, toBytes 4 best.1.toNat ++ toBytes 4 best.2.toNat), nanIn32 old.1)
      else .ok ((addr m, toBytes 4 new.1.toNat ++ toBytes 4 new.2.toNat), 0)) (rowsOf st.vals) with
  | .error e => .error e
  | .ok l =>
    .ok { st with out := { st.out with flags := st.out.flags ||| orFlags (l.map (·.2)), recs := st.out.recs ++ l.map (fun p => .ok p.1) } }

/-- Window offset of a logical unit (R264, R280). -/
def unitWindow (die knd un : Nat) : Nat := die * 0x100000000 + (if knd = 0 then un * 0x800000 else 0x8000000 + un * 0x200000)

/-- Where a byte range of a destination window lies, when all of it lies in the context's share (R87, R170). -/
def windowRange (cn : Nat) (c : Ctx) (die knd un : Nat) (off : Int) (n : Nat) : X Nat :=
  let share := if knd = 0 then shareCluster c else sharePipe c
  if off < 0 ∨ (share : Int) < off + n then .error .partition
  else .ok (winKey cn (unitWindow die knd un + off.toNat))

/-- PUSH: the tile in the format of the preceding stage, and its block codes after a QUANT (R170). -/
def stagePush (cn : Nat) (c : Ctx) (sn : Snapshot) (t : Tile) (g : Stage) (st : ChainSt) : X ChainSt :=
  let base : Int := sregInt sn.S (gp g 14 10) + (t.b : Int) * sregInt sn.S (gp g 19 15)
  let drs := gp g 40 25
  let range (off : Int) (n : Nat) : X Nat := windowRange cn c (gp g 4 0) (gp g 5 5) (gp g 9 6) off n
  let data := mapE (fun v =>
    match range (base + (v.row : Int) * drs + (v.col : Int) * st.fmt.size) st.fmt.size with
    | .ok a => .ok (a, toBytes st.fmt.size (narrow st.fmt .rne v.x).1)
    | .error e => .error e) st.vals
  let codes := mapE (fun (q : Nat × Nat × Nat) =>
    match range (base + 128 * drs + 4 * q.1 + q.2.1) 1 with
    | .ok a => .ok (a, toBytes 1 q.2.2)
    | .error e => .error e) st.codes
  let tok := sregInt sn.S (gp g 24 20)
  match data, codes, range (tok - tok % 8) 8 with
  | .ok d, .ok k, .ok a => .ok { st with out := { st.out with flights := st.out.flights ++ [(d ++ k, a)] } }
  | .error e, _, _ => .error e
  | _, .error e, _ => .error e
  | _, _, .error e => .error e

def runStage (s : State) (cn : Nat) (c : Ctx) (banks : List Nat) (sn : Snapshot) (t : Tile) (st : ChainSt) (g : Stage) : X ChainSt :=
  match g.opc with
  | 1 => stageBias s cn c sn t g st
  | 2 => stageResid s cn c sn t g st
  | 3 => stageScale s cn c sn t g st
  | 4 => stageAct s cn c banks g st
  | 5 => stageQuant t g st
  | 6 => stageStats sn t g st
  | 7 => stageArgmax s cn c sn t g st
  | 8 => stagePush cn c sn t g st
  | _ => .ok st

/-- A tile without a chain: the plane rounded to TC.FMT with RNE (R79); an INT32 sum converts as it stands (R158). -/
def plainTile (t : Tile) (isInt : Bool) (l : List (CVal × Bits32)) : TileOut × List WItem :=
  let ps := l.map (fun p =>
    let r := roundF t.tc.fmt .rne (if isInt then decodeF .int32 p.2.toNat else fp p.2)
    (elemWrite t.tc p.1.ix r.1, r.2))
  ({ TileOut.empty with flags := orFlags (ps.map (·.2)) }, ps.map (fun p => .ok p.1))

/-- A tile through a chain: what it leaves and the writes of C. -/
def chainTile (s : State) (cn : Nat) (c : Ctx) (banks : List Nat) (sn : Snapshot) (e : BitVec 512) (t : Tile) (isInt : Bool)
    (l : List (CVal × Bits32)) : X (TileOut × List WItem) :=
  let vals := l.map (fun p => { p.1 with x := if isInt then widen .int32 p.2.toNat else p.2 })
  match foldE (runStage s cn c banks sn t) { vals := vals, fmt := .fp32, codes := [], out := .empty } (chStages e) with
  | .error e => .error e
  | .ok st =>
    let ps := st.vals.map (fun v =>
      let r := narrow t.tc.fmt (RM.ofCode (chRmw e)) v.x
      (elemWrite t.tc v.ix r.1, r.2))
    .ok ({ st.out with flags := st.out.flags ||| orFlags (ps.map (·.2)) }, ps.map (fun p => .ok p.1))

end Sys2Proof.Machine
end

