-- ==== Sys2Proof/Machine/Move.lean ====
section
/-!
DEFINITION. The MOVE class: COPY, FILL, HOSTRD, HOSTWR, GATHER and the completion of a transfer (R78, R458, R96).
-/

namespace Sys2Proof.Machine

def mTD (w : InstrWord) : Nat := InstrWordBits w 21 16
def mTS (w : InstrWord) : Nat := InstrWordBits w 27 22
def mTI (w : InstrWord) : Nat := InstrWordBits w 33 28
def mHWIN (w : InstrWord) : Nat := InstrWordBits w 37 34
def mKEY (w : InstrWord) : Bool := bitAt w.toNat 38
def mSK (w : InstrWord) : Nat := InstrWordBits w 43 39

/-- The checks a transfer makes when it issues: descriptors of both sides and their agreement (R78). A compressed layout of the host's side
resolves its index here and is read as plain bytes. DESIGN CHOICE: log entry 103. -/
def moveChecks (s : State) (cn : Nat) (c : Ctx) (T : List (Option (BitVec 512))) (w : InstrWord) : X Unit :=
  match wOp w with
  | 1 =>
    match tslot T (mTD w) with
    | .ok d => useSource s cn c d
    | .error e => .error e
  | op =>
    match tslot T (mTD w), tslot T (mTS w) with
    | .error e, _ => .error e
    | _, .error e => .error e
    | .ok d, .ok t =>
      if op = 3 && d.cmp != 0 then .error .illegalInstruction else
      match useSource s cn c d, useSource s cn c t with
      | .error e, _ => .error e
      | _, .error e => .error e
      | .ok _, .ok _ =>
        if d.fmt != t.fmt then .error .illegalInstruction
        else if op = 4 then
          match tslot T (mTI w) with
          | .error e => .error e
          | .ok i =>
            match useSource s cn c i with
            | .error e => .error e
            | .ok _ => need (sameShapeBut 1 d t && i.fmt == .int32 && i.count == d.extD 1) .illegalInstruction
        else need (sameShape d t) .illegalInstruction

/-- Issue of a transfer: its snapshot joins the MOVE group. -/
def issueMove (op : Nat) (u : UnitId) (s : State) : Res :=
  issue s u clMOVE op noCheck (fun s _ c r w =>
    tryX s (moveChecks s r.ctx c r.T w) fun _ => .go s { r with moves := r.moves ++ [snapshot r w] })

def execCopy (u : UnitId) (s : State) : Res := issueMove 0x00 u s
def execFill (u : UnitId) (s : State) : Res := issueMove 0x01 u s
def execHostrd (u : UnitId) (s : State) : Res := issueMove 0x02 u s
def execHostwr (u : UnitId) (s : State) : Res := issueMove 0x03 u s
def execGather (u : UnitId) (s : State) : Res := issueMove 0x04 u s

/-! ### What a transfer moves -/

/-- Pair an element's write with the bits computed for it. -/
def writeOf (d : TD) (ix : List Nat) (b : X Nat) : WItem :=
  match b with
  | .ok b => .ok (elemWrite d ix b)
  | .error e => .error e

def copyItems (s : State) (cn : Nat) (c : Ctx) (d t : TD) : List WItem :=
  (tuples d.exts).map (fun ix => writeOf d ix (readElem s cn c t ix))

def fillItems (d : TD) (v : Word64) : List WItem := (tuples d.exts).map (fun ix => .ok (elemWrite d ix v.toNat))

/-- GATHER: slice j of TD is the slice of TS that entry j of the list names, zeros outside it (R78, R458). -/
def gatherItems (s : State) (cn : Nat) (c : Ctx) (d t i : TD) : List WItem :=
  let ixs := (tuples i.exts).map (readElem s cn c i)
  (tuples d.exts).map (fun ix =>
    let j := if d.rank ≤ 1 then 0 else nth 0 ix 1
    match nth (.error .partition) ixs j with
    | .error e => .error e
    | .ok b =>
      let v := signed 32 b
      if v < 0 ∨ (t.extD 1 : Int) ≤ v then .ok (elemWrite d ix 0)
      else writeOf d ix (readElem s cn c t (setNth ix 1 v.toNat)))

/-- The window a host-side element lies in: its byte offset, when every byte lies in the registered length (R78). -/
def hostElem (w : Option Window) (t : TD) (ix : List Nat) : X (Window × Nat) :=
  match w with
  | none => .error .partition
  | some w => if t.elemAddr ix + t.fmt.size ≤ w.len then .ok (w, t.elemAddr ix) else .error .partition

/-- HOSTRD: the bytes the host returns, element by element in index order. DEDUCED: log entry 22. -/
def hostrdItems (k : Nat) (win : Option Window) (d t : TD) (data : Bytes) : List WItem :=
  ((tuples d.exts).zip (rangeFrom 0 d.count)).map (fun p =>
    match hostElem win t p.1 with
    | .error e => .error e
    | .ok _ => .ok (elemWrite d p.1 (ofBytes (takeFree (k + p.2) t.fmt.size (data.drop (p.2 * t.fmt.size))))))

/-- HOSTWR: host address and bytes of each element. DEDUCED: log entry 22. -/
def hostwrItems (s : State) (cn : Nat) (c : Ctx) (win : Option Window) (d t : TD) : List (X (Window × Nat × Bytes)) :=
  (tuples d.exts).map (fun ix =>
    match hostElem win d ix, readElem s cn c t ix with
    | .ok (w, o), .ok b => .ok (w, w.va + o, toBytes d.fmt.size b)
    | .error e, _ => .error e
    | _, .error e => .error e)

/-- A layout that maps two elements to one host address leaves the host's bytes unpredictable (R97). DESIGN CHOICE: log entry 14. -/
def freeHostItems (s : State) (d : TD) (l : List (X (Window × Nat × Bytes))) : List (X (Window × Nat × Bytes)) :=
  if d.aliased then
    ((rangeFrom 0 l.length).zip l).map (fun p =>
      match p.2 with
      | .ok w => .ok (w.1, w.2.1, (rangeFrom (64 * p.1) w.2.2.length).map (Config.freeByte s.freeIx))
      | .error e => .error e)
  else l

/-! ### Completion -/

/-- Writes of an asynchronous instruction. While a shadow copy they need is under way the answer is none and only the shadows
have begun; else the writes happen and the fault, if any, is given. -/
def asyncWrites (s : State) (cn : Nat) (t : TD) (key : Bool) (ws : List WItem) : State × Option (Option CFault) :=
  let s1 := match (if t.cmp = 0 then prepareAll s cn ws else .ok s) with
    | .ok s1 => s1
    | .error _ => s
  if (waitPages s1 cn ws).isEmpty then
    let p := runWrites s1 cn t key ws
    (p.1, some p.2)
  else (s1, none)

/-- A task stops at a fault of one of its asynchronous instructions: ASTAT of the record names that instruction (R370). -/
def asyncFault (s : State) (u : UnitId) (r : Run) (f : CFault) (ix : Nat) : State := unitFault s u r f ix

/-- One element goes to its host window. -/
def sendElem (cn slot : Nat) (s : State) (w : Window × Nat × Bytes) : State := s.toHost slot (some cn) none (.hostWrite slot w.1.rkey w.2.1 w.2.2)

/-- Send the host writes up to the first fault; with a fault, which have gone out is unpredictable (R78, R96). -/
def emitHostWrites (s : State) (cn slot : Nat) (l : List (X (Window × Nat × Bytes))) : State × Option CFault :=
  match mapE (fun x => x) l with
  | .ok ws => (ws.foldl (sendElem cn slot) s, none)
  | .error e =>
    ((((rangeFrom 0 l.length).zip l).foldl (fun a p =>
      match p.2 with
      | .ok w => if Config.freeBool s.freeIx p.1 then sendElem cn slot a w else a
      | .error _ => a) s).tick, some e)

/-- Settle the writes of the oldest transfer. DESIGN CHOICE: log entry 15. -/
def settleMove (u : UnitId) (r : Run) (sn : Snapshot) (rest : List Snapshot) (p : State × Option (Option CFault)) : State :=
  match p.2 with
  | none => p.1
  | some none => p.1.setRun u { r with moves := rest }
  | some (some f) => asyncFault p.1 u r f sn.ix

/-- The change of custody of a transfer's data, with the protection it leaves: frames of a host read are checked by their CRC and FCS, a
host write leaves under the word code, and other data keeps the word code (R278). -/
def moveCustody (op : Nat) : Custody × Guard :=
  if op = 2 then (.ingress, .frame) else if op = 3 then (.egress, .word) else (.nearWrite, .word)

/-- A transfer whose data fails its check passes nothing on: frames of a host are sent again, other data is lost to the step (R278, R365). -/
def moveSpoilt (s : State) (u : UnitId) (r : Run) (op : Nat) : State := if op = 2 then s else stopChecked s u r

/-- The oldest MOVE instruction of the unit's task completes: its elements are moved, encoding and decoding on the way. `ok`: the check of
its data at the change of custody passes (R278). DESIGN CHOICE: log entry 12. DESIGN CHOICE: log entry 14. -/
def execMoveDone (u : UnitId) (hostData : Bytes) (ok : Bool) (s : State) : Res :=
  match s.run? u with
  | none => .next s
  | some r =>
    if r.phase = .held then .next s else
    match r.moves, s.ctx? r.ctx with
    | sn :: rest, some c =>
      let w := sn.word
      if !((moveCustody (wOp w)).1.passes (moveCustody (wOp w)).2 ok) then .next (moveSpoilt s u r (wOp w)) else
      match tslot sn.T (mTD w) with
      | .error f => .next (asyncFault s u r f sn.ix)
      | .ok d =>
        if wOp w = 1 then
          .next (settleMove u r sn rest (asyncWrites s r.ctx d (mKEY w) (fillItems d (sreg sn.S (mSK w)))))
        else
          match tslot sn.T (mTS w) with
          | .error f => .next (asyncFault s u r f sn.ix)
          | .ok t =>
            let win := hostWindow c (mHWIN w)
            let up := ((s.host? c.slot).map (·.reachable)).getD false
            if wOp w = 2 then
              if !up then .next s
              else .next (settleMove u r sn rest (asyncWrites s r.ctx d (mKEY w) (hostrdItems s.freeIx win d t hostData)))
            else if wOp w = 3 then
              if !up || hostPaused s c.slot then .next s else
              let p := emitHostWrites s r.ctx c.slot (freeHostItems s d (hostwrItems s r.ctx c win d t))
              .next (settleMove u r sn rest (p.1, some p.2))
            else if wOp w = 4 then
              match tslot sn.T (mTI w) with
              | .error f => .next (asyncFault s u r f sn.ix)
              | .ok i => .next (settleMove u r sn rest (asyncWrites s r.ctx d (mKEY w) (gatherItems s r.ctx c d t i)))
            else .next (settleMove u r sn rest (asyncWrites s r.ctx d (mKEY w) (copyItems s r.ctx c d t)))
    | _, _ => .next s

end Sys2Proof.Machine
end

