-- ==== Sys2Proof/Machine/Mma.lean ====
section
/-!
DEFINITION. The MMA class: the plan, groups and planes of MM, and the drains of MM and CONV (R39 to R49, R79, R80, R134 to R154, R174, R179).
-/

namespace Sys2Proof.Machine

def xTX (w : InstrWord) : Nat := InstrWordBits w 21 16
def xTW (w : InstrWord) : Nat := InstrWordBits w 27 22
def xTC (w : InstrWord) : Nat := InstrWordBits w 33 28
def xSHAPE (w : InstrWord) : Nat := InstrWordBits w 36 34
def xSTAT (w : InstrWord) : Nat := InstrWordBits w 38 37
def xPLANE (w : InstrWord) : Nat := InstrWordBits w 39 39
def xINIT (w : InstrWord) : Bool := bitAt w.toNat 40
def xDRAIN (w : InstrWord) : Bool := bitAt w.toNat 41
def xECH (w : InstrWord) : Nat := InstrWordBits w 44 42
def xEEN (w : InstrWord) : Bool := bitAt w.toNat 45
def xQX (w : InstrWord) : Nat := InstrWordBits w 47 46
def xQXEN (w : InstrWord) : Bool := bitAt w.toNat 48
def xQW (w : InstrWord) : Nat := InstrWordBits w 50 49
def xQWEN (w : InstrWord) : Bool := bitAt w.toNat 51
def xSPLIT3 (w : InstrWord) : Bool := bitAt w.toNat 52
def xSBX (w : InstrWord) : Nat := InstrWordBits w 57 53
def xSBW (w : InstrWord) : Nat := InstrWordBits w 62 58
def xSBC (w : InstrWord) : Nat := InstrWordBits w 67 63
def xBCNT (w : InstrWord) : Nat := InstrWordBits w 87 68

/-- Maximum M and N of a shape (R80). -/
def shapeMax (sh : Nat) : Nat × Nat :=
  match sh with
  | 0 => (128, 128) | 1 => (64, 128) | 2 => (32, 128) | 3 => (16, 128) | 4 => (128, 64) | 5 => (128, 32)
  | _ => (256, 128)

/-- SHAPE 0b111 and STAT 0b11 are reserved; 0b110 is, in a cluster task (R80). -/
def mmStatic (k : UnitKind) (w : InstrWord) : Bool :=
  xSHAPE w != 7 && (xSHAPE w != 6 || k == .pipeline) && xSTAT w != 3

/-! ### Reductions of one output element -/

/-- Value of an operand as a matrix product receives it. -/
def Operand.val (o : Operand) : FV := decodeF o.fmt o.bits

def Operand.int (o : Operand) : Int :=
  match o.fmt with
  | .int8 => signed 8 o.bits
  | _ => o.bits

/-- A floating-point reduction from an initial accumulator (R40, R41, R163). -/
def dotFloat (init : Bits32) (l : List (Operand × Operand)) : W Bits32 :=
  let ps := gatherW (l.map (fun p => product (p.1.exp + p.2.exp) p.1.val p.2.val))
  let y := reduce41 init ps.1
  (y.1, ps.2 ||| y.2)

/-- An integer reduction from the plane's bits (R46, R136). -/
def dotInt (init : Bits32) (l : List (Operand × Operand)) : W Bits32 :=
  let y := reduceInt l.length (init.toInt, 0) (l.map (fun p => p.1.int * p.2.int))
  (BitVec.ofInt 32 y.1, y.2)

/-- The three-pass split (R48, R49). -/
def dotSplit (init : Bits32) (l : List (Operand × Operand)) : W Bits32 :=
  reduceSplit3 init (l.map (fun p => some (BitVec.ofNat 32 p.1.bits, BitVec.ofNat 32 p.2.bits, p.1.exp + p.2.exp)))

/-- How an instruction reduces. -/
inductive Arith where
  | float | int | split
deriving DecidableEq, Repr

def dot (a : Arith) (init : Bits32) (l : List (Operand × Operand)) : W Bits32 :=
  match a with
  | .float => dotFloat init l
  | .int => dotInt init l
  | .split => dotSplit init l

/-! ### Pairing (R39) -/

/-- The format an operand delivers to the array: OFMT behind a prologue. -/
def delivered (t : TD) (q : Option (BitVec 512)) : Fmt :=
  match q with
  | some q => qFmt q
  | none => t.fmt

def isByteInt (f : Fmt) : Bool := f == .int8 || f == .uint8

/-- How a pair of operands reduces; none for a pairing that is not allowed (R39, R163). -/
def pairing (split3 : Bool) (x w : TD) (qx qw : Option (BitVec 512)) : Option Arith :=
  let fx := delivered x qx
  let fw := delivered w qw
  if split3 then (if fx == .fp32 && fw == .fp32 then some .split else none)
  else if fx.isNarrowFloat && fw.isNarrowFloat then some .float
  else if isByteInt fx && isByteInt fw then (if x.sblk = 0 ∧ w.sblk = 0 then some .int else some .float)
  else none

/-- A prologue slot when its enable bit is set. -/
def prologueSlot (Q : List (Option (BitVec 512))) (en : Bool) (i : Nat) : X (Option (BitVec 512)) :=
  if en then (chainSlot Q i).map some else .ok none

/-! ### Planes (R136, R141, R142) -/

/-- Key of a plane element: rows 128 to 255 of the paired shape lie in the second stage. DEDUCED: log entry 17. -/
def planeKey (plane row col : Nat) : Nat := (((row / 128) * 2 + plane) * 128 + row % 128) * 128 + col

def planeGet (p : NMap Bits32) (plane row col : Nat) : Bits32 := NMap.getD p (planeKey plane row col) 0

/-- An element that holds +0.0 is not listed. -/
def planeSet (p : NMap Bits32) (plane row col : Nat) (v : Bits32) : NMap Bits32 :=
  if v = 0 then NMap.erase p (planeKey plane row col) else NMap.set p (planeKey plane row col) v

/-- Batch iterations a group packs (R141). -/
def packCount (sh : Nat) (sbx sbw : Int) : Nat :=
  match sh with
  | 1 => if sbw = 0 then 2 else 1
  | 2 => if sbw = 0 then 4 else 1
  | 3 => if sbw = 0 then 8 else 1
  | 4 => if sbx = 0 then 2 else 1
  | 5 => if sbx = 0 then 4 else 1
  | _ => 1

/-- Where iteration i of a packed group keeps its rows and columns in the plane (R141). DEDUCED: log entry 17. -/
def packRow (sh i : Nat) : Nat := if 1 ≤ sh ∧ sh ≤ 3 then i * (shapeMax sh).1 else 0
/-- First column of iteration i of a packed group (R141). DEDUCED: log entry 17. -/
def packCol (sh i : Nat) : Nat := if sh = 4 ∨ sh = 5 then i * (shapeMax sh).2 else 0

/-! ### The checks of R80, R145, R159, R162, R173 -/

/-- A resolved MM: descriptors, prologues, chain and arithmetic. -/
structure MmPlan where
  x : TD
  w : TD
  tc : Option TD
  qx : Option (BitVec 512)
  qw : Option (BitVec 512)
  chain : Option (BitVec 512)
  arith : Arith
deriving DecidableEq, Repr

def flatBeyond1 (t : TD) : Bool := [2, 3, 4, 5].all (fun d => t.extD d == 1)

/-- A batch stride of a block-scaled operand keeps whole blocks (R162). DEDUCED: log entry 23. -/
def strideOk (bcnt : Nat) (t : TD) (k : Int) : Bool := bcnt == 0 || t.sblk != 1 || k % 32 == 0

def optCheck (s : State) (cn : Nat) (c : Ctx) (k : UnitKind) (S : List Word64) (T : List (Option (BitVec 512))) (q : Option (BitVec 512)) :
    X Unit :=
  match q with
  | none => .ok ()
  | some q => prologueCheck s cn c k S T q

def mmCheckC (s : State) (cn : Nat) (c : Ctx) (k : UnitKind) (r : Run) (w : InstrWord) (x y : TD) : X (Option TD × Option (BitVec 512)) :=
  if !(xDRAIN w) then .ok (none, none) else
  match vecSource s cn c r.T (xTC w) with
  | .error e => .error e
  | .ok tc =>
    if !(tc.extD 0 == y.extD 1 && tc.extD 1 == x.extD 1 && flatBeyond1 tc && strideOk (xBCNT w) tc (sregInt r.S (xSBC w))) then
      .error .illegalInstruction
    else if xEEN w then
      match chainSlot r.E (xECH w) with
      | .error e => .error e
      | .ok e =>
        match chainCheck s cn c k r.S r.T e tc (xBCNT w) with
        | .ok _ => .ok (some tc, some e)
        | .error e => .error e
    else if tc.cmp != 0 then .error .illegalInstruction else .ok (some tc, none)

def mmPlan (s : State) (cn : Nat) (c : Ctx) (k : UnitKind) (r : Run) (w : InstrWord) : X MmPlan :=
  match vecSource s cn c r.T (xTX w), vecSource s cn c r.T (xTW w), prologueSlot r.Q (xQXEN w) (xQX w), prologueSlot r.Q (xQWEN w) (xQW w) with
  | .error e, _, _, _ => .error e
  | _, .error e, _, _ => .error e
  | _, _, .error e, _ => .error e
  | _, _, _, .error e => .error e
  | .ok x, .ok y, .ok qx, .ok qw =>
    let (mm, nm) := shapeMax (xSHAPE w)
    match optCheck s cn c k r.S r.T qx, optCheck s cn c k r.S r.T qw with
    | .error e, _ => .error e
    | _, .error e => .error e
    | .ok _, .ok _ =>
      match pairing (xSPLIT3 w) x y qx qw with
      | none => .error .illegalInstruction
      | some a =>
        if !(x.extD 0 == y.extD 0 && decide (x.extD 1 ≤ mm) && decide (y.extD 1 ≤ nm) && flatBeyond1 x && flatBeyond1 y &&
            strideOk (xBCNT w) x (sregInt r.S (xSBX w)) && strideOk (xBCNT w) y (sregInt r.S (xSBW w)) &&
            (xBCNT w == 0 || (xDRAIN w && !(xINIT w)))) then .error .illegalInstruction
        else
          match mmCheckC s cn c k r w x y with
          | .error e => .error e
          | .ok (tc, ch) => .ok { x := x, w := y, tc := tc, qx := qx, qw := qw, chain := ch, arith := a }

/-! ### The outputs of one iteration -/

/-- Rows of an operand: element k of row i, through its prologue. -/
def operandRows (s : State) (cn : Nat) (c : Ctx) (r : Run) (q : Option (BitVec 512)) (b : Nat) (t : TD) : X (List (List Operand)) :=
  mapE (fun i => mapE (fun k => operandElem s cn c r.banks r.A r.S r.T q b t [k, i] { chan := k, row := i }) (rangeFrom 0 (t.extD 0)))
    (rangeFrom 0 (t.extD 1))

def rowFlags (l : List (List Operand)) : Flags := orFlags (l.map (fun r => orFlags (r.map (·.flags))))

/-- One output element: column n, row m, the new plane contents. -/
structure OutEl where
  b : Nat
  n : Nat
  m : Nat
  /-- row and column in the plane -/
  prow : Nat
  pcol : Nat
  v : Bits32
deriving DecidableEq, Repr

/-- FNANIN of a plane element that an INIT = 1 instruction consumes (R453). -/
def planeNan (a : Arith) (used : Bool) (v : Bits32) : Flags := if used && a != .int then nanIn32 v else 0

/-- All outputs of batch iteration b, which is number i of its group. -/
def iterOutputs (s : State) (cn : Nat) (c : Ctx) (r : Run) (w : InstrWord) (p : MmPlan) (plane b i : Nat) : X (List OutEl × Flags) :=
  let x := p.x.advance ((b : Int) * sregInt r.S (xSBX w))
  let y := p.w.advance ((b : Int) * sregInt r.S (xSBW w))
  if x.extD 1 = 0 ∨ y.extD 1 = 0 then .ok ([], 0) else
  match operandRows s cn c r p.qx b x, operandRows s cn c r p.qw b y with
  | .error e, _ => .error e
  | _, .error e => .error e
  | .ok xs, .ok ys =>
    let used := xINIT w && (x.extD 0 != 0 || xDRAIN w)
    let els := ((rangeFrom 0 xs.length).zip xs).flatMap (fun xr => ((rangeFrom 0 ys.length).zip ys).map (fun yr =>
      let prow := packRow (xSHAPE w) i + xr.1
      let pcol := packCol (xSHAPE w) i + yr.1
      let init := if xINIT w then planeGet r.planes plane prow pcol else 0
      let z := dot p.arith init (xr.2.zip yr.2)
      (({ b := b, n := yr.1, m := xr.1, prow := prow, pcol := pcol, v := z.1 } : OutEl), z.2 ||| planeNan p.arith used init)))
    .ok (els.map (·.1), rowFlags xs ||| rowFlags ys ||| orFlags (els.map (·.2)))

/-- Cut iterations 0 to n - 1 into groups of p. -/
def groupIters : Nat → Nat → Nat → List (List Nat)
  | 0, _, _ => []
  | fuel + 1, lo, p => rangeFrom lo p :: groupIters fuel (lo + p) p

/-- The groups of an instruction (R141): the last may hold fewer iterations. -/
def groupsOf (count p : Nat) : List (List Nat) :=
  ((groupIters (ceilDiv count p) 0 p).map (fun l => l.filter (fun b => decide (b < count))))

/-- Outputs of a group that are unpredictable: free values. DESIGN CHOICE: log entry 14. -/
def freeOutputs (s : State) (on : Bool) (g : Nat) (l : List OutEl) : List OutEl :=
  if on then
    ((rangeFrom 0 l.length).zip l).map (fun p => { p.2 with v := BitVec.ofNat 32 (Config.freeNat s.freeIx (g * 65536 + p.1)) })
  else l

/-- Plane contents and drains of an instruction as its groups run in ascending order (R144). -/
structure MmState where
  planes : NMap Bits32
  drains : List Drain
  flags : Flags
deriving DecidableEq, Repr

/-- C of an earlier iteration meets X or W of an iteration of the group (R147). DESIGN CHOICE: log entry 14. -/
def clobbered (r : Run) (w : InstrWord) (p : MmPlan) (g : List Nat) : Bool :=
  match p.tc with
  | none => false
  | some tc =>
    (rangeFrom 0 (g.headD 0)).any (fun e => g.any (fun b =>
      let t := tc.advance ((e : Int) * sregInt r.S (xSBC w))
      (p.x.advance ((b : Int) * sregInt r.S (xSBX w))).overlaps t || (p.w.advance ((b : Int) * sregInt r.S (xSBW w))).overlaps t))

def mmGroup (s : State) (cn : Nat) (c : Ctx) (r : Run) (w : InstrWord) (p : MmPlan) (sn : Snapshot) (ng : Nat) (st : MmState) (g : Nat × List Nat) :
    X MmState :=
  let plane := (xPLANE w + g.1) % 2
  match mapE (fun bi => iterOutputs s cn c r w p plane bi.2 bi.1) ((rangeFrom 0 g.2.length).zip g.2) with
  | .error e => .error e
  | .ok ll =>
    let els := freeOutputs s (clobbered r w p g.2) g.1 (ll.map (·.1)).flatten
    let planes := els.foldl (fun m e => planeSet m plane e.prow e.pcol e.v) st.planes
    let d : Drain :=
      { snap := sn, vals := els.map (fun e => (e.b, e.n, e.m, e.v)), iters := g.2, isInt := p.arith == .int,
        nmax := (shapeMax (xSHAPE w)).2, n := p.w.extD 1, m := p.x.extD 1, row0 := 0, col0 := 0, isWin := false, last := g.1 + 1 == ng }
    .ok { planes := planes, drains := if xDRAIN w then st.drains ++ [d] else st.drains, flags := st.flags ||| orFlags (ll.map (·.2)) }

/-- All groups of an MM in order. -/
def mmRun (s : State) (cn : Nat) (c : Ctx) (r : Run) (w : InstrWord) (p : MmPlan) (gs : List (List Nat)) : X MmState :=
  foldE (mmGroup s cn c r w p (snapshot r w) gs.length) { planes := r.planes, drains := [], flags := 0 } ((rangeFrom 0 gs.length).zip gs)

/-- The groups of an MM at issue. -/
def mmGroups (r : Run) (w : InstrWord) : List (List Nat) := groupsOf (xBCNT w + 1) (packCount (xSHAPE w) (sregInt r.S (xSBX w)) (sregInt r.S (xSBW w)))

/-- Hold a matrix instruction on its prologue tokens (R174): none when it may issue. -/
def heldByToken (s : State) (cn : Nat) (c : Ctx) (r : Run) (qs : List (Option (BitVec 512))) : X (Option (List (Nat × Word64))) :=
  let toks := prologueTokens r.A r.S (qs.filterMap (fun q => q))
  match tokensReached s cn c toks with
  | .error e => .error e
  | .ok b => .ok (if b then none else some toks)

/-- A matrix instruction held by tokens may issue again (R174). -/
def execPrologueTokenResume (u : UnitId) (s : State) : Res :=
  match s.run? u with
  | some r =>
    match r.phase, s.ctx? r.ctx with
    | .waitPrologue toks, some c =>
      match tokensReached s r.ctx c toks with
      | .ok true => .next (s.setRun u { r with phase := .running })
      | .ok false => .next s
      | .error f => .next (unitFault s u r f (pcIndex r))
    | _, _ => .next s
  | none => .next s

/-! ### Drains -/

/-- Index tuple of C for a column and a row: [n, m] in MMA, channels and positions in WIN (R183, R186). DEDUCED: log entry 27. -/
def cIndex (tc : TD) (isWin : Bool) (col row : Nat) : List Nat :=
  if isWin then
    [col % max 1 (tc.extD 0), row % max 1 (tc.extD 1), row / max 1 (tc.extD 1) % max 1 (tc.extD 2), row / (max 1 (tc.extD 1) * max 1 (tc.extD 2)),
      col / max 1 (tc.extD 0) % max 1 (tc.extD 4), col / (max 1 (tc.extD 0) * max 1 (tc.extD 4))]
  else [col, row]

/-- Chain slot of a drain, when its instruction names one. -/
def drainChain (d : Drain) : X (Option (BitVec 512)) :=
  let w := d.snap.word
  if d.isWin then (if bitAt w.toNat 107 then (chainSlot d.snap.E (InstrWordBits w 106 104)).map some else .ok none)
  else if xEEN w then (chainSlot d.snap.E (xECH w)).map some else .ok none

/-- Batch stride of C: none for WIN. -/
def drainStride (d : Drain) : Int := if d.isWin then 0 else sregInt d.snap.S (xSBC d.snap.word)

/-- The tile of iteration b of a drain. -/
def drainTile (d : Drain) (tc : TD) (b : Nat) : Tile :=
  { b := b, tc := tc.advance ((b : Int) * drainStride d), nmax := d.nmax, col0 := d.col0 }

/-- Values of iteration b, rows ascending and columns ascending within a row. -/
def drainVals (d : Drain) (tc : TD) (b : Nat) : List (CVal × Bits32) :=
  (d.vals.filter (fun v => v.1 == b)).map (fun v =>
    ({ col := v.2.1, row := v.2.2.1, ix := cIndex tc d.isWin v.2.1 v.2.2.1, x := 0 }, v.2.2.2))

/-- One iteration of a drain. -/
def drainIter (s : State) (cn : Nat) (c : Ctx) (banks : List Nat) (d : Drain) (tc : TD) (chain : Option (BitVec 512)) (b : Nat) :
    X (TileOut × List WItem) :=
  let t := drainTile d tc b
  match chain with
  | none => .ok (plainTile t d.isInt (drainVals d tc b))
  | some e => chainTile s cn c banks d.snap e t d.isInt (drainVals d tc b)

/-- Result of running the iterations of a drain: state, flags, pushes, amaxes, tokens, elements for assembly, all writes. -/
structure DrainRes where
  s : State
  flags : Flags
  flights : List (List (Nat × Bytes) × Nat)
  amax : List (Nat × Bits32 × Fmt)
  tokens : List Nat
  asm : List (Nat × Bytes)

def okItems (l : List WItem) : List (Nat × Bytes) :=
  l.filterMap (fun w => match w with
    | .ok p => some p
    | .error _ => none)

/-- One iteration's effects on the state: records, codes and an uncompressed C at once; a compressed C into assembly. The tokens are those
of the instruction's stages, one for each, however many iterations the group packs (R167). -/
def drainStep (cn : Nat) (banks : List Nat) (d : Drain) (tc : TD) (chain : Option (BitVec 512)) (a : DrainRes) (b : Nat) : X DrainRes :=
  match a.s.ctx? cn with
  | none => .error .partition
  | some c =>
    match drainIter a.s cn c banks d tc chain b with
    | .error e => .error e
    | .ok (o, cw) =>
      let cw := destItems a.s tc cw
      match doWrites a.s cn (o.recs ++ (if tc.cmp = 0 then cw else [])) with
      | .error e => .error e
      | .ok s =>
        .ok { s := s, flags := a.flags ||| o.flags, flights := a.flights ++ o.flights, amax := a.amax ++ o.amax,
              tokens := o.tokens, asm := if tc.cmp = 0 then a.asm else a.asm ++ okItems cw }

/-- Every plain write a drain makes, computed on the state before it: which pages need shadows. -/
def drainWrites (s : State) (cn : Nat) (c : Ctx) (banks : List Nat) (d : Drain) (tc : TD) (chain : Option (BitVec 512)) : X (List WItem) :=
  match mapE (fun b => drainIter s cn c banks d tc chain b) d.iters with
  | .error e => .error e
  | .ok l =>
    .ok (l.flatMap (fun p => p.1.recs ++ (if tc.cmp = 0 then p.2 else []) ++
      p.1.amax.map (fun a => .ok (scaleSlotVa a.1, toBytes 4 0)) ++ (if d.last then p.1.tokens.map (fun t => .ok (t, toBytes 8 0)) else [])))

/-- A token counter goes down by one (R87, R167). -/
def decToken (s : State) (cn va : Nat) : X State :=
  match s.ctx? cn with
  | none => .error .partition
  | some c =>
    match readNat s cn c va 8 with
    | .error e => .error e
    | .ok v => taskWrite s cn va (toBytes 8 (BitVec.ofNat 64 v - 1).toNat)

/-- COMPRESS.KEY of a chain (R171). -/
def chainKey (chain : Option (BitVec 512)) : Bool :=
  match chain with
  | none => false
  | some e => (chStages e).any (fun g => g.opc == 9 && bitAt g.param 0)

/-- Physical die that holds a window byte kept at a key (R116). -/
def windowDie (c : Ctx) (key : Nat) : Nat :=
  let off := key % 2 ^ 40
  let o := off % 0x100000000
  let un := if o < 0x8000000 then o / 0x800000 else 16 + (o - 0x8000000) / 0x200000
  (physUnit c (off / 0x100000000) un).1

def addFlights (s : State) (u : UnitId) (r : Run) (c : Ctx) (stage : Bool) (l : List (List (Nat × Bytes) × Nat)) : State :=
  { s with fabric := s.fabric ++ l.map (fun p =>
      { src := u.die, dst := windowDie c p.2, ctx := r.ctx, att := r.att, owner := u, stage := stage, writes := p.1, token := p.2 }) }

/-- The end of a drain: amaxes, compressed C and tokens with the last group, pushes into the fabric. DESIGN CHOICE: log entry 25. -/
def drainFinish (cn : Nat) (d : Drain) (tc : TD) (chain : Option (BitVec 512)) (asm : List (Nat × Bytes)) (a : DrainRes) : X State :=
  match foldE (fun s q => gatherAmax s cn q.1 q.2.1 q.2.2) a.s a.amax with
  | .error e => .error e
  | .ok s =>
    if !d.last then .ok s else
    let s1 : X State :=
      if tc.cmp = 0 then .ok s else
      match runWrites s cn tc (chainKey chain) ((asm ++ a.asm).map .ok) with
      | (s, none) => .ok s
      | (_, some e) => .error e
    match s1 with
    | .error e => .error e
    | .ok s => foldE (fun s t => decToken s cn t) s a.tokens

/-- Elements of C with free values: what a drain that faults part-way may have written (R96). DESIGN CHOICE: log entry 9. -/
def faultWrites (s : State) (d : Drain) (tc : TD) : List WItem :=
  ((rangeFrom 0 d.vals.length).zip d.vals).map (fun p =>
    .ok (elemWrite (drainTile d tc p.2.1).tc (cIndex tc d.isWin p.2.2.1 p.2.2.2.1) (Config.freeNat s.freeIx p.1)))

/-- Some of a list of writes to a destination have happened, which is open; of a compressed one, some of its units (R96).
DESIGN CHOICE: log entry 9. -/
def partWrites (s : State) (cn : Nat) (t : TD) (key : Bool) (ws : List WItem) : State :=
  if t.cmp = 0 then someWrites s cn ws else
  match s.ctx? cn with
  | none => s
  | some c =>
    match resolveIndex s cn c t with
    | .error _ => s
    | .ok x =>
      match unitWrites x (goodWrites x ws) with
      | .ok l => someUnits s cn t key l
      | .error _ => s

/-- A drain whose shadow copies are in place. -/
def drainRun (s : State) (u : UnitId) (r : Run) (rest : List Drain) (c : Ctx) (d : Drain) (tc : TD) (chain : Option (BitVec 512)) :
    Except CFault State :=
  match foldE (drainStep r.ctx r.banks d tc chain) { s := s, flags := 0, flights := [], amax := [], tokens := [], asm := [] } d.iters with
  | .error e => .error e
  | .ok a =>
    match drainFinish r.ctx d tc chain r.asm a with
    | .error e => .error e
    | .ok s =>
      let r' := { r with drains := rest, stagePushes := r.stagePushes + a.flights.length, asm := if d.last then [] else r.asm ++ a.asm }
      .ok (addFlights (s.setRun u (r'.raise a.flags)) u r c true a.flights)

/-- The oldest finished group of the unit's task drains to C (R144, R146). `mismatch`: a residue check fails, and nothing of the drain goes
further (R179, R365). DESIGN CHOICE: log entry 10. DESIGN CHOICE: log entry 14. -/
def execMmaDrain (u : UnitId) (mismatch : Bool) (s : State) : Res :=
  match s.run? u with
  | none => .next s
  | some r =>
    if r.phase = .held then .next s else
    match r.drains, s.ctx? r.ctx with
    | d :: rest, some c =>
      if mismatch then .next (stopChecked s u r) else
      match tslot d.snap.T (xTC d.snap.word), drainChain d with
      | .error f, _ => .next (asyncFault s u r f d.snap.ix)
      | _, .error f => .next (asyncFault s u r f d.snap.ix)
      | .ok tc, .ok chain =>
        let fault (f : CFault) : State :=
          asyncFault (partWrites s r.ctx tc (chainKey chain) (faultWrites s d tc)) u r f d.snap.ix
        match drainWrites s r.ctx c r.banks d tc chain with
        | .error f => .next (fault f)
        | .ok ws =>
          match prepareAll s r.ctx ws with
          | .error f => .next (fault f)
          | .ok s1 =>
            if !(waitPages s1 r.ctx ws).isEmpty then .next s1 else
            match drainRun s1 u r rest c d tc chain with
            | .error f => .next (fault f)
            | .ok s2 => .next (if tc.aliased then s2.tick else s2)
    | _, _ => .next s

end Sys2Proof.Machine
end

