-- ==== Sys2Proof/Machine/Win.lean ====
section
/-!
DEFINITION. The WIN class: the plan and the groups of CONV (R81, R82, R182 to R195, R200).
-/

namespace Sys2Proof.Machine

def nTX (w : InstrWord) : Nat := InstrWordBits w 21 16
def nTW (w : InstrWord) : Nat := InstrWordBits w 27 22
def nTC (w : InstrWord) : Nat := InstrWordBits w 33 28
def nWDIM (w : InstrWord) : Nat := InstrWordBits w 35 34
/-- Filter extent, stride and dilation along spatial dimension d, 1 to 3; one beyond WDIM (R81). -/
def nF (w : InstrWord) (d : Nat) : Nat := if d ≤ nWDIM w then InstrWordBits w (40 + 5 * (d - 1)) (36 + 5 * (d - 1)) + 1 else 1
def nSTR (w : InstrWord) (d : Nat) : Nat := InstrWordBits w (53 + 3 * (d - 1)) (51 + 3 * (d - 1)) + 1
def nDIL (w : InstrWord) (d : Nat) : Nat := InstrWordBits w (65 + 6 * (d - 1)) (60 + 6 * (d - 1)) + 1
def nPAD (w : InstrWord) : Nat := InstrWordBits w 79 78
def nSPV (w : InstrWord) : Nat := InstrWordBits w 84 80
def nTRANS (w : InstrWord) : Bool := bitAt w.toNat 85
def nDW (w : InstrWord) : Bool := bitAt w.toNat 86
def nGRP (w : InstrWord) : Nat := InstrWordBits w 98 87 + 1
def nSTAT (w : InstrWord) : Nat := InstrWordBits w 100 99
def nPLANE (w : InstrWord) : Nat := InstrWordBits w 101 101
def nINIT (w : InstrWord) : Bool := bitAt w.toNat 102
def nDRAIN (w : InstrWord) : Bool := bitAt w.toNat 103
def nECH (w : InstrWord) : Nat := InstrWordBits w 106 104
def nEEN (w : InstrWord) : Bool := bitAt w.toNat 107
def nQX (w : InstrWord) : Nat := InstrWordBits w 109 108
def nQXEN (w : InstrWord) : Bool := bitAt w.toNat 110

/-- WDIM 0b00 and STAT 0b11 are reserved (R80, R81). -/
def convStatic (_ : UnitKind) (w : InstrWord) : Bool := nWDIM w != 0 && nSTAT w != 3

/-- Channel count of X or C (R183). -/
def chanCount (t : TD) : Nat := t.extD 0 * t.extD 4 * t.extD 5

/-- Output positions of C. -/
def posCount (t : TD) : Nat := t.extD 1 * t.extD 2 * t.extD 3

/-- Index tuple of a channel and a position (R183). -/
def chanIndex (t : TD) (ch : Nat) (p : List Nat) : List Nat :=
  [ch % max 1 (t.extD 0), nth 0 p 0, nth 0 p 1, nth 0 p 2, ch / max 1 (t.extD 0) % max 1 (t.extD 4),
    ch / (max 1 (t.extD 0) * max 1 (t.extD 4))]

/-- Position tuple of a linear index, dimension 1 fastest (R186). -/
def posTuple (t : TD) (m : Nat) : List Nat :=
  [m % max 1 (t.extD 1), m / max 1 (t.extD 1) % max 1 (t.extD 2), m / (max 1 (t.extD 1) * max 1 (t.extD 2))]

/-! ### Taps (R185, R190, R193) -/

/-- Where a tap lands along one dimension. -/
inductive Coord where
  | data (p : Nat)
  | pad (p : Int)
  | masked
deriving DecidableEq, Repr

def padb (t : TD) (d : Nat) : Nat := nth 0 t.padb (d - 1)

/-- Coordinate of tap t at output o along dimension d. -/
def coord (w : InstrWord) (x : TD) (d o t : Nat) : Coord :=
  if nWDIM w < d then .data o
  else if nTRANS w then
    let num : Int := (o : Int) + padb x d - (t : Int) * nDIL w d
    if num < 0 ∨ num % (nSTR w d : Int) ≠ 0 ∨ (x.extD d : Int) ≤ num / (nSTR w d : Int) then .masked
    else .data (num / (nSTR w d : Int)).toNat
  else
    let p : Int := (o : Int) * nSTR w d + (t : Int) * nDIL w d - padb x d
    if p < 0 ∨ (x.extD d : Int) ≤ p then .pad p else .data p.toNat

/-- The mirror-periodic fold of R190. -/
def foldReflect (e : Nat) (p : Int) : Nat :=
  if e ≤ 1 then 0 else
  let q := (p % ((2 * (e - 1) : Nat) : Int)).toNat
  if q < e then q else 2 * (e - 1) - q

def clampTo (e : Nat) (p : Int) : Nat := if p < 0 then 0 else min p.toNat (e - 1)

/-- What a tap reads: a position of X, the constant, or a masked leaf. -/
inductive Tap where
  | at (p : List Nat)
  | const
  | masked
deriving DecidableEq, Repr

def tapOf (w : InstrWord) (x : TD) (o t : List Nat) : Tap :=
  let cs := [1, 2, 3].map (fun d => (d, coord w x d (nth 0 o (d - 1)) (nth 0 t (d - 1))))
  if cs.any (fun c => match c.2 with
    | .masked => true
    | _ => false) then .masked
  else if cs.all (fun c => match c.2 with
    | .data _ => true
    | _ => false) ∨ 2 ≤ nPAD w then
    .at (cs.map (fun c => match c.2 with
      | .data p => p
      | .pad p => if nPAD w = 2 then clampTo (x.extD c.1) p else foldReflect (x.extD c.1) p
      | .masked => 0))
  else if nPAD w = 1 then .const else .masked

/-! ### Passes (R186, R189) -/

/-- Blocks of at most 7 taps along a dimension: first tap and length. -/
def tapBlocks (f : Nat) : List (Nat × Nat) := (rangeFrom 0 (ceilDiv f 7)).map (fun b => (7 * b, min 7 (f - 7 * b)))

/-- The passes in order, each as its taps in the order of R186. -/
def passes (w : InstrWord) : List (List (List Nat)) :=
  (tapBlocks (nF w 3)).flatMap (fun b3 => (tapBlocks (nF w 2)).flatMap (fun b2 => (tapBlocks (nF w 1)).map (fun b1 =>
    (rangeFrom b3.1 b3.2).flatMap (fun t3 => (rangeFrom b2.1 b2.2).flatMap (fun t2 =>
      (rangeFrom b1.1 b1.2).map (fun t1 => [t1, t2, t3]))))))

/-! ### The checks of R184 -/

structure ConvPlan where
  x : TD
  w : TD
  tc : TD
  qx : Option (BitVec 512)
  arith : Arith
deriving DecidableEq, Repr

def isFactor (n : Nat) : Bool := n == 1 || n == 2 || n == 4 || n == 8

/-- Tiles of an extent in pieces of 128: first index and length. -/
def tiles128 (n : Nat) : List (Nat × Nat) := (rangeFrom 0 (ceilDiv n 128)).map (fun i => (128 * i, min 128 (n - 128 * i)))

/-- The groups of a CONV in order: channels, then positions (R187, R195). -/
def convGroups (w : InstrWord) (tc : TD) : List ((Nat × Nat) × (Nat × Nat)) :=
  let chans : List (Nat × Nat) :=
    if nDW w then tiles128 (chanCount tc)
    else
      let co := chanCount tc / nGRP w
      (rangeFrom 0 (nGRP w)).flatMap (fun γ => (tiles128 co).map (fun t => (γ * co + t.1, t.2)))
  chans.flatMap (fun ct => (tiles128 (posCount tc)).map (fun pt => (ct, pt)))

def convShapeOk (w : InstrWord) (x y tc : TD) : Bool :=
  let wd := nWDIM w
  (rangeFrom 1 wd).all (fun d => y.extD (d + 1) == nF w d) && (rangeFrom (wd + 2) (4 - wd)).all (fun d => y.extD d == 1) &&
    decide (y.rank ≤ wd + 2) && chanCount x == nGRP w * y.extD 0 && y.extD 1 == chanCount tc && y.extD 1 % nGRP w == 0 &&
    (rangeFrom (wd + 1) (3 - wd)).all (fun d => x.extD d == tc.extD d) &&
    isFactor (x.extD 4) && isFactor (x.extD 5) && isFactor (tc.extD 4) && isFactor (tc.extD 5) &&
    (!(nTRANS w) || nPAD w == 0) && (!(nDW w) || (y.extD 0 == 1 && chanCount tc == nGRP w)) &&
    (decide (nPAD w < 2) || tc.count == 0 || (rangeFrom 1 wd).all (fun d => x.extD d != 0))

def convPlan (s : State) (cn : Nat) (c : Ctx) (k : UnitKind) (r : Run) (w : InstrWord) (qx : Option (BitVec 512)) : X ConvPlan :=
  match vecSource s cn c r.T (nTX w), vecSource s cn c r.T (nTW w), vecSource s cn c r.T (nTC w) with
  | .error e, _, _ => .error e
  | _, .error e, _ => .error e
  | _, _, .error e => .error e
  | .ok x, .ok y, .ok tc =>
    match optCheck s cn c k r.S r.T qx with
    | .error e => .error e
    | .ok _ =>
      match pairing false x y qx none with
      | none => .error .illegalInstruction
      | some a =>
        -- the lanes of a depthwise CONV sum in FP32 whatever the operands are (R195)
        let a := if nDW w then Arith.float else a
        if !(convShapeOk w x y tc && (decide ((convGroups w tc).length ≤ 1) || (nDRAIN w && !(nINIT w)))) then .error .illegalInstruction
        else if !(nDRAIN w) then .ok { x := x, w := y, tc := tc, qx := qx, arith := a }
        else if nEEN w then
          match chainSlot r.E (nECH w) with
          | .error e => .error e
          | .ok e =>
            match chainCheck s cn c k r.S r.T e tc 0 with
            | .ok _ => .ok { x := x, w := y, tc := tc, qx := qx, arith := a }
            | .error e => .error e
        else if tc.cmp != 0 then .error .illegalInstruction
        else .ok { x := x, w := y, tc := tc, qx := qx, arith := a }

/-! ### One output -/

/-- The constant of a padding tap and the flags of its conversion (R190). -/
def padConst (p : ConvPlan) (r : Run) (w : InstrWord) : Operand :=
  let f := delivered p.x p.qx
  let z := convert .fp32 f .rne (sreg32 r.S (nSPV w)).toNat
  { fmt := f, bits := z.1, exp := 0, flags := z.2 }

/-- One leaf: none is a masked leaf. -/
def convLeaf (s : State) (cn : Nat) (c : Ctx) (r : Run) (w : InstrWord) (p : ConvPlan) (ch : Nat) (o t : List Nat) (c' : Nat) :
    X (Option (Operand × Operand)) :=
  let cg := p.w.extD 0
  let γ := if nDW w then ch else ch / (chanCount p.tc / nGRP w)
  let weight := operandElem s cn c r.banks r.A r.S r.T none 0 p.w ([c', ch] ++ t) { chan := c', row := ch }
  match tapOf w p.x o t with
  | .masked => .ok none
  | .const =>
    match weight with
    | .ok y => .ok (some ({ padConst p r w with flags := 0 }, y))
    | .error e => .error e
  | .at q =>
    let ix := chanIndex p.x (γ * cg + c') q
    let pos : Pos := { chan := nth 0 ix 0, row := nth 0 q 0 + p.x.extD 1 * (nth 0 q 1 + p.x.extD 2 * nth 0 q 2) }
    match operandElem s cn c r.banks r.A r.S r.T p.qx 0 p.x ix pos, weight with
    | .ok x, .ok y => .ok (some (x, y))
    | .error e, _ => .error e
    | _, .error e => .error e

/-- Reduction of one pass over its leaves, masked leaves contributing +0.0 (R41, R42, R46). -/
def dotLeaves (a : Arith) (init : Bits32) (l : List (Option (Operand × Operand))) : W Bits32 :=
  match a with
  | .int =>
    let y := reduceInt l.length (init.toInt, 0) (l.map (fun o => match o with
      | some p => p.1.int * p.2.int
      | none => 0))
    (BitVec.ofInt 32 y.1, y.2)
  | _ =>
    let ps := gatherW (l.map (fun o => match o with
      | some p => product (p.1.exp + p.2.exp) p.1.val p.2.val
      | none => (0, 0)))
    let y := reduce41 init ps.1
    (y.1, ps.2 ||| y.2)

def leafFlags (l : List (Option (Operand × Operand))) : Flags :=
  orFlags (l.map (fun o => match o with
    | some p => p.1.flags ||| p.2.flags
    | none => 0))

/-- One output element: its passes one after another (R189). -/
def convOutput (s : State) (cn : Nat) (c : Ctx) (r : Run) (w : InstrWord) (p : ConvPlan) (ch m : Nat) (init : Bits32) : X (W Bits32) :=
  let o := posTuple p.tc m
  foldE (fun (acc : W Bits32) taps =>
    match mapE (fun (tc : List Nat × Nat) => convLeaf s cn c r w p ch o tc.1 tc.2)
        (taps.flatMap (fun t => (rangeFrom 0 (p.w.extD 0)).map (fun c' => (t, c')))) with
    | .error e => .error e
    | .ok l =>
      let y := dotLeaves p.arith acc.1 l
      .ok (y.1, acc.2 ||| y.2 ||| leafFlags l)) (init, 0) (passes w)

/-- Outputs of one group: a channel tile and a position tile. -/
def convTile (s : State) (cn : Nat) (c : Ctx) (r : Run) (w : InstrWord) (p : ConvPlan) (plane : Nat) (g : (Nat × Nat) × (Nat × Nat)) :
    X (List OutEl × Flags) :=
  match mapE (fun (q : Nat × Nat) =>
    let init := if nINIT w then planeGet r.planes plane q.1 q.2 else 0
    match convOutput s cn c r w p (g.1.1 + q.2) (g.2.1 + q.1) init with
    | .error e => .error e
    | .ok y =>
      .ok (({ b := 0, n := g.1.1 + q.2, m := g.2.1 + q.1, prow := q.1, pcol := q.2, v := y.1 } : OutEl),
        y.2 ||| planeNan p.arith (nINIT w) init))
    ((rangeFrom 0 g.2.2).flatMap (fun i => (rangeFrom 0 g.1.2).map (fun j => (i, j)))) with
  | .error e => .error e
  | .ok l => .ok (l.map (·.1), orFlags (l.map (·.2)))

/-- C meets X or W (R200). DESIGN CHOICE: log entry 14. -/
def convClash (w : InstrWord) (p : ConvPlan) : Bool := nDRAIN w && (p.tc.overlaps p.x || p.tc.overlaps p.w)

def convGroup (s : State) (cn : Nat) (c : Ctx) (r : Run) (w : InstrWord) (p : ConvPlan) (sn : Snapshot) (ng : Nat) (st : MmState)
    (g : Nat × ((Nat × Nat) × (Nat × Nat))) : X MmState :=
  let plane := (nPLANE w + g.1) % 2
  match convTile s cn c r w p plane g.2 with
  | .error e => .error e
  | .ok (els, fl) =>
    let els := freeOutputs s (convClash w p) g.1 els
    let planes := els.foldl (fun m e => planeSet m plane e.prow e.pcol e.v) st.planes
    let d : Drain :=
      { snap := sn, vals := els.map (fun e => (e.b, e.n, e.m, e.v)), iters := [0], isInt := p.arith == .int, nmax := 128,
        n := chanCount p.tc, m := posCount p.tc, row0 := g.2.2.1, col0 := g.2.1.1, isWin := true, last := g.1 + 1 == ng }
    .ok { planes := planes, drains := if nDRAIN w then st.drains ++ [d] else st.drains, flags := st.flags ||| fl }

/-- All groups of a CONV in order. -/
def convRun (s : State) (cn : Nat) (c : Ctx) (r : Run) (w : InstrWord) (p : ConvPlan) : X MmState :=
  let gs := convGroups w p.tc
  foldE (convGroup s cn c r w p (snapshot r w) gs.length) { planes := r.planes, drains := [], flags := 0 } ((rangeFrom 0 gs.length).zip gs)

end Sys2Proof.Machine
end

