-- ==== Sys2Proof/Machine/Array.lean ====
section
/-!
DEFINITION. The arrays: stationary registers, their loads, the check column, and the issue of MM and CONV (R133 to R138, R141, R142, R147, R153, R154, R200).
-/

namespace Sys2Proof.Machine

/-! ### Stationary and streamed operands (R134, R141, R142) -/

/-- Whether W is stationary; STAT 0b00 is the context's default (R80, R136). -/
def weightStat (c : Ctx) (stat : Nat) : Bool := (if stat = 0 then c.stat else stat) == 2

/-- An element as it stands in a register. -/
def Operand.el (o : Operand) : StatEl := { fmt := o.fmt.code, bits := o.bits, exp := o.exp }
/-- The high or low part of a split element. -/
def Operand.part (lo : Bool) (o : Operand) : StatEl :=
  let b := splitBits (BitVec.ofNat 32 o.bits)
  { fmt := Fmt.bf16.code, bits := if lo then b.2 else b.1, exp := o.exp }
def StatEl.zero : StatEl := { fmt := Fmt.fp32.code, bits := 0, exp := 0 }
def StatEl.val (e : StatEl) : FV := (decodeF ((Fmt.ofCode e.fmt).getD .fp32) e.bits).scale e.exp

/-- What an array reduces in one pass: the K-lists of its columns and of the vectors streamed past them. -/
structure ArrayPass where
  cols : List (List StatEl)
  streams : List (List StatEl)
deriving DecidableEq, Repr

/-- The passes over rows of X and columns of W: three with the split, each with its own parts (R49, R137). -/
def arrayPasses (a : Arith) (weight : Bool) (xs ws : List (List Operand)) : List ArrayPass :=
  let mk (f g : Operand → StatEl) : ArrayPass :=
    let x := xs.map (fun l => l.map f)
    let w := ws.map (fun l => l.map g)
    if weight then { cols := w, streams := x } else { cols := x, streams := w }
  match a with
  | .split => [mk (Operand.part false) (Operand.part true), mk (Operand.part true) (Operand.part false), mk (Operand.part false) (Operand.part false)]
  | _ => [mk Operand.el Operand.el]

/-- Tiles side by side, each filled up to its width. -/
def sideBySide (width : Nat) (l : List (List (List Operand))) : List (List Operand) :=
  l.flatMap (fun t => t ++ List.replicate (width - t.length) [])

/-- The passes of an MM's groups in array `a` of the unit: 0, and in the paired shape 1 for rows 128 to 255 of X. -/
def mmPasses (s : State) (cn : Nat) (c : Ctx) (r : Run) (w : InstrWord) (p : MmPlan) (a : Nat) (gs : List (List Nat)) : X (List ArrayPass) :=
  let sh := xSHAPE w
  if a = 1 ∧ sh ≠ 6 then .ok [] else
  match mapE (fun g =>
    match mapE (fun b => operandRows s cn c r p.qx b (p.x.advance ((b : Int) * sregInt r.S (xSBX w)))) g,
        mapE (fun b => operandRows s cn c r p.qw b (p.w.advance ((b : Int) * sregInt r.S (xSBW w)))) g with
    | .ok xs, .ok ws =>
      let x := if 1 ≤ sh ∧ sh ≤ 3 then sideBySide (shapeMax sh).1 xs else xs.headD []
      let x := if sh = 6 then (if a = 0 then x.take 128 else x.drop 128) else x
      let y := if sh = 4 ∨ sh = 5 then sideBySide (shapeMax sh).2 ws else ws.headD []
      .ok (arrayPasses p.arith (weightStat c (xSTAT w)) x y)
    | .error e, _ => .error e
    | _, .error e => .error e) gs with
  | .ok l => .ok l.flatten
  | .error e => .error e

/-- A masked leaf streams +0.0. -/
def zeroOperand : Operand := { fmt := .fp32, bits := 0, exp := 0, flags := 0 }

/-- The passes of a CONV's groups; a depthwise one runs in the vector unit (R186, R187, R195). -/
def convPasses (s : State) (cn : Nat) (c : Ctx) (r : Run) (w : InstrWord) (p : ConvPlan) (a : Nat) (gs : List ((Nat × Nat) × (Nat × Nat))) :
    X (List ArrayPass) :=
  if a = 1 || nDW w then .ok [] else
  match mapE (fun (g : (Nat × Nat) × (Nat × Nat)) =>
    mapE (fun (taps : List (List Nat)) =>
      let leaves := taps.flatMap (fun t => (rangeFrom 0 (p.w.extD 0)).map (fun c' => (t, c')))
      match mapE (fun m => mapE (fun (tc : List Nat × Nat) =>
              match convLeaf s cn c r w p g.1.1 (posTuple p.tc (g.2.1 + m)) tc.1 tc.2 with
              | .ok (some q) => .ok q.1
              | .ok none => .ok zeroOperand
              | .error e => .error e) leaves) (rangeFrom 0 g.2.2),
          mapE (fun n => mapE (fun (tc : List Nat × Nat) =>
            operandElem s cn c r.banks r.A r.S r.T none 0 p.w ([tc.2, g.1.1 + n] ++ tc.1) { chan := tc.2, row := g.1.1 + n }) leaves)
            (rangeFrom 0 g.1.2) with
      | .ok xs, .ok ws => .ok (arrayPasses p.arith (weightStat c (nSTAT w)) xs ws)
      | .error e, _ => .error e
      | _, .error e => .error e) (passes w)) gs with
  | .ok l => .ok l.flatten.flatten
  | .error e => .error e

/-! ### Chunks and registers (R133, R137) -/

/-- A pass cut into chunks of 128 reduction indices; positions it lacks hold +0.0. -/
def ArrayPass.chunks (p : ArrayPass) : List ArrayPass :=
  let k := (p.cols ++ p.streams).foldl (fun a l => max a l.length) 0
  (rangeFrom 0 (ceilDiv k 128)).map (fun ch =>
    { cols := p.cols.map (fun l => (l.drop (128 * ch)).take 128), streams := p.streams.map (fun l => (l.drop (128 * ch)).take 128) })

/-- A chunk loads into the shadow registers and is swapped in. -/
def ArrayRegs.loadSwap (a : ArrayRegs) (cols : List (List StatEl)) : ArrayRegs := { active := cols, shadow := a.active }

/-- The registers after the chunks of an instruction: the last two loads stand in them. -/
def ArrayRegs.after (a : ArrayRegs) (l : List ArrayPass) : ArrayRegs :=
  (l.drop (l.length - 2)).foldl (fun a p => a.loadSwap p.cols) a

/-! ### The check column (R153) -/

/-- σ and τ of an array row: the sum of its stationary elements and of their magnitudes, in FP32. DESIGN CHOICE: log entry 104. -/
def checkRow (cols : List (List StatEl)) (k : Nat) : Bits32 × Bits32 :=
  let vs := cols.map (fun l => (rne false (nth StatEl.zero l k).val).1)
  ((sum45 vs).1, (sum45 (vs.map (fun v => v &&& 0x7FFFFFFF))).1)

/-- The check of a streamed vector against a chunk is not skipped: its operands, every σ and τ, and A are finite. DESIGN CHOICE: log entry 104. -/
def vectorChecked (cols : List (List StatEl)) (v : List StatEl) : Bool :=
  let ck := (rangeFrom 0 v.length).map (checkRow cols)
  let a := sum45 ((v.zip ck).map (fun p => (fmul .rne ((rne false p.1.val).1 &&& 0x7FFFFFFF) p.2.2).1))
  cols.all (fun l => l.all (fun e => e.val.isFinite)) && v.all (fun e => e.val.isFinite) &&
    ck.all (fun p => (fp p.1).isFinite && (fp p.2).isFinite) && (fp a.1).isFinite

/-- A chunk streams a vector that is checked. -/
def chunkChecked (p : ArrayPass) : Bool := p.streams.any (vectorChecked p.cols)

/-! ### Issue of MM and CONV -/

/-- The last groups of an instruction. -/
def lastTwo {α : Type} (l : List α) : List α := l.drop (l.length - 2)

/-- The first chunk that a matrix instruction at the PC would load, when it needs no token and would pass its checks (R138).
DESIGN CHOICE: log entry 104. -/
def firstChunk (s : State) (u : UnitId) (c : Ctx) (r : Run) (a : Nat) : Option (List (List StatEl)) :=
  match (if pcInside r then fetchWord s r c else .error .programBounds) with
  | .error _ => none
  | .ok w =>
    if reservedWord u.kind w || wPsel w != 0 then none
    else if wClass w = clMMA ∧ wOp w = 0 ∧ mmStatic u.kind w = true then
      match prologueSlot r.Q (xQXEN w) (xQX w), prologueSlot r.Q (xQWEN w) (xQW w), mmPlan s r.ctx c u.kind r w with
      | .ok qx, .ok qw, .ok p =>
        match heldByToken s r.ctx c r [qx, qw], mmPasses s r.ctx c r w p a ((mmGroups r w).take 1) with
        | .ok none, .ok l => ((l.flatMap ArrayPass.chunks).head?).map (·.cols)
        | _, _ => none
      | _, _, _ => none
    else if wClass w = clWIN ∧ wOp w = 0 ∧ convStatic u.kind w = true then
      match prologueSlot r.Q (nQXEN w) (nQX w) with
      | .error _ => none
      | .ok qx =>
        match heldByToken s r.ctx c r [qx], convPlan s r.ctx c u.kind r w qx with
        | .ok none, .ok p =>
          match convPasses s r.ctx c r w p a ((convGroups w p.tc).take 1) with
          | .ok l => ((l.flatMap ArrayPass.chunks).head?).map (·.cols)
          | .error _ => none
        | _, _ => none
    else none

/-- The arrays after an instruction: its last chunks, and in the shadow registers the first chunk of a matrix instruction that comes next
(R137, R138). DESIGN CHOICE: log entry 104. -/
def arraysAfter (s : State) (u : UnitId) (c : Ctx) (r : Run) (works : Nat → X (List ArrayPass)) : List ArrayRegs :=
  ((rangeFrom 0 r.arrays.length).zip r.arrays).map (fun p =>
    let a := match works p.1 with
      | .ok l => p.2.after (l.flatMap ArrayPass.chunks)
      | .error _ => p.2
    match firstChunk s u c (advance r) p.1 with
    | some cols => { a with shadow := cols }
    | none => a)

/-- The check column can signal: some array checks some vector. DESIGN CHOICE: log entry 10. -/
def checkable (works : Nat → X (List ArrayPass)) : Bool :=
  [0, 1].any (fun a => match works a with
    | .ok l => (l.flatMap ArrayPass.chunks).any chunkChecked
    | .error _ => false)

/-- Free values for the whole of C, iteration by iteration. -/
def freeC (s : State) (tc : TD) (count : Nat) (stride : Int) : List WItem :=
  (rangeFrom 0 count).flatMap (fun (b : Nat) =>
    let t := tc.advance ((b : Int) * stride)
    ((rangeFrom 0 t.count).zip (tuples t.exts)).map (fun (p : Nat × List Nat) => .ok (elemWrite t p.2 (Config.freeNat s.freeIx (b * 65536 + p.1)))))

/-- A matrix instruction that meets a fault in a later group may have drained earlier ones (R96). DESIGN CHOICE: log entry 9. -/
def partDrained (s : State) (cn : Nat) (tc : Option TD) (count : Nat) (stride : Int) : State :=
  match tc with
  | none => s
  | some t => partWrites s cn t false (freeC s t count stride)

/-- MM. `detect`: the check column signals a detection; nothing of the instruction goes further (R153, R154, R365). DESIGN CHOICE: log entry 10. -/
def execMm (u : UnitId) (detect : Bool) (s : State) : Res :=
  issue s u clMMA 0x00 mmStatic (fun s u c r w =>
    tryX s (prologueSlot r.Q (xQXEN w) (xQX w)) fun qx =>
    tryX s (prologueSlot r.Q (xQWEN w) (xQW w)) fun qw =>
    tryX s (heldByToken s r.ctx c r [qx, qw]) fun held =>
    match held with
    | some toks => .jump s { r with phase := .waitPrologue toks }
    | none =>
      tryX s (mmPlan s r.ctx c u.kind r w) fun p =>
      let gs := mmGroups r w
      tryX (partDrained s r.ctx p.tc (xBCNT w + 1) (sregInt r.S (xSBC w))) (mmRun s r.ctx c r w p gs) fun st =>
      if detect && checkable (fun a => mmPasses s r.ctx c r w p a gs) then .jump (stopChecked s u r) { r with phase := .held }
      else
        .go (if gs.any (clobbered r w p) then s.tick else s) ({ r with
          planes := st.planes, drains := r.drains ++ st.drains,
          arrays := arraysAfter s u c r (fun a => mmPasses s r.ctx c r w p a (lastTwo gs)) }.raise st.flags))

/-- CONV. `detect`: the check column signals a detection (R153). DESIGN CHOICE: log entry 10. -/
def execConv (u : UnitId) (detect : Bool) (s : State) : Res :=
  issue s u clWIN 0x00 convStatic (fun s u c r w =>
    tryX s (prologueSlot r.Q (nQXEN w) (nQX w)) fun qx =>
    tryX s (heldByToken s r.ctx c r [qx]) fun held =>
    match held with
    | some toks => .jump s { r with phase := .waitPrologue toks }
    | none =>
      tryX s (convPlan s r.ctx c u.kind r w qx) fun p =>
      let gs := convGroups w p.tc
      tryX (partDrained s r.ctx (if nDRAIN w then some p.tc else none) 1 0) (convRun s r.ctx c r w p) fun st =>
      let fl := st.flags ||| (if nPAD w = 1 then (padConst p r w).flags else 0)
      if detect && checkable (fun a => convPasses s r.ctx c r w p a gs) then .jump (stopChecked s u r) { r with phase := .held }
      else
        .go (if convClash w p then s.tick else s) ({ r with
          planes := st.planes, drains := r.drains ++ st.drains,
          arrays := arraysAfter s u c r (fun a => convPasses s r.ctx c r w p a (lastTwo gs)) }.raise fl))

end Sys2Proof.Machine
end

