-- ==== Sys2Proof/Machine/Push.lean ====
section
/-!
DEFINITION. PUSH, the delivery of pushed tiles, and the completion of shadow copies (R70, R87, R123, R170, R322, R379).
-/

namespace Sys2Proof.Machine

def pTS (w : InstrWord) : Nat := InstrWordBits w 21 16
def pDDIE (w : InstrWord) : Nat := InstrWordBits w 26 22
def pDKND (w : InstrWord) : Nat := InstrWordBits w 27 27
def pDUNIT (w : InstrWord) : Nat := InstrWordBits w 31 28
def pSOFF (w : InstrWord) : Nat := InstrWordBits w 36 32
def pDOFF (w : InstrWord) : Nat := InstrWordBits w 91 60
def pTOFF (w : InstrWord) : Nat := InstrWordBits w 123 92

/-- DDIE and DUNIT name a unit (R87). -/
def pushStatic (_ : UnitKind) (w : InstrWord) : Bool := decide (pDDIE w ≤ 23) && (pDKND w == 0 || decide (pDUNIT w ≤ 7))

/-- The stored bits of a tensor, packed in index order. -/
def packTensor (s : State) (cn : Nat) (c : Ctx) (t : TD) : X Bytes :=
  match mapE (fun ix => readElem s cn c t ix) (tuples t.exts) with
  | .ok l => .ok (l.flatMap (toBytes t.fmt.size))
  | .error e => .error e

/-- Where the packed bytes land; an empty tensor has no range. -/
def pushTarget (cn : Nat) (c : Ctx) (r : Run) (w : InstrWord) (n : Nat) : X Nat :=
  if n = 0 then .ok 0
  else windowRange cn c (pDDIE w) (pDKND w) (pDUNIT w) ((pDOFF w : Int) + sregInt r.S (pSOFF w)) n

/-- The token counter of a PUSH, at an 8-byte boundary of the window. DEDUCED: log entry 24. -/
def pushToken (cn : Nat) (c : Ctx) (w : InstrWord) : X Nat :=
  windowRange cn c (pDDIE w) (pDKND w) (pDUNIT w) (pTOFF w - pTOFF w % 8 : Nat) 8

/-- A PUSH that fails an address check part-way: which of its elements have landed is unpredictable within its destination (R96).
DESIGN CHOICE: log entry 9. -/
def partPush (s : State) (cn : Nat) (c : Ctx) (r : Run) (w : InstrWord) (t : TD) : State :=
  ({ s with mem := ((rangeFrom 0 t.count).zip (tuples t.exts)).foldl (fun m p =>
      match readElem s cn c t p.2,
          windowRange cn c (pDDIE w) (pDKND w) (pDUNIT w) ((pDOFF w : Int) + sregInt r.S (pSOFF w) + p.1 * t.fmt.size) t.fmt.size with
      | .ok v, .ok key => if Config.freeBool s.freeIx p.1 then Memory.setBytes m key (toBytes t.fmt.size v) else m
      | _, _ => m) s.mem } : State).tick

/-- PUSH: the tile and the token decrement behind it enter the fabric (R87, R322). DESIGN CHOICE: log entry 14. DEDUCED: log entry 26. -/
def execPush (u : UnitId) (s : State) : Res :=
  issue s u clPUSH 0x00 pushStatic (fun s u c r w =>
    tryX s (vecSource s r.ctx c r.T (pTS w)) fun t =>
    tryX (partPush s r.ctx c r w t) (packTensor s r.ctx c t) fun bs =>
    tryX (partPush s r.ctx c r w t) (pushTarget r.ctx c r w bs.length) fun key =>
    tryX (partPush s r.ctx c r w t) (pushToken r.ctx c w) fun tok =>
    .go (addFlights s u r c false [((if bs.isEmpty then [] else [(key, bs)]), tok)]) { r with pushes := r.pushes + 1 })

/-- The counter 8 bytes at a window key goes down by one. -/
def decWindow (m : Memory) (key : Nat) : Memory :=
  Memory.setBytes m key (toBytes 8 (BitVec.ofNat 64 (ofBytes (Memory.getBytes m key 8)) - 1).toNat)

/-- Whether a push is that of the context's current attempt (R379); other flits of the context are discarded. -/
def flightLive (s : State) (f : Flight) : Bool :=
  match s.ctx? f.ctx with
  | none => false
  | some c =>
    match c.epoch with
    | none => false
    | some e => e.attempt == f.att && !c.drydown &&
        (match e.phase with
         | .open => true
         | _ => false)

/-- The sender's group counts one push less. -/
def landed (r : Run) (f : Flight) : Run :=
  if r.ctx = f.ctx ∧ r.att = f.att then
    if f.stage then { r with stagePushes := r.stagePushes - 1 } else { r with pushes := r.pushes - 1 }
  else r

/-- A push lands: its bytes, then its token. -/
def deliver (s : State) (f : Flight) : State :=
  let m := f.writes.foldl (fun m w => Memory.setBytes m w.1 w.2) s.mem
  ({ s with mem := decWindow m f.token } : State).modRun f.owner (fun r => landed r f)

/-- Two flights are pushes of one group of one task. DEDUCED: log entry 16. -/
def sameGroup (f g : Flight) : Bool := f.owner == g.owner && f.ctx == g.ctx && f.att == g.att && f.stage == g.stage

/-- A push sent before it and still under way holds a push of the same group back (R70). DEDUCED: log entry 16. -/
def heldBack (s : State) (f : Flight) : Bool := (s.fabric.takeWhile (fun g => !(g == f))).any (sameGroup f)

/-! ### Shadow copies (R123) -/

/-- A unit that waits for shadow pages drops one; with none left its instruction is over and the PC has moved on. -/
def shadowArrived (ctx vpage : Nat) (r : Run) : Run :=
  if r.ctx = ctx then
    match r.phase with
    | .waitShadow l =>
      let l := l.filter (· != vpage)
      { r with phase := if l.isEmpty then .running else .waitShadow l }
    | _ => r
  else r

/-- The copy of a shadow page is complete. DESIGN CHOICE: log entry 15. -/
def execShadowCopyDone (ctx vpage : Nat) (s : State) : Res :=
  match s.ctx? ctx with
  | none => .next s
  | some c =>
    match NMap.get? c.shadows vpage with
    | none => .next s
    | some sh =>
      if sh.copying then
        let s := s.setCtx ctx { c with shadows := NMap.set c.shadows vpage { sh with copying := false } }
        .next { s with units := s.units.map (fun p => (p.1, shadowArrived ctx vpage p.2)) }
      else .next s

end Sys2Proof.Machine
end

