-- ==== Sys2Proof/Machine/Kv.lean ====
section
/-!
DEFINITION. Paged key-value memory: sequences, page tables, slots, appends, page-out and page-in, eviction, replay (R230 to R251, R461).
-/

namespace Sys2Proof.Machine

/-! ### Firmware writes, which a replay does not undo (R238, R249) -/

/-- Add to a 32-bit word, in every copy on its own. -/
def fwAdd (s : State) (cn va : Nat) (d : Int) : State :=
  match s.ctx? cn with
  | none => s
  | some c =>
    { s with mem := (physCopies c va).foldl (fun m a =>
        Memory.setBytes m a (toBytes 4 (BitVec.ofInt 32 ((ofBytes (Memory.getBytes m a 4) : Int) + d)).toNat)) s.mem }

/-! ### Sequence layout (R230 to R234) -/

def kvFmt (k : Nat) : Fmt := if k = 0 then .e4m3 else if k = 1 then .e5m2 else if k = 2 then .bf16 else .fp16

/-- The header as a number. -/
def seqHeader (s : State) (cn : Nat) (c : Ctx) (q : SeqRec) : X Nat := readNat s cn c q.root 64

def hLen (h : Nat) : Nat := field h 31 0
def hGroups (h : Nat) : Nat := field h 35 32 + 1
def hD (h : Nat) : Nat := field h 43 36 + 1
def hDv (h : Nat) : Nat := field h 51 44 + 1
def hKfmt (h : Nat) : Fmt := kvFmt (field h 53 52)
def hVfmt (h : Nat) : Fmt := kvFmt (field h 55 54)
def hState (h : Nat) : Nat := field h 58 56
def hPrio (h : Nat) : Nat := field h 63 60
def hMaxLp (h : Nat) : Nat := field h 92 76 + 1
def hEpoch (h : Nat) : Word64 := BitVec.ofNat 64 (field h 191 128)
def hResid (h : Nat) : Nat := field h 223 192
def hBudget (h : Nat) : Nat := field h 255 224
def hDecay (h : Nat) : Bits32 := BitVec.ofNat 32 (field h 287 256)
def hThresh (h : Nat) : Bits32 := BitVec.ofNat 32 (field h 319 288)
def hPfirst (h : Nat) : Nat := field h 335 320
def hPrecent (h : Nat) : Nat := field h 351 336

/-- Bytes of one token's key and of its value. -/
def keyBytes (h : Nat) : Nat := hD h * (hKfmt h).size
def valBytes (h : Nat) : Nat := hDv h * (hVfmt h).size
/-- Bytes of a page set (R230). -/
def setBytesOf (h : Nat) : Nat := hGroups h * 64 * (keyBytes h + valBytes h)
/-- Byte offset of a head group's keys, and of its values, in a page set. -/
def groupOff (h hg : Nat) : Nat := hg * 64 * (keyBytes h + valBytes h)
def keyOff (h hg t : Nat) : Nat := groupOff h hg + t * keyBytes h
def valOff (h hg t : Nat) : Nat := groupOff h hg + 64 * keyBytes h + t * valBytes h

def dirVa (root p : Nat) : Nat := root + 0x40 + 8 * (p / 512)
def scoreVa (root p : Nat) : Nat := root + 0x1000 + 16 * p
/-- First byte of the leaf pairs. -/
def leafBase (root maxLp : Nat) : Nat := root + up4k (0x1000 + 16 * maxLp)
/-- The two leaves of the pair that covers a logical page. -/
def leafFirst (q : SeqRec) (p : Nat) : Nat := leafBase q.root q.maxLp + 0x2000 * (p / 512)
def psAbsent : Nat := 0
def psResident : Nat := 1
def psCopying : Nat := 2
def psSwapped : Nat := 3
def psFetching : Nat := 4
def psEvicted : Nat := 5

def stResident : Nat := 0
def stOut : Nat := 1
def stSwapped : Nat := 2
def stIn : Nat := 3

def leafEntry (addr ps : Nat) : Nat := addr % 2 ^ 48 + ps * 2 ^ 48

/-- The leaf in force for a logical page. -/
def leafOf (s : State) (cn : Nat) (c : Ctx) (q : SeqRec) (p : Nat) : X (Option Nat) :=
  match readNat s cn c (dirVa q.root p) 8 with
  | .error e => .error e
  | .ok d => .ok (if bitAt d 48 then some (field d 47 0) else none)

/-- Slot address and PSTATE of a logical page. -/
def pageEntry (s : State) (cn : Nat) (c : Ctx) (q : SeqRec) (p : Nat) : X (Nat × Nat) :=
  match leafOf s cn c q p with
  | .error e => .error e
  | .ok none => .ok (0, psAbsent)
  | .ok (some l) =>
    match readNat s cn c (l + 8 * (p % 512)) 8 with
    | .error e => .error e
    | .ok x => .ok (field x 47 0, field x 50 48)

def pageState (s : State) (cn : Nat) (c : Ctx) (q : SeqRec) (p : Nat) : Nat :=
  match pageEntry s cn c q p with
  | .ok e => e.2
  | .error _ => psAbsent

/-- Logical pages of a sequence in a state, ascending. -/
def pagesIn (s : State) (cn : Nat) (c : Ctx) (q : SeqRec) (ps : Nat) : List Nat :=
  (rangeFrom 0 q.maxLp).filter (fun p => pageState s cn c q p == ps)

/-- A leaf lies where firmware put it; a directory that the host has written may name another place (R240). -/
def ownLeaf (q : SeqRec) (p l : Nat) : Bool := l == leafFirst q p || l == leafFirst q p + 0x1000

/-- Change an entry of the leaf in force with one write. -/
def setEntry (s : State) (cn : Nat) (q : SeqRec) (p addr ps : Nat) : State :=
  match s.ctx? cn with
  | none => s
  | some c =>
    match leafOf s cn c q p with
    | .ok (some l) => if ownLeaf q p l then fwWrite s cn (l + 8 * (p % 512)) (toBytes 8 (leafEntry addr ps)) else s
    | _ => s

def setSeqState (s : State) (cn : Nat) (q : SeqRec) (st : Nat) : State :=
  match s.ctx? cn with
  | none => s
  | some c =>
    match seqHeader s cn c q with
    | .ok h => fwWrite s cn (q.root + 7) (toBytes 1 (setField (field h 63 56) 2 0 st))
    | .error _ => s

def State.seq? (s : State) (cn n : Nat) : Option (Ctx × SeqRec) :=
  match s.ctx? cn with
  | none => none
  | some c => (NMap.get? c.seqs n).map (fun q => (c, q))

def State.modSeq (s : State) (cn n : Nat) (f : SeqRec → SeqRec) : State :=
  s.modCtx cn (fun c => { c with seqs := NMap.modify c.seqs n f })

def State.modKv (s : State) (cn : Nat) (f : KvPool → KvPool) : State := s.modCtx cn (fun c => { c with kv := f c.kv })

/-- Firmware gives a slot to a sequence. -/
def giveSlot (s : State) (cn sn a : Nat) : State := s.modSeq cn sn (fun q => { q with slots := q.slots ++ [a] })

/-- A slot of the sequence returns to the pool; an address that firmware has not given it does not (R240). -/
def returnSlot (s : State) (cn sn a : Nat) : State :=
  s.modCtx cn (fun c =>
    match NMap.get? c.seqs sn with
    | none => c
    | some q =>
      if q.slots.contains a then
        { c with seqs := NMap.set c.seqs sn { q with slots := q.slots.erase a }, kv := { c.kv with free := c.kv.free ++ [a] } }
      else c)

/-- The sequence of a context whose root is an address. -/
def seqOfRoot (c : Ctx) (va : Nat) : Option (Nat × SeqRec) := c.seqs.find? (fun p => p.2.root == va)

/-- A firmware edit: the spare leaf of the pair is written, the directory swings, EPOCH rises; the old leaf waits for older walkers (R238). -/
def leafEdit (s : State) (cn sn p addr ps : Nat) : State :=
  match s.seq? cn sn with
  | none => s
  | some (c, q) =>
    match leafOf s cn c q p, seqHeader s cn c q with
    | .ok (some l), .ok h =>
      if !(ownLeaf q p l) then s else
      let spare := if l = leafFirst q p then leafFirst q p + 0x1000 else leafFirst q p
      match readBytes s cn c l 0x1000 with
      | .error _ => s
      | .ok old =>
        let s := fwWrite s cn spare old
        let s := fwWrite s cn (spare + 8 * (p % 512)) (toBytes 8 (leafEntry addr ps))
        let s := fwWrite s cn (dirVa q.root p) (toBytes 8 (spare + 2 ^ 48))
        let e := hEpoch h + 1
        let s := fwWrite s cn (q.root + 16) (toBytes 8 e.toNat)
        s.modSeq cn sn (fun q => { q with freeing := q.freeing ++ [(e, true, l)] })
    | _, _ => s

/-- The pair's spare is still held by a walker's snapshot: a second edit waits (R238). -/
def spareHeld (q : SeqRec) (p : Nat) : Bool :=
  q.freeing.any (fun f => f.2.1 && decide (leafFirst q p ≤ f.2.2) && decide (f.2.2 < leafFirst q p + 0x2000))

/-! ### Walkers -/

/-- Epochs recorded by the walkers of a sequence. -/
def walkerEpochs (s : State) (cn sn : Nat) : List Word64 :=
  s.units.flatMap (fun p =>
    if p.2.ctx = cn then
      p.2.attns.filterMap (fun a => match a with
        | .attend _ (some w) => if w.seq = sn then some w.epoch else none
        | _ => none)
    else [])

/-- A KVAPPEND to the sequence has been issued and not completed. -/
def appending (s : State) (cn sn : Nat) : Bool :=
  s.units.any (fun p => p.2.ctx == cn && p.2.attns.any (fun a => match a with
    | .append _ q => q == sn
    | _ => false))

/-! ### The swap region (R245, R246) -/

/-- Swap areas in use by the contexts of a host. -/
def swapAreas (s : State) (slot : Nat) : List (Nat × Nat) :=
  s.ctxs.flatMap (fun p => if p.2.slot = slot then p.2.seqs.filterMap (fun q => q.2.swapArea) else [])

/-- First offset at which n bytes overlap no area; candidates are 0 and the ends of areas. DESIGN CHOICE: log entry 83. -/
def swapFit (areas : List (Nat × Nat)) (len n : Nat) : Option Nat :=
  let ok (o : Nat) : Bool := decide (o + n ≤ len) && areas.all (fun a => decide (a.1 + a.2 ≤ o) || decide (o + n ≤ a.1))
  argMin (fun x => x) ((0 :: areas.map (fun a => a.1 + a.2)).filter ok)

/-- The registration of the context's host, when its transfers go out. -/
def hostLink (s : State) (c : Ctx) : Option HostReg :=
  match s.host? c.slot with
  | none => none
  | some h => if h.reachable then c.reg else none

/-- Give the sequence its swap area at its first page-out. -/
def giveSwap (s : State) (cn sn : Nat) : Option State :=
  match s.seq? cn sn with
  | none => none
  | some (c, q) =>
    match q.swapArea with
    | some _ => some s
    | none =>
      match hostLink s c with
      | none => none
      | some r =>
        let n := q.maxLp * 2 ^ c.kv.n
        match swapFit (swapAreas s c.slot) r.swapLen n with
        | none => none
        | some o =>
          let s := s.modSeq cn sn (fun q => { q with swapArea := some (o, n) })
          some (fwWrite s cn (q.root + 44) (toBytes 6 o))

/-- Swap traffic as it leaves: data units of 4,096 bytes, the tweak of each its offset in the swap region divided by 4,096 (R295).
DESIGN CHOICE: log entry 111. -/
def swapText (key off : Nat) (bs : Bytes) : Bytes :=
  (rangeFrom 0 (ceilDiv bs.length 4096)).flatMap (fun i => Config.swapCipher key (off / 4096 + i) ((bs.drop (4096 * i)).take 4096))

/-- Send the contents of the slot that is copying; encrypted when the context asks for it (R246, R294). -/
def sendCopy (s : State) (cn sn p : Nat) : State :=
  match s.seq? cn sn with
  | none => s
  | some (c, q) =>
    match pageEntry s cn c q p, q.swapArea, hostLink s c with
    | .ok (a, _), some (o, _), some r =>
      match readBytes s cn c a (2 ^ c.kv.n) with
      | .ok bs =>
        let off := o + p * 2 ^ c.kv.n
        s.toHost c.slot (some cn) none (.hostWrite c.slot r.swapKey (r.swapVa + off) (if c.enc then swapText c.swapCipherKey off bs else bs))
      | .error _ => s
    | _, _, _ => s

/-! ### Page-out, page-in and slots (R245 to R247) -/

/-- The next page set of a page-out starts copying; with none left the sequence is swapped, or resident when nothing is swapped. -/
def outNext (s : State) (cn sn : Nat) : State :=
  match s.seq? cn sn with
  | none => s
  | some (c, q) =>
    if !(pagesIn s cn c q psCopying).isEmpty then s else
    match pagesIn s cn c q psResident with
    | p :: _ =>
      match pageEntry s cn c q p with
      | .ok (a, _) => sendCopy (setEntry s cn q p a psCopying) cn sn p
      | .error _ => s
    | [] => setSeqState s cn q (if (pagesIn s cn c q psSwapped).isEmpty then stResident else stSwapped)

def startOut (s : State) (cn sn : Nat) : State :=
  match s.seq? cn sn with
  | none => s
  | some (_, q) => outNext (setSeqState s cn q stOut) cn sn

/-- STATE of a sequence. -/
def seqState (s : State) (cn sn : Nat) : Nat :=
  match s.seq? cn sn with
  | none => stResident
  | some (c, q) => match seqHeader s cn c q with
    | .ok h => hState h
    | .error _ => stResident

/-- The sequence that is pre-empted for an appending one: lowest PRIO, most resident page sets, highest number (R245). -/
def victim (s : State) (cn : Nat) (c : Ctx) (asker : Nat) : Option Nat :=
  let ok := c.seqs.filter (fun p =>
    p.1 != asker && !appending s cn p.1 && !p.2.pageInWanted && seqState s cn p.1 == stResident &&
      !(pagesIn s cn c p.2 psResident).isEmpty)
  let key (p : Nat × SeqRec) : Nat :=
    (match seqHeader s cn c p.2 with
     | .ok h => hPrio h
     | .error _ => 0) * 2 ^ 40 + (2 ^ 20 - (pagesIn s cn c p.2 psResident).length) * 2 ^ 13 + (4096 - p.1)
  (argMin key ok).map (·.1)

/-- The sequence of an ATTN instruction under way that still waits for it: an append, or a paged walk without its snapshot. -/
def AttnOp.wants (c : Ctx) (a : AttnOp) : Option Nat :=
  match a with
  | .append _ q => some q
  | .attend sp none =>
    if bitAt sp.word.toNat 70 then
      (nth none sp.T (InstrWordBits sp.word 27 22)).bind (fun b => (seqOfRoot c (TD.parse b).base).map (·.1))
    else none
  | .attend _ (some _) => none

/-- Units with an instruction of the sequence under way, with the instruction's index. -/
def kvWaiters (s : State) (cn sn : Nat) : List (Nat × Nat) :=
  s.units.filterMap (fun p =>
    if p.2.ctx = cn then
      match p.2.attns.find? (fun a => (s.ctx? cn).any (fun c => a.wants c == some sn)) with
      | some (.append sp _) => some (p.1, sp.ix)
      | some (.attend sp _) => some (p.1, sp.ix)
      | none => none
    else none)

/-- The instructions waiting on a sequence end in a kv-capacity fault (R245). -/
def kvCapacityFault (s : State) (cn sn : Nat) : State :=
  (kvWaiters s cn sn).foldl (fun s p =>
    match NMap.get? s.units p.1 with
    | none => s
    | some r =>
      let s := taskFault s cn (p.1 / 64) .kvCapacity r.task (BitVec.ofNat 32 p.2)
      s.dropUnit p.1) s

/-- A slot is on its way: a page-out runs, or a departed page set waits for its walkers. -/
def slotComing (s : State) (cn : Nat) (c : Ctx) : Bool :=
  c.seqs.any (fun p => seqState s cn p.1 == stOut || p.2.freeing.any (fun f => !f.2.1))

/-- Requests wait, the free list is empty and no slot is coming: firmware pre-empts a sequence, or the waiting instructions fault. -/
def kvPressure (s : State) (cn : Nat) : State :=
  match s.ctx? cn with
  | none => s
  | some c =>
    match c.kv.waiting with
    | [] => s
    | (_, sn, _) :: rest =>
      if !c.kv.free.isEmpty || slotComing s cn c then s else
      match victim s cn c sn with
      | some v =>
        (match giveSwap s cn v with
         | some s => startOut s cn v
         | none => (kvCapacityFault s cn sn).modKv cn (fun k => if (kvWaiters s cn sn).isEmpty then k else { k with waiting := rest }))
      | none => (kvCapacityFault s cn sn).modKv cn (fun k => if (kvWaiters s cn sn).isEmpty then k else { k with waiting := rest })

/-- Ask for a slot: the head of the free list when nobody waits, else a place in the queue. DESIGN CHOICE: log entry 83. -/
def askSlot (s : State) (cn : Nat) (u : Option UnitId) (sn p : Nat) : State × Option Nat :=
  match s.ctx? cn with
  | none => (s, none)
  | some c =>
    match c.kv.free, c.kv.waiting with
    | a :: r, [] => (s.modKv cn (fun k => { k with free := r }), some a)
    | _, _ => (kvPressure (s.modKv cn (fun k => { k with waiting := k.waiting ++ [(u, sn, p)] })) cn, none)

/-- A page set of a page-in has its slot: it is being fetched. -/
def startFetch (s : State) (cn sn p a : Nat) : State :=
  match s.seq? cn sn with
  | none => s
  | some (_, q) => setEntry (giveSlot s cn sn a) cn q p a psFetching

/-- The next swapped page set of a page-in asks for a slot; with none left the sequence is resident. -/
def inNext (s : State) (cn sn : Nat) : State :=
  match s.seq? cn sn with
  | none => s
  | some (c, q) =>
    if !(pagesIn s cn c q psFetching).isEmpty || c.kv.waiting.any (fun w => w.1.isNone && w.2.1 == sn) then s else
    match pagesIn s cn c q psSwapped with
    | p :: _ =>
      match askSlot s cn none sn p with
      | (s, some a) => startFetch s cn sn p a
      | (s, none) => s
    | [] => setSeqState s cn q stResident

/-- An instruction or a RESUME needs a sequence that is not resident (R247). -/
def needResident (s : State) (cn sn : Nat) : State :=
  match s.seq? cn sn with
  | none => s
  | some (_, q) =>
    let st := seqState s cn sn
    if st = stSwapped then inNext (setSeqState s cn q stIn) cn sn
    else if st = stOut then s.modSeq cn sn (fun q => { q with pageInWanted := true })
    else s

/-! ### Allocation by KVAPPEND (R236, R249) -/

/-- A page set comes into being in a slot: leaf entry, score entry, RESID, and firmware's allocation log. -/
def allocPage (s : State) (cn sn p a : Nat) : X State :=
  match s.seq? cn sn with
  | none => .error .partition
  | some (c, q) =>
    match leafOf s cn c q p with
    | .error e => .error e
    | .ok l =>
      let s1 := if l.isSome then .ok s else countedWrite s cn (dirVa q.root p) (toBytes 8 (leafFirst q p + 2 ^ 48))
      match s1 with
      | .error e => .error e
      | .ok s =>
        let s := setEntry (giveSlot s cn sn a) cn q p a psResident
        match countedWrite s cn (scoreVa q.root p) (toBytes 16 (2 * 2 ^ 96)) with
        | .error e => .error e
        | .ok s =>
          match s.ctx? cn with
          | none => .error .partition
          | some c =>
            match readNat s cn c (q.root + 24) 4 with
            | .error e => .error e
            | .ok n =>
              match countedWrite s cn (q.root + 24) (toBytes 4 (n + 1)) with
              | .error e => .error e
              | .ok s => .ok (s.modCtx cn (fun c => c.modEpoch (fun e => { e with kvAlloc := e.kvAlloc ++ [(sn, p)] })))

/-- Logical pages that n tokens from position q touch. -/
def tokenPages (q n : Nat) : List Nat := if n = 0 then [] else rangeFrom (q / 64) ((q + n - 1) / 64 + 1 - q / 64)

/-- Allocate every absent page of an append, or queue a request for it. -/
def allocRange (s : State) (cn : Nat) (u : UnitId) (sn : Nat) (ps : List Nat) : X State :=
  foldE (fun s p =>
    match s.seq? cn sn with
    | none => .error .partition
    | some (c, q) =>
      match pageEntry s cn c q p with
      | .error e => .error e
      | .ok (_, st) =>
        if st != psAbsent || c.kv.waiting.any (fun w => w.1.isSome && w.2 == (sn, p)) then .ok s else
        match askSlot s cn (some u) sn p with
        | (s, some a) => allocPage s cn sn p a
        | (s, none) => .ok s) s ps

/-! ### Operands of KVAPPEND -/

def aTQ (w : InstrWord) : Nat := InstrWordBits w 21 16
def aTK (w : InstrWord) : Nat := InstrWordBits w 27 22
def aTV (w : InstrWord) : Nat := InstrWordBits w 33 28
def aTO (w : InstrWord) : Nat := InstrWordBits w 39 34
def aTL (w : InstrWord) : Nat := InstrWordBits w 45 40
def aMASK (w : InstrWord) : Nat := InstrWordBits w 48 46
def aTM (w : InstrWord) : Nat := InstrWordBits w 54 49
def aSW (w : InstrWord) : Nat := InstrWordBits w 59 55
def aSS (w : InstrWord) : Nat := InstrWordBits w 64 60
def aSQ (w : InstrWord) : Nat := InstrWordBits w 69 65
def aPAGED (w : InstrWord) : Bool := bitAt w.toNat 70
def aLSEEN (w : InstrWord) : Bool := bitAt w.toNat 71
def aEVS (w : InstrWord) : Bool := bitAt w.toNat 72
def aRM (w : InstrWord) : Nat := InstrWordBits w 74 73

/-- The sequence and head group that a descriptor names by BASE and STR0 (R235, R236). -/
def namedSeq (s : State) (cn : Nat) (c : Ctx) (t : TD) : X (Nat × SeqRec × Nat × Nat) :=
  match seqOfRoot c t.base with
  | none => .error .illegalInstruction
  | some (n, q) =>
    match seqHeader s cn c q with
    | .error e => .error e
    | .ok h =>
      let g := nth 0 t.str 0
      if 0 ≤ g ∧ g < hGroups h then .ok (n, q, h, g.toNat) else .error .illegalInstruction

/-- A slot of which only some fields count: it must hold a descriptor (R69). Where FMT is among what counts, a reserved one is an illegal
descriptor (R33). DEDUCED: log entry 109. -/
def fmtSlot (T : List (Option (BitVec 512))) (i : Nat) : X TD :=
  match nth none T i with
  | none => .error .illegalInstruction
  | some b => if (Fmt.ofCode (TD.parse b).fmtCode).isNone then .error .illegalDescriptor else .ok (TD.parse b)

/-- A slot of which only BASE and STR0 count. -/
def rawSlot (T : List (Option (BitVec 512))) (i : Nat) : X TD :=
  match nth none T i with
  | none => .error .illegalInstruction
  | some b => .ok (TD.parse b)

/-- What a KVAPPEND works on. -/
structure AppendPlan where
  sn : Nat
  q : SeqRec
  h : Nat
  hg : Nat
  tk : TD
  tv : TD
  pos : Nat
  n : Nat
deriving DecidableEq, Repr

/-- Operands of an append, from registers and slots. -/
def appendPlan (s : State) (cn : Nat) (c : Ctx) (S : List Word64) (T : List (Option (BitVec 512))) (w : InstrWord) : X AppendPlan :=
  match rawSlot T (aTO w) with
  | .error e => .error e
  | .ok tt =>
    match namedSeq s cn c tt, vecSource s cn c T (aTK w), vecSource s cn c T (aTV w) with
    | .error e, _, _ => .error e
    | _, .error e, _ => .error e
    | _, _, .error e => .error e
    | .ok (sn, q, h, hg), .ok tk, .ok tv =>
      .ok { sn := sn, q := q, h := h, hg := hg, tk := tk, tv := tv, pos := (sreg S (aSQ w)).toNat, n := tk.extD 1 }

/-- The checks of R236 at issue. -/
def appendOk (p : AppendPlan) (w : InstrWord) : Bool :=
  p.tk.extD 0 == hD p.h && p.tv.extD 0 == hDv p.h && p.tv.extD 1 == p.n && flatBeyond1 p.tk && flatBeyond1 p.tv &&
    rmOk (aRM w) (hKfmt p.h) && rmOk (aRM w) (hVfmt p.h) && decide (p.pos ≤ hLen p.h) && decide (p.pos + p.n ≤ 64 * hMaxLp p.h)

/-- KVAPPEND: checks, page sets for the tokens, and a place in the ATTN group (R236). -/
def execKvappend (u : UnitId) (s : State) : Res :=
  issue s u clATTN 0x01 noCheck (fun s u c r w =>
    tryX s (appendPlan s r.ctx c r.S r.T w) fun p =>
    check s (appendOk p w) .illegalInstruction fun _ =>
    let r' := { r with attns := r.attns ++ [.append (snapshot r w) p.sn] }
    if hState p.h = stResident then
      -- the run is in the state first, so that the sequence counts as being appended to
      tryX s (allocRange (s.setRun u r') r.ctx u p.sn (tokenPages p.pos p.n)) fun s' =>
      match s'.run? u with
      | some r'' => .go s' r''
      | none => .stop s' .kvCapacity
    else
      let s' := needResident (s.setRun u r') r.ctx p.sn
      match s'.run? u with
      | some r'' => .go s' r''
      | none => .stop s' .kvCapacity)

/-- Elements of one token: stored bytes of the sequence's format, with flags. -/
def tokenBytes (s : State) (cn : Nat) (c : Ctx) (t : TD) (f : Fmt) (rm i : Nat) : X (W Bytes) :=
  match mapE (fun k => match read32 s cn c t (if t.rank ≤ 1 then [k] else [k, i]) with
    | .ok x => let z := narrow f (RM.ofCode rm) x.1; .ok (toBytes f.size z.1, x.2 ||| z.2)
    | .error e => .error e) (rangeFrom 0 (t.extD 0)) with
  | .ok l => .ok ((l.map (·.1)).flatten, orFlags (l.map (·.2)))
  | .error e => .error e

/-- The writes of an append: tokens in evicted page sets are left out. A sequence that the host has written into keeps nothing that could be
relied on, and an append to it writes no page set (R240). DESIGN CHOICE: log entry 105. -/
def appendItems (s : State) (cn : Nat) (c : Ctx) (p : AppendPlan) (w : InstrWord) : List (WItem × Flags) :=
  (rangeFrom 0 p.n).flatMap (fun i =>
    let t := p.pos + i
    let one (src : TD) (f : Fmt) (off : Nat) (a : Nat) : WItem × Flags :=
      match tokenBytes s cn c src f (aRM w) i with
      | .ok b => (.ok (a + off, b.1), b.2)
      | .error e => (.error e, 0)
    match pageEntry s cn c p.q (t / 64) with
    | .error e => [(.error e, 0)]
    | .ok (a, st) =>
      if st = psEvicted ∨ p.q.forged = true then [] else
      [one p.tk (hKfmt p.h) (keyOff p.h p.hg (t % 64)) a, one p.tv (hVfmt p.h) (valOff p.h p.hg (t % 64)) a])

/-- The writes of an append, which forge nothing. -/
def appendBytes (s : State) (cn : Nat) (ws : List WItem) : State × Option CFault :=
  match plainWrites s cn ws with
  | .ok s' => (s', none)
  | .error e => (someWrites s cn ws, some e)

/-- Every page of the append has its page set, or is evicted. -/
def appendReady (s : State) (cn : Nat) (c : Ctx) (p : AppendPlan) : Bool :=
  hState p.h == stResident &&
    (tokenPages p.pos p.n).all (fun x => let st := pageState s cn c p.q x; st == psResident || st == psEvicted)

/-- Take the snapshot of a walk: the pages that the key limit reaches (R237). -/
def takeWalk (s : State) (cn : Nat) (c : Ctx) (t : TD) : X (Option Walk) :=
  match namedSeq s cn c t with
  | .error e => .error e
  | .ok (sn, q, h, _) =>
    if hState h != stResident then .ok none else
    let limit := min (nth 0 t.ext 1) (hLen h)
    match mapE (fun p => match pageEntry s cn c q p with
      | .ok e => .ok (p, e.2, e.1)
      | .error e => .error e) (rangeFrom 0 (ceilDiv limit 64)) with
    | .ok l => .ok (some { seq := sn, epoch := hEpoch h, len := hLen h, pages := l })
    | .error e => .error e

/-- The oldest ATTN instruction of a unit begins: a paged walk takes its snapshot, or the page-in it needs starts (R237). -/
def beginHead (s : State) (u : UnitId) : State :=
  match s.run? u with
  | none => s
  | some r =>
    match r.attns, s.ctx? r.ctx with
    | .attend sp none :: rest, some c =>
      if !aPAGED sp.word then s else
      match rawSlot sp.T (aTK sp.word) with
      | .error f => asyncFault s u r f sp.ix
      | .ok t =>
        match takeWalk s r.ctx c t with
        | .error f => asyncFault s u r f sp.ix
        | .ok (some w) => s.setRun u { r with attns := .attend sp (some w) :: rest }
        | .ok none =>
          match namedSeq s r.ctx c t with
          | .ok (sn, _, _, _) => needResident s r.ctx sn
          | .error f => asyncFault s u r f sp.ix
    | _, _ => s

/-- The oldest KVAPPEND of a unit completes (R236). `mismatch`: a check of its words or its arithmetic fails (R250, R365).
DESIGN CHOICE: log entry 14. -/
def execKvappendDone (u : UnitId) (mismatch : Bool) (s : State) : Res :=
  match s.run? u with
  | none => .next s
  | some r =>
    if r.phase = .held then .next s else
    match r.attns, s.ctx? r.ctx with
    | .append sp _ :: rest, some c =>
      if mismatch then .next (stopChecked s u r) else
      match appendPlan s r.ctx c sp.S sp.T sp.word with
      | .error f => .next (asyncFault s u r f sp.ix)
      | .ok p =>
        if !appendReady s r.ctx c p then
          (if hState p.h = stResident then
            match allocRange s r.ctx u p.sn (tokenPages p.pos p.n) with
            | .ok s => .next s
            | .error f => .next (asyncFault s u r f sp.ix)
          else .next (needResident s r.ctx p.sn)) else
        let items : List (WItem × Flags) := appendItems s r.ctx c p sp.word
        let ws := items.map (·.1)
        match prepareWrite s r.ctx p.q.root 64 (decide (0 < p.n)) with
        | .error f => .next (asyncFault s u r f sp.ix)
        | .ok s1 =>
          match prepareAll s1 r.ctx ws with
          | .error f => .next (asyncFault s u r f sp.ix)
          | .ok s1 =>
            if !(waitPages s1 r.ctx (.ok (p.q.root, List.replicate 64 0) :: ws)).isEmpty then .next s1 else
            match appendBytes s1 r.ctx ws with
            | (s2, some f) => .next (asyncFault s2 u r f sp.ix)
            | (s2, none) =>
              let len := max (hLen p.h) (p.pos + p.n)
              match (if p.n = 0 then .ok s2 else putBytes s2 r.ctx p.q.root (toBytes 4 len)) with
              | .error f => .next (asyncFault s2 u r f sp.ix)
              | .ok s3 =>
                .next (beginHead (s3.setRun u (({ r with attns := rest } : Run).raise (orFlags (items.map (·.2))))) u)
    | _, _ => .next s

/-! ### Events of paging (R238, R245 to R247) -/

/-- Every instruction that waited for the sequence goes on: appends allocate, walks at the head begin. -/
def resumeWaiters (s : State) (cn sn : Nat) : State :=
  s.units.foldl (fun s p =>
    match NMap.get? s.units p.1 with
    | none => s
    | some r =>
      if r.ctx != cn then s else
      let u : UnitId := { die := p.1 / 64, kind := (kindOfCode (p.1 / 16 % 4)).getD .cluster, idx := p.1 % 16 }
      let s := r.attns.foldl (fun s a => match a with
        | .append sp q =>
          if q != sn then s else
          match s.ctx? cn with
          | none => s
          | some c =>
            match appendPlan s cn c sp.S sp.T sp.word with
            | .error f => asyncFault s u r f sp.ix
            | .ok pl =>
              match allocRange s cn u sn (tokenPages pl.pos pl.n) with
              | .ok s => s
              | .error f => asyncFault s u r f sp.ix
        | _ => s) s
      beginHead s u) s

/-- Whatever a sequence's page-out or page-in does next; one that has no swapped page set left is resident (R232). -/
def kvContinue (s : State) (cn sn : Nat) : State :=
  let st := seqState s cn sn
  let s :=
    if st = stOut then
      let s := outNext s cn sn
      if seqState s cn sn = stOut then s else
      match s.seq? cn sn with
      | some (_, q) =>
        if q.pageInWanted then needResident (s.modSeq cn sn (fun q => { q with pageInWanted := false })) cn sn else s
      | none => s
    else if st = stIn then inNext s cn sn
    else
      match s.seq? cn sn with
      | some (c, q) => if st = stSwapped ∧ (pagesIn s cn c q psSwapped).isEmpty = true then setSeqState s cn q stResident else s
      | none => s
  if st != stResident && seqState s cn sn == stResident then resumeWaiters s cn sn else s

/-- A freed slot goes to the oldest waiting request (R245). -/
def grantSlot (s : State) (cn : Nat) : State :=
  match s.ctx? cn with
  | none => s
  | some c =>
    match c.kv.free, c.kv.waiting with
    | a :: fr, (u, sn, p) :: wr =>
      let s := s.modKv cn (fun k => { k with free := fr, waiting := wr })
      let s := match u with
        | none => startFetch s cn sn p a
        | some u =>
          match allocPage s cn sn p a with
          | .ok s => s
          | .error f => (match s.run? u with
            | some r => unitFault s u r f (pcIndex r)
            | none => s)
      kvPressure s cn
    | _, _ => kvPressure s cn

def execKvSlotGrant (ctx : Nat) (s : State) : Res := .next (grantSlot s ctx)

/-- Leaves and slots that no walker of an older epoch reaches are free (R238). -/
def execLeafFree (ctx seq : Nat) (s : State) : Res :=
  match s.seq? ctx seq with
  | none => .next s
  | some (_, q) =>
    let old := walkerEpochs s ctx seq
    let held (f : Word64 × Bool × Nat) : Bool := old.any (fun e => decide (e < f.1))
    let stay := q.freeing.filter held
    let slots := (q.freeing.filter (fun f => !(held f) && !f.2.1)).map (fun f => f.2.2)
    .next (slots.foldl (fun s a => returnSlot s ctx seq a) (s.modSeq ctx seq (fun q => { q with freeing := stay })))

/-- The host has acknowledged the copy of a page set: it is swapped, its slot free once older walkers have ended (R246). -/
def execPageSetSwapped (ctx seq page : Nat) (s : State) : Res :=
  match s.seq? ctx seq with
  | none => .next s
  | some (c, q) =>
    match pageEntry s ctx c q page, hostLink s c with
    | .ok (a, st), some _ =>
      if st != psCopying || unsent s ctx || spareHeld q page || decide (q.maxLp ≤ page) then .next s else
      match readBytes s ctx c a (2 ^ c.kv.n), seqHeader s ctx c q with
      | .ok bs, .ok h =>
        let s : State := { s with swap := ((ctx, seq, page), bs) :: s.swap.filter (fun p => p.1 != (ctx, seq, page)) }
        let s := leafEdit s ctx seq page 0 psSwapped
        let s := fwAdd s ctx (q.root + 24) (-1)
        let s := s.modSeq ctx seq (fun q => { q with freeing := q.freeing ++ [(hEpoch h + 1, false, a)] })
        .next (kvContinue s ctx seq)
      | _, _ => .next s
    | _, _ => .next s

/-- A fetched page set: verified, it is resident again; else it is read again (R247, R295). DESIGN CHOICE: log entry 12. -/
def execPageSetResident (ctx seq page : Nat) (ok : Bool) (s : State) : Res :=
  match s.seq? ctx seq with
  | none => .next s
  | some (c, q) =>
    match pageEntry s ctx c q page, hostLink s c with
    | .ok (a, st), some _ =>
      if st != psFetching || spareHeld q page || !ok || decide (q.maxLp ≤ page) then .next s else
      let bs := ((s.swap.find? (fun p => p.1 == (ctx, seq, page))).map (·.2)).getD []
      let s := fwWrite s ctx a bs
      let s := leafEdit s ctx seq page a psResident
      let s := fwAdd s ctx (q.root + 24) 1
      let s : State := { s with swap := s.swap.filter (fun p => p.1 != (ctx, seq, page)) }
      .next (kvContinue s ctx seq)
    | _, _ => .next s

/-! ### Boundary work (R239, R242, R243) -/

/-- A page set leaves its sequence: its slot, if it holds one, returns to the pool and RESID falls. -/
def dropPage (s : State) (cn sn p ps : Nat) : State :=
  match s.seq? cn sn with
  | none => s
  | some (c, q) =>
    match pageEntry s cn c q p with
    | .error _ => s
    | .ok (a, st) =>
      if st = psAbsent ∨ st = psEvicted then s else
      let s := setEntry s cn q p 0 ps
      let s := if st = psSwapped then s else returnSlot s cn sn a
      let s := if st = psResident ∨ st = psCopying then fwAdd s cn (q.root + 24) (-1) else s
      let s := s.modKv cn (fun k => { k with waiting := k.waiting.filter (fun w => !(w.1.isNone && w.2 == (sn, p))) })
      { s with swap := s.swap.filter (fun x => x.1 != (cn, sn, p)) }

/-- Step 4 of a boundary evicts the page sets marked at the last one (R243). -/
def evictMarked (s : State) (cn : Nat) : State :=
  match s.ctx? cn with
  | none => s
  | some c =>
    c.seqs.foldl (fun s q =>
      if q.2.marked.isEmpty then s else
      let s := q.2.marked.foldl (fun s p => dropPage s cn q.1 p psEvicted) s
      kvContinue (s.modSeq cn q.1 (fun q => { q with marked := [] })) cn q.1) s

/-- One page's decayed score (R243). -/
def decayScore (decay score : Bits32) (acc : Nat) : Bits32 :=
  let a : FV := fp (BitVec.ofNat 32 (roundF .fp32 .rne (.fin false acc 0)).1)
  (rne false ((fp (fmul .rne decay score).1).add (a.scale (-32)))).1

/-- Selection after the commit for one sequence. -/
def selectSeq (s : State) (cn sn : Nat) : State :=
  match s.seq? cn sn with
  | none => s
  | some (c, q) =>
    match seqHeader s cn c q with
    | .error _ => s
    | .ok h =>
      if hBudget h = 0 ∨ hState h ≠ stResident then s else
      let res := pagesIn s cn c q psResident
      let (s, elig) := res.foldl (fun (p : State × List (Nat × Bits32)) lp =>
        match readNat p.1 cn c (scoreVa q.root lp) 16 with
        | .error _ => p
        | .ok x =>
          let sc := decayScore (hDecay h) (BitVec.ofNat 32 (field x 95 64)) (field x 63 0)
          let g := field x 97 96 - 1
          let s := fwWrite p.1 cn (scoreVa q.root lp) (toBytes 16 (sc.toNat * 2 ^ 64 + g * 2 ^ 96))
          let ok := g == 0 && (fp sc).lt (fp (hThresh h)) && decide (hPfirst h ≤ lp) && decide (lp + hPrecent h < ceilDiv (hLen h) 64)
          (s, if ok then p.2 ++ [(lp, sc)] else p.2)) (s, [])
      let n := hResid h - hBudget h
      let marks := ((sortBy (fun (a b : Nat × Bits32) => (fp a.2).lt (fp b.2)) elig).take n).map (·.1)
      s.modSeq cn sn (fun q => { q with marked := marks })

def selectEvictions (s : State) (cn : Nat) : State :=
  match s.ctx? cn with
  | none => s
  | some c => c.seqs.foldl (fun s q => selectSeq s cn q.1) s

/-- Drop every page set at or beyond a logical page. -/
def dropFrom (s : State) (cn sn first : Nat) : State :=
  match s.seq? cn sn with
  | none => s
  | some (_, q) =>
    (rangeFrom first (q.maxLp - first)).foldl (fun s p =>
      match s.seq? cn sn with
      | none => s
      | some (c, q) =>
        if pageState s cn c q p = psEvicted then setEntry s cn q p 0 psAbsent else dropPage s cn sn p psAbsent) s

/-! ### Replay and resets (R248, R249) -/

/-- Page sets allocated in an aborted epoch return to the pool and their entries to absent, while the directory of that epoch still stands. -/
def kvRestore (s : State) (cn : Nat) (alloc : List (Nat × Nat)) : State :=
  let s := s.modKv cn (fun k => { k with waiting := k.waiting.filter (fun w => w.1.isNone) })
  alloc.foldl (fun s a =>
    match s.seq? cn a.1 with
    | none => s
    | some (c, q) =>
      match pageEntry s cn c q a.2 with
      | .error _ => s
      | .ok (slot, st) =>
        if st = psAbsent then s else
        let s := setEntry s cn q a.2 0 psAbsent
        let s := if st = psSwapped then s else returnSlot s cn a.1 slot
        -- RESID of the boundary never counted the page set; a page-out has counted it down
        let s := if st = psSwapped ∨ st = psFetching then fwAdd s cn (q.root + 24) 1 else s
        let s := s.modKv cn (fun k => { k with waiting := k.waiting.filter (fun w => !(w.2 == (a.1, a.2))) })
        let s : State := { s with swap := s.swap.filter (fun x => x.1 != (cn, a.1, a.2)) }
        kvContinue s cn a.1) s

/-- After a reset that keeps memory, or the loss of the host's link: transfers in progress are undone (R248). -/
def kvHalt (s : State) (cn : Nat) : State :=
  match s.ctx? cn with
  | none => s
  | some c =>
    let s := s.modKv cn (fun k => { k with waiting := k.waiting.filter (fun w => w.1.isSome) })
    c.seqs.foldl (fun s x =>
      let st := seqState s cn x.1
      if st = stOut ∨ st = stIn then
        let q := x.2
        let s := (pagesIn s cn c q psCopying).foldl (fun s p =>
          match pageEntry s cn c q p with
          | .ok (a, _) => setEntry s cn q p a psResident
          | .error _ => s) s
        let s := (pagesIn s cn c q psFetching).foldl (fun s p =>
          match pageEntry s cn c q p with
          | .ok (a, _) => returnSlot (setEntry s cn q p 0 psSwapped) cn x.1 a
          | .error _ => s) s
        let s := setSeqState s cn q (if (pagesIn s cn c q psSwapped).isEmpty then stResident else stSwapped)
        s.modSeq cn x.1 (fun q => { q with pageInWanted := false })
      else s) s

end Sys2Proof.Machine
end

