-- ==== Sys2Proof/Machine/Attn.lean ====
section
/-!
DEFINITION. ATTEND: the checks at issue, the masks, the pass, the row results and the eviction sweep (R86, R215 to R228, R241, R244, R251).
-/

namespace Sys2Proof.Machine

/-- Formats of queries, keys and values (R222). -/
def isQkv (f : Fmt) : Bool := f == .e4m3 || f == .e5m2 || f == .bf16 || f == .fp16

/-- Query blocks that fit in staging (R222). -/
def gMax (d dv : Nat) (q : Fmt) : Nat := min 16 (1835008 / (128 * (d * q.size + 4 * dv + 8)))

/-- What an ATTEND works on. -/
structure AttnPlan where
  tq : TD
  tk : TD
  tv : TD
  out : TD
  tl : Nat
  tm : Option TD
  d : Nat
  dv : Nat
  rows : Nat
  /-- key limit -/
  limit : Nat
  /-- paged: header and head group -/
  hdr : Nat
  hg : Nat
  root : Nat
  sq : Nat
  sw : Nat
  ss : Bits32
deriving DecidableEq, Repr

/-- Keys and values: a sequence by its root, or two tensors. -/
def kvOperands (s : State) (cn : Nat) (c : Ctx) (T : List (Option (BitVec 512))) (w : InstrWord) (walk : Option Walk) :
    X (TD × TD × Nat × Nat × Nat × Nat × Nat × Nat) :=
  if aPAGED w then
    match fmtSlot T (aTK w) with
    | .error e => .error e
    | .ok tk =>
      match namedSeq s cn c tk with
      | .error e => .error e
      | .ok (_, q, h, g) =>
        let len := match walk with
          | some x => x.len
          | none => hLen h
        if tk.fmtCode = (hKfmt h).code ∧ nth 0 tk.ext 0 = hD h then
          .ok (tk, tk, hD h, hDv h, min (nth 0 tk.ext 1) len, h, g, q.root)
        else .error .illegalInstruction
  else
    match vecSource s cn c T (aTK w), vecSource s cn c T (aTV w) with
    | .error e, _ => .error e
    | _, .error e => .error e
    | .ok tk, .ok tv =>
      if isQkv tk.fmt && isQkv tv.fmt && tv.extD 1 == tk.extD 1 && decide (tk.extD 1 ≤ 2 ^ 23) && flatBeyond1 tk && flatBeyond1 tv then
        .ok (tk, tv, tk.extD 0, tv.extD 0, tk.extD 1, 0, 0, 0)
      else .error .illegalInstruction

/-- Address of the row records when they are written; a compressed TL is refused (R222, R300). -/
def recordSlot (T : List (Option (BitVec 512))) (w : InstrWord) : X Nat :=
  if aLSEEN w then
    match fmtSlot T (aTL w) with
    | .error e => .error e
    | .ok t => if t.cmp = 0 then .ok t.base else .error .illegalInstruction
  else .ok 0

/-- Operands of an ATTEND. -/
def attnPlan (s : State) (cn : Nat) (c : Ctx) (S : List Word64) (T : List (Option (BitVec 512))) (w : InstrWord) (walk : Option Walk) :
    X AttnPlan :=
  match kvOperands s cn c T w walk, vecSource s cn c T (aTQ w), vecDest T (aTO w) (aRM w), recordSlot T w,
    (if aMASK w = 4 then (vecSource s cn c T (aTM w)).map some else .ok none) with
  | .ok (tk, tv, d, dv, limit, hdr, hg, root), .ok tq, .ok od, .ok tl, .ok tm =>
    .ok { tq := tq, tk := tk, tv := tv, out := od, tl := tl, tm := tm, d := d, dv := dv, rows := tq.extD 1, limit := limit, hdr := hdr,
          hg := hg, root := root, sq := (sreg S (aSQ w)).toNat, sw := (sreg S (aSW w)).toNat, ss := sreg32 S (aSS w) }
  | .error e, _, _, _, _ => .error e
  | _, .error e, _, _, _ => .error e
  | _, _, .error e, _, _ => .error e
  | _, _, _, .error e, _ => .error e
  | _, _, _, _, .error e => .error e

/-- The checks of R223 and R241. -/
def attnOk (p : AttnPlan) (w : InstrWord) : Bool :=
  p.tq.extD 0 == p.d && decide (1 ≤ p.d) && decide (p.d ≤ 256) && decide (1 ≤ p.dv) && decide (p.dv ≤ 256) &&
    p.out.extD 0 == p.dv && p.out.extD 1 == p.rows && isQkv p.tq.fmt && (isQkv p.out.fmt || p.out.fmt == .fp32) &&
    decide (p.rows ≤ 128 * gMax p.d p.dv p.tq.fmt) && decide (p.sq + p.rows ≤ 2 ^ 23) &&
    (!(aMASK w == 2 || aMASK w == 3) || (decide (1 ≤ p.sw) && decide (p.sw ≤ 2 ^ 23))) &&
    (match p.tm with
     | none => true
     | some m => m.fmt == .uint8 && decide (ceilDiv p.limit 8 ≤ m.extD 0) && decide (p.rows ≤ m.extD 1) && flatBeyond1 m) &&
    !(isNan32 p.ss) && flatBeyond1 p.tq && flatBeyond1 p.out && (!(aEVS w) || aPAGED w)

/-- MASK values 0b101 to 0b111 are reserved (R86). -/
def attnStatic (_ : UnitKind) (w : InstrWord) : Bool := decide (aMASK w ≤ 4)

/-! ### Vectors -/

/-- Index tuple of element k of position t. -/
def vecIx (t : TD) (k i : Nat) : List Nat := if t.rank ≤ 1 then [k] else [k, i]

/-- A vector of a tensor as products take it: stored bits, scale exponents, flags (R163). -/
def tensorVec (s : State) (cn : Nat) (c : Ctx) (t : TD) (n i : Nat) : X (List Operand) :=
  mapE (fun k => match readScaled s cn c t (vecIx t k i) with
    | .ok (b, e) => .ok { fmt := t.fmt, bits := b, exp := e, flags := nanFlag t.fmt b }
    | .error e => .error e) (rangeFrom 0 n)

def bytesVec (f : Fmt) (bs : Bytes) : List Operand :=
  (pieces f.size bs).map (fun b => { fmt := f, bits := ofBytes b, exp := 0, flags := nanFlag f (ofBytes b) })

/-- Slot of a position's page set in a walk: none when it is evicted, or absent (which only a host's own writes cause, R240). -/
def walkEntry (w : Walk) (k : Nat) : Nat × Nat :=
  match w.pages.find? (fun p => p.1 == k / 64) with
  | some (_, st, a) => (st, a)
  | none => (psAbsent, 0)

/-- A vector of a page set; what an absent page set reads as is a free value. -/
def pagedVec (s : State) (cn : Nat) (c : Ctx) (w : Walk) (f : Fmt) (off n k : Nat) : X (List Operand) :=
  let e := walkEntry w k
  if e.1 = psAbsent then .ok (bytesVec f ((rangeFrom (k * 512) (n * f.size)).map (Config.freeByte s.freeIx)))
  else
    match readBytes s cn c (e.2 + off) (n * f.size) with
    | .ok b => .ok (bytesVec f b)
    | .error e => .error e

def keyVec (s : State) (cn : Nat) (c : Ctx) (p : AttnPlan) (walk : Option Walk) (k : Nat) : X (List Operand) :=
  match walk with
  | none => tensorVec s cn c p.tk p.d k
  | some w => pagedVec s cn c w (hKfmt p.hdr) (keyOff p.hdr p.hg (k % 64)) p.d k

def valueVec (s : State) (cn : Nat) (c : Ctx) (p : AttnPlan) (walk : Option Walk) (k : Nat) : X (List Operand) :=
  match walk with
  | none => tensorVec s cn c p.tv p.dv k
  | some w => pagedVec s cn c w (hVfmt p.hdr) (valOff p.hdr p.hg (k % 64)) p.dv k

/-! ### Masks (R224) -/

/-- A key position is masked for a row, given the row's bitmap as a number. -/
def maskedKey (p : AttnPlan) (mask : Nat) (walk : Option Walk) (bitmap i k : Nat) : Bool :=
  let q := p.sq + i
  decide (p.limit ≤ k) ||
    (match walk with
     | some w => (walkEntry w k).1 == psEvicted
     | none => false) ||
    (if mask = 1 then decide (q < k)
     else if mask = 2 then decide (q / p.sw < k / p.sw)
     else if mask = 3 then decide (q < k) || decide (k + p.sw ≤ q)
     else if mask = 4 then !(bitAt bitmap k)
     else false)

/-- Bits of a row's bitmap up to the key limit. -/
def rowBitmap (s : State) (cn : Nat) (c : Ctx) (p : AttnPlan) (i : Nat) : X Nat :=
  match p.tm with
  | none => .ok 0
  | some m =>
    match mapE (fun e => readElem s cn c m (vecIx m e i)) (rangeFrom 0 (ceilDiv p.limit 8)) with
    | .ok l => .ok (ofBytes (l.map (BitVec.ofNat 8)))
    | .error e => .error e

/-! ### The pass (R226) -/

/-- A row between key blocks. -/
structure RowSt where
  i : Nat
  q : List Operand
  bitmap : Nat
  m : Bits32
  l : Bits32
  o : List Bits32
  seen : Bool
  nonfin : Bool
  flags : Flags
  /-- scores by key, for the sweep -/
  scores : List (Nat × Bits32)
deriving DecidableEq, Repr

/-- -2^127, the value of a masked score (R215). -/
def maskScore : Bits32 := 0xFF000000

def RowSt.start (i dv : Nat) (q : List Operand) (bitmap : Nat) : RowSt :=
  { i := i, q := q, bitmap := bitmap, m := maskScore, l := 0, o := List.replicate dv 0, seen := false, nonfin := false, flags := 0,
    scores := [] }

/-- The fixed copies of images 0, 2 and 3 (R209). -/
def fixedExp (x : Bits32) : W Bits32 := lookupBuiltin 0 x false
def fixedLog (x : Bits32) : W Bits32 := lookupBuiltin 2 x false
def fixedRecip (x : Bits32) : W Bits32 := lookupBuiltin 3 x false

/-- A key that a row sees: position, its vector and its value's vector. -/
structure SeenKey where
  k : Nat
  key : List Operand
  val : List Operand
deriving DecidableEq, Repr

/-- s[k] = rne(dot(q, key) * ss). -/
def score (q : List Operand) (ss : Bits32) (x : SeenKey) : W Bits32 :=
  let d := dotFloat 0 (q.zip x.key)
  let z := fmul .rne d.1 ss
  (z.1, d.2 ||| z.2 ||| orFlags (q.map (·.flags)) ||| orFlags (x.key.map (·.flags)))

/-- One probability as its BF16 bits. -/
def probBits (mb : Bits32) (sc : Bits32) : W Nat :=
  let d := fsub .rne sc mb
  let e := fixedExp d.1
  let b := roundF .bf16 .rne (fp e.1)
  (b.1, d.2 ||| e.2 ||| b.2)

/-- Leaf of a key position in the value product: +0.0 when it is masked. -/
def valueLeaf (ps : List (SeenKey × Nat)) (dd pos : Nat) : W Bits32 :=
  match ps.find? (fun p => p.1.k % 128 == pos) with
  | none => (0, 0)
  | some (x, b) =>
    match x.val[dd]? with
    | none => (0, 0)
    | some v =>
      let z := product v.exp (decodeF .bf16 b) v.val
      (z.1, z.2 ||| v.flags)

/-- One key block for one row: `ks` are its unmasked keys. -/
def rowBlock (ss : Bits32) (ks : List SeenKey) (r : RowSt) : RowSt :=
  let sc := gatherW (ks.map (score r.q ss))
  let mb := sc.1.foldl fmax r.m
  let dm := fsub .rne r.m mb
  let alpha := fixedExp dm.1
  let pb := gatherW (sc.1.map (probBits mb))
  let ps := ks.zip pb.1
  let leaf (pos : Nat) : Bits32 := match ps.find? (fun p => p.1.k % 128 == pos) with
    | some p => widen .bf16 p.2
    | none => 0
  let lb := sum45 ((rangeFrom 0 128).map leaf)
  let la := fmul .rne r.l alpha.1
  let l := fadd .rne la.1 lb.1
  let cols := gatherW (((rangeFrom 0 r.o.length).zip r.o).map (fun x =>
    let lv := gatherW ((rangeFrom 0 128).map (valueLeaf ps x.1))
    let pv := reduce41 0 lv.1
    let oa := fmul .rne x.2 alpha.1
    let y := fadd .rne oa.1 pv.1
    (y.1, lv.2 ||| pv.2 ||| oa.2 ||| y.2)))
  { r with m := mb, l := l.1, o := cols.1, seen := r.seen || !ks.isEmpty,
           nonfin := r.nonfin || sc.1.any (fun x => isNan32 x || x == inf32),
           flags := r.flags ||| sc.2 ||| dm.2 ||| alpha.2 ||| pb.2 ||| lb.2 ||| la.2 ||| l.2 ||| cols.2,
           scores := r.scores ++ (ks.map (·.k)).zip sc.1 }

/-- Unmasked keys of key block j for a row. -/
def rowKeys (p : AttnPlan) (mask : Nat) (walk : Option Walk) (j : Nat) (r : RowSt) : List Nat :=
  (rangeFrom (128 * j) 128).filter (fun k => !(maskedKey p mask walk r.bitmap r.i k))

/-- Key block j for one query block: skipped when no row sees a key of it (R225). -/
def groupBlock (s : State) (cn : Nat) (c : Ctx) (p : AttnPlan) (mask : Nat) (walk : Option Walk) (j : Nat) (rs : List RowSt) :
    X (List RowSt) :=
  if rs.all (fun r => (rowKeys p mask walk j r).isEmpty) then .ok rs else
  mapE (fun r =>
    match mapE (fun k =>
      match keyVec s cn c p walk k, valueVec s cn c p walk k with
      | .ok x, .ok v => .ok { k := k, key := x, val := v }
      | .error e, _ => .error e
      | _, .error e => .error e) (rowKeys p mask walk j r) with
    | .ok ks => .ok (rowBlock p.ss ks r)
    | .error e => .error e) rs

/-- The rows of one query block before the first key block. -/
def startRows (s : State) (cn : Nat) (c : Ctx) (p : AttnPlan) (g : Nat) : X (List RowSt) :=
  mapE (fun i =>
    match tensorVec s cn c p.tq p.d i, rowBitmap s cn c p i with
    | .ok q, .ok b => .ok (RowSt.start i p.dv q b)
    | .error e, _ => .error e
    | _, .error e => .error e) (rangeFrom (128 * g) (min 128 (p.rows - 128 * g)))

/-- The whole pass: every query block over the key blocks in ascending order. -/
def attnPass (s : State) (cn : Nat) (c : Ctx) (p : AttnPlan) (mask : Nat) (walk : Option Walk) : X (List RowSt) :=
  match mapE (fun g =>
    match startRows s cn c p g with
    | .error e => .error e
    | .ok rs => foldE (fun rs j => groupBlock s cn c p mask walk j rs) rs (rangeFrom 0 (ceilDiv p.limit 128)))
    (rangeFrom 0 (ceilDiv p.rows 128)) with
  | .ok l => .ok l.flatten
  | .error e => .error e

/-! ### Row results (R216, R217, R227) -/

/-- A finished row: output bits, row record, flags, and the reciprocal when it has one. -/
structure RowOut where
  i : Nat
  outs : List Nat
  rcd : Nat
  flags : Flags
  recip : Option Bits32
deriving DecidableEq, Repr

def attnRecord (lse : Bits32) (masked zsum nonfin : Bool) : Nat :=
  lse.toNat + (if masked then 2 ^ 32 else 0) + (if zsum then 2 ^ 33 else 0) + (if nonfin then 2 ^ 34 else 0)

def finishRow (f : Fmt) (rm : RM) (r : RowSt) : RowOut :=
  let nonfin := r.nonfin || !(fp r.l).isFinite
  let plusZero := (roundF f rm (.fin false 0 0)).1
  if !r.seen then
    { i := r.i, outs := r.o.map (fun _ => plusZero), rcd := attnRecord ninf32 true false false, flags := 0, recip := none }
  else if (fp r.l).isZero then
    { i := r.i, outs := r.o.map (fun _ => plusZero), rcd := attnRecord ninf32 false true nonfin, flags := r.flags, recip := none }
  else
    let rc := fixedRecip r.l
    let outs := gatherW (r.o.map (fun x =>
      let y := fmul .rne x rc.1
      let z := narrow f rm y.1
      (z.1, y.2 ||| z.2)))
    let lg := fixedLog r.l
    let lse := fadd .rne r.m lg.1
    { i := r.i, outs := outs.1, rcd := attnRecord lse.1 false false nonfin,
      flags := r.flags ||| rc.2 ||| outs.2 ||| lg.2 ||| lse.2, recip := some rc.1 }

/-- Outputs and record of a row. -/
def rowItems (p : AttnPlan) (w : InstrWord) (r : RowOut) : List WItem :=
  ((rangeFrom 0 r.outs.length).zip r.outs).map (fun x => .ok (elemWrite p.out (vecIx p.out x.1 r.i) x.2)) ++
    (if aLSEEN w then [.ok (wrap 48 ((p.tl + 8 * r.i : Nat) : Int), toBytes 8 r.rcd)] else [])

/-! ### The eviction sweep (R241) -/

/-- Sum of one row's final probabilities over a page's 64 tokens. -/
def rowPageSum (r : RowSt) (rc : Bits32) (page : Nat) : Bits32 :=
  let at64 (t : Nat) : Bits32 := match r.scores.find? (fun x => x.1 == 64 * page + t) with
    | some x => (fmul .rne (fixedExp (fsub .rne x.2 r.m).1).1 rc).1
    | none => 0
  (sum45 ((rangeFrom 0 64).map at64)).1

/-- The page's total as a 64-bit integer with 32 fraction bits. -/
def massInt (t : Bits32) : Nat :=
  match fp t with
  | .nan => 0
  | .inf neg => if neg then 0 else 2 ^ 64 - 1
  | .fin neg m e =>
    if neg then 0 else
    let x := if 0 ≤ e + 32 then m <<< (e + 32).toNat else m >>> (-(e + 32)).toNat
    min x (2 ^ 64 - 1)

def pageMass (rows : List (RowSt × RowOut)) (page : Nat) : Nat :=
  massInt (rows.foldl (fun t x => match x.2.recip with
    | some rc => (fadd .rne t (rowPageSum x.1 rc page)).1
    | none => t) 0)

/-- Pages of the key blocks that some query block visited. -/
def sweepPages (p : AttnPlan) (rows : List RowSt) : List Nat :=
  (rangeFrom 0 (ceilDiv p.limit 64)).filter (fun pg => rows.any (fun r => r.scores.any (fun x => x.1 / 128 == pg / 2)))

/-- The saturating adds to ACC. -/
def addMass (s : State) (cn root : Nat) (l : List (Nat × Nat)) : X State :=
  foldE (fun s x =>
    match s.ctx? cn with
    | none => .error .partition
    | some c =>
      match readNat s cn c (scoreVa root x.1) 8 with
      | .error e => .error e
      | .ok a => countedWrite s cn (scoreVa root x.1) (toBytes 8 (min (a + x.2) (2 ^ 64 - 1)))) s l

/-! ### The end of the pass -/

/-- Shadows for the pages of ACC adds. -/
def prepareMass (s : State) (cn root : Nat) (l : List (Nat × Nat)) : X State :=
  foldE (fun s x => prepareWrite s cn (scoreVa root x.1) 8 true) s l

def massItems (root : Nat) (l : List (Nat × Nat)) : List WItem := l.map (fun x => .ok (scoreVa root x.1, toBytes 8 0))

/-- The score product of a query block against the keys below the limit, as its array reduces it (R133, R250). -/
def scorePass (s : State) (cn : Nat) (c : Ctx) (p : AttnPlan) (walk : Option Walk) (g : Nat) : X (List ArrayPass) :=
  match mapE (fun i => tensorVec s cn c p.tq p.d i) (rangeFrom (128 * g) (min 128 (p.rows - 128 * g))),
      mapE (fun k => keyVec s cn c p walk k) (rangeFrom 0 p.limit) with
  | .ok qs, .ok ks => .ok (arrayPasses .float false qs ks)
  | .error e, _ => .error e
  | _, .error e => .error e

/-- ATTEND: checks, and a place in the ATTN group; the walk begins when it is the unit's oldest (R223, R237). `detect`: the check
column signals a detection in its pass, and nothing of the instruction goes further (R153, R250, R365). DESIGN CHOICE: log entry 10. -/
def execAttend (u : UnitId) (detect : Bool) (s : State) : Res :=
  issue s u clATTN 0x00 attnStatic (fun s u c r w =>
    tryX s (attnPlan s r.ctx c r.S r.T w none) fun p =>
    check s (attnOk p w) .illegalInstruction fun _ =>
    let walk := match (if aPAGED w then takeWalk s r.ctx c p.tk else .ok none) with
      | .ok x => x
      | .error _ => none
    if detect && (rangeFrom 0 (ceilDiv p.rows 128)).any (fun g => checkable (fun _ => scorePass s r.ctx c p walk g)) then
      .jump (stopChecked s u r) { r with phase := .held }
    else
      let s' := beginHead (s.setRun u { r with attns := r.attns ++ [.attend (snapshot r w) none] }) u
      match s'.run? u with
      | some r' => .go s' r'
      | none => .stop s' .partition)

/-- The sequence that a walk reads was written into by its host: what it gives is unpredictable (R240). DESIGN CHOICE: log entry 105. -/
def walkForged (c : Ctx) (walk : Option Walk) : Bool :=
  match walk with
  | none => false
  | some w => ((NMap.get? c.seqs w.seq).map (·.forged)).getD false

/-- The oldest ATTEND of a unit ends its pass: outputs, row records, ACC (R227, R241). `mismatch`: a check of its arithmetic or its words
fails (R250, R365). DESIGN CHOICE: log entry 14. -/
def execAttendPassEnd (u : UnitId) (mismatch : Bool) (s : State) : Res :=
  match s.run? u with
  | none => .next s
  | some r =>
    if r.phase = .held then .next s else
    match r.attns, s.ctx? r.ctx with
    | .attend sp walk :: rest, some c =>
      let w := sp.word
      if aPAGED w && walk.isNone then .next (beginHead s u) else
      if mismatch then .next (stopChecked s u r) else
      match attnPlan s r.ctx c sp.S sp.T w walk with
      | .error f => .next (asyncFault s u r f sp.ix)
      | .ok p =>
        match attnPass s r.ctx c p (aMASK w) walk with
        | .error f => .next (asyncFault s u r f sp.ix)
        | .ok rows =>
          let outs := rows.map (finishRow p.out.fmt (RM.ofCode (aRM w)))
          let loose := walkForged c walk || p.out.aliased
          let items := outs.flatMap (rowItems p w)
          let ws := if loose then freeItems s.freeIx items else items
          let mass := if aEVS w then (sweepPages p rows).map (fun pg =>
            (pg, if loose then Config.freeNat s.freeIx pg % 2 ^ 64 else pageMass (rows.zip outs) pg)) else []
          match (match prepareAll s r.ctx ws with
            | .ok s1 => prepareMass s1 r.ctx p.root mass
            | .error f => .error f) with
          | .error f => .next (asyncFault (someWrites s r.ctx ws) u r f sp.ix)
          | .ok s1 =>
            if !(waitPages s1 r.ctx (ws ++ massItems p.root mass)).isEmpty then .next s1 else
            match runBytes s1 r.ctx ws with
            | (s2, some f) => .next (asyncFault s2 u r f sp.ix)
            | (s2, none) =>
              match addMass s2 r.ctx p.root mass with
              | .error f => .next (asyncFault s2 u r f sp.ix)
              | .ok s3 =>
                let s3 := if loose then s3.tick else s3
                .next (beginHead (s3.setRun u (({ r with attns := rest } : Run).raise (orFlags (outs.map (·.flags))))) u)
    | _, _ => .next s

end Sys2Proof.Machine
end

