-- ==== Sys2Proof/Machine/Accord.lean ====
section
/-!
DEFINITION. Accord items of context scope: form checks, checks at the commit instant, and their effects (R126 to R131, R212, R239, R242, R282, R283, R313, R314, R454, R460, R461, R464).
-/

namespace Sys2Proof.Machine

/-- Bits [hi:lo] of an item's VALUE. -/
def iv (i : ItemBits) (hi lo : Nat) : Nat := field (iValue i) hi lo

/-- First reason of a list that is not zero. -/
def firstReason (l : List Nat) : Nat := (l.find? (fun r => r != 0)).getD 0

/-- A reason when a condition is broken. -/
def refuseIf (b : Bool) (r : Nat) : Nat := if b then r else 0

/-! ### Item types and scopes (R128) -/

def knownType (t : Nat) : Bool := (decide (1 ≤ t) && decide (t ≤ 8)) || t == 0x100 || t == 0x101 || t == 0x102

/-- Scope an item type belongs to: 0 context, 1 stream, 2 module. -/
def typeScope (t : Nat) : Nat := if t ≤ 7 then 0 else if t = 8 then 1 else 2

/-! ### Layouts -/

def xOp (i : ItemBits) : Nat := iv i 7 0
def xVpage (i : ItemBits) : Nat := iv i 34 8
def xCount (i : ItemBits) : Nat := iv i 50 35 + 1
def xTier (i : ItemBits) : Nat := iv i 52 51
def xLdie (i : ItemBits) : Nat := iv i 57 53
def xRdo (i : ItemBits) : Bool := bitAt (iValue i) 58

def isFloatFmt (c : Nat) : Bool :=
  match Fmt.ofCode c with
  | some f => !f.isInt
  | none => false

/-- MODE and KINT of a compressed tensor agree (R314). -/
def kintOk (mode kint : Nat) : Bool := kint != 0 && kint != 7 && (mode != 1 || kint == 1)

/-! ### The form check of one context-scope item (R464) -/

def formTarget (i : ItemBits) : Nat :=
  let t := iTarget i
  match iType i with
  | 1 => refuseIf (decide (7 < t)) 3
  | 2 => refuseIf (decide (4095 < t)) 3
  | 3 => refuseIf (decide (4095 < t)) 3
  | 4 => refuseIf (if iv i 7 0 = 5 then t != 0xFFFFFFFF else decide (4095 < t) && !(t == 0xFFFFFFFF && decide (5 < iv i 7 0))) 3
  | 5 => refuseIf (if iv i 7 0 = 4 then t != 0 else decide (4095 < t)) 3
  | 6 => refuseIf (t != 0) 3
  | 7 => refuseIf (decide (63 < t)) 3
  | _ => 0

/-- An FP32 value from 0 to 1. -/
def unitRange (x : Bits32) : Bool := !(fp x).isNan && !((fp x).lt (.fin false 0 0)) && !((FV.fin false 1 0).lt (fp x))

/-- Reason for the value of an item whose type and target are legal; 0 when it passes. DEDUCED: log entry 43. -/
def formValue (i : ItemBits) : Nat :=
  let v := iValue i
  match iType i with
  | 1 => refuseIf (v >>> 1 != 0) 4
  | 2 => refuseIf (decide (1 < iv i 1 0)) 4
  | 3 =>
    let th : Bits32 := BitVec.ofNat 32 (iv i 63 32)
    refuseIf (!(unitRange (BitVec.ofNat 32 (iv i 31 0))) || !(fp th).isFinite || (fp th).lt (.fin false 0 0)) 4
  | 4 =>
    let op := iv i 7 0
    if op = 1 then
      let mode := iv i 119 118
      refuseIf (v >>> 123 != 0 || mode == 0 || !(kintOk mode (iv i 122 120)) || (mode == 3 && !(isFloatFmt (iv i 117 110))) ||
        (Fmt.ofCode (iv i 117 110)).isNone) 4
    else if op = 2 ∨ op = 3 then refuseIf (v >>> 8 != 0) 4
    else if op = 4 then refuseIf (v >>> 11 != 0 || iv i 10 8 == 0 || iv i 10 8 == 7) 4
    else if op = 5 then refuseIf (v >>> 72 != 0 || iv i 28 8 != 0) 4
    else 4
  | 5 =>
    let op := iv i 7 0
    if op = 1 then refuseIf (v >>> 101 != 0 || iv i 19 8 != 0) 4
    else if op = 2 ∨ op = 5 then refuseIf (v >>> 8 != 0) 4
    else if op = 3 then refuseIf (v >>> 40 != 0) 4
    else if op = 4 then refuseIf (v >>> 77 != 0 || iv i 28 8 != 0 || decide (iv i 76 72 < 12) || decide (21 < iv i 76 72)) 4
    else if op = 6 then refuseIf (v >>> 12 != 0) 4
    else 4
  | 6 =>
    let op := xOp i
    refuseIf (op == 0 || decide (3 < op) || v >>> 59 != 0 || (decide (24 ≤ xLdie i) && decide (xLdie i ≤ 30)) ||
      (if op = 1 then decide (1 < xTier i) else xTier i != 0)) 4
  | 7 => refuseIf (bitAt v 80 && (iv i 20 0 != 0 || iv i 79 64 == 0)) 4
  | _ => 0

/-- Type, scope, target, value, in that order. DEDUCED: log entry 43. -/
def formItem (i : ItemBits) : Nat :=
  firstReason [refuseIf (!(knownType (iType i))) 1, refuseIf (typeScope (iType i) != 0) 2, formTarget i, formValue i]

/-! ### What a request leaves (R464) -/

/-- A page of a context after the request's MAP, UNMAP and SETPROT: its tier (true far) and read-only bit. -/
def pageAfter (c : Ctx) (l : List ItemBits) (vp : Nat) : Option (Bool × Bool) :=
  let cur := (NMap.get? c.pages vp).map (fun e => (isFar e.phys, e.ro))
  match l.find? (fun i => iType i == 6 && decide (xVpage i ≤ vp) && decide (vp < xVpage i + xCount i)) with
  | none => cur
  | some i =>
    if xOp i = 1 then some (xTier i == 1, xRdo i)
    else if xOp i = 2 then none
    else cur.map (fun p => (p.1, xRdo i))

/-- Pages of a POOLADD. -/
def poolPages (i : ItemBits) : List Nat := rangeFrom (iv i 55 8 / pageSize) (iv i 71 56 + 1)

def isPoolAdd (i : ItemBits) : Bool := (iType i == 4 && iv i 7 0 == 5) || (iType i == 5 && iv i 7 0 == 4)

/-- Page lists of both pools, with the POOLADD items of a list applied. -/
def poolAfter (c : Ctx) (l : List ItemBits) : List Nat :=
  c.kv.pages.map vpageOf ++ c.comp.pages.map vpageOf ++ (l.filter isPoolAdd).flatMap poolPages

/-- Step-state regions after the request. -/
def regionsAfter (c : Ctx) (l : List ItemBits) : NMap Region :=
  l.foldl (fun m i =>
    if iType i = 7 then
      (if bitAt (iValue i) 80 then NMap.set m (iTarget i) { base := iv i 47 0, pages := iv i 79 64 } else NMap.erase m (iTarget i))
    else m) c.regions

def regionPages (r : Region) : List Nat := rangeFrom (r.base / pageSize) r.pages

def inRegions (m : NMap Region) (vp : Nat) : Bool :=
  m.any (fun r => decide (r.2.base / pageSize ≤ vp) && decide (vp < r.2.base / pageSize + r.2.pages))

/-- Pages of the four submission rings. -/
def ringPages (c : Ctx) : List Nat :=
  c.sqs.flatMap (fun q => pagesTouched (field q.cfg.toNat 63 24 * 256) (256 * 2 ^ ringLog (field q.cfg.toNat 7 3)))

/-- Sequence in use once the request is applied. -/
def seqAfter (c : Ctx) (l : List ItemBits) (n : Nat) : Bool :=
  match l.find? (fun i => iType i == 5 && iTarget i == n && (iv i 7 0 == 1 || iv i 7 0 == 2)) with
  | some i => iv i 7 0 == 1
  | none => NMap.has c.seqs n

/-- Page-set bytes of a CREATE. -/
def createSetBytes (i : ItemBits) : Nat :=
  (iv i 59 56 + 1) * 64 * ((iv i 67 60 + 1) * (kvFmt (iv i 77 76)).size + (iv i 75 68 + 1) * (kvFmt (iv i 79 78)).size)

/-- Slot exponent of the pool once the request is applied; 0 when it has none. -/
def slotAfter (c : Ctx) (l : List ItemBits) : Nat :=
  if !c.kv.pages.isEmpty then c.kv.n
  else match l.find? (fun i => iType i == 5 && iv i 7 0 == 4) with
    | some i => iv i 76 72
    | none => 0

def overlaps (a n b m : Nat) : Bool := decide (a < b + m) && decide (b < a + n)

/-! ### Checks at the commit instant, in the order each owning rule lists them -/

/-- Two items set one target (R130); POOLADD and translation edits by overlap of their ranges. DEDUCED: log entry 41. -/
def clash (l : List ItemBits) (k : Nat) (i : ItemBits) : Bool :=
  ((rangeFrom 0 l.length).zip l).any (fun p =>
    let j := p.2
    p.1 != k && iType j == iType i &&
      (if iType i = 6 then overlaps (xVpage i) (xCount i) (xVpage j) (xCount j)
       else if isPoolAdd i then isPoolAdd j && overlaps (iv i 55 8 / pageSize) (iv i 71 56 + 1) (iv j 55 8 / pageSize) (iv j 71 56 + 1)
       else !(isPoolAdd j) && iTarget j == iTarget i))

/-- The other items of the request. -/
def others (l : List ItemBits) (k : Nat) : List ItemBits := (((rangeFrom 0 l.length).zip l).filter (fun p => p.1 != k)).map (·.2)

def hostPages : Nat := winLo / pageSize

/-- Every page of a byte range is mapped in the host-mapped region once the request is applied. -/
def rangeMapped (c : Ctx) (l : List ItemBits) (va n : Nat) (write : Bool) : Bool :=
  decide (va + n ≤ winLo) && (pagesTouched va n).all (fun vp => match pageAfter c l vp with
    | some (_, ro) => !(write && ro)
    | none => false)

/-- A page that may join a pool of a tier. DEDUCED: log entry 41. -/
def poolPageOk (c : Ctx) (l : List ItemBits) (k : Nat) (far : Bool) (vp : Nat) : Bool :=
  decide (vp < hostPages) && (match pageAfter c l vp with
    | some (f, _) => f == far
    | none => false) && vp != 0 && !((poolAfter c ((others l k).filter (fun j => iType j != (if far then 5 else 4)))).contains vp) && !(inRegions (regionsAfter c l) vp)

/-- Pages of a tier that the MAP items of a request ask for together. -/
def mapped (l : List ItemBits) (far : Bool) : Nat := sumBy (fun i => if iType i = 6 ∧ xOp i = 1 ∧ (xTier i == 1) = far then xCount i else 0) l

/-- Mapped pages of a tier over every context of the tenant, this context's with the request applied (R460). -/
def tierPages (s : State) (cn : Nat) (c : Ctx) (l : List ItemBits) (far : Bool) : Nat :=
  let others := sumBy (fun (p : Nat × Ctx) =>
    if p.2.tenant = c.tenant ∧ p.1 ≠ cn then (p.2.pages.filter (fun e => isFar e.2.phys == far)).length else 0) s.ctxs
  let own := (c.pages.filter (fun e => isFar e.2.phys == far)).length
  let maps := mapped l far
  let unmaps := sumBy (fun i => if iType i = 6 ∧ xOp i = 2 then
    ((rangeFrom (xVpage i) (xCount i)).filter (fun vp => match NMap.get? c.pages vp with
      | some e => isFar e.phys == far
      | none => false)).length else 0) l
  others + own + maps - unmaps

/-- The first flash copy of the tenancy table is in use: the valid one with the higher count (R417). -/
def Colyr.firstInUse (c : Colyr) : Bool := !c.tenFlash.2.valid || (c.tenFlash.1.valid && decide (c.tenFlash.2.count ≤ c.tenFlash.1.count))
def Colyr.tenInUse (c : Colyr) : TenantCopy := if c.firstInUse then c.tenFlash.1 else c.tenFlash.2
/-- The tenancy table. -/
def Colyr.tenants (c : Colyr) : List TenantBits := c.tenInUse.entries

/-- The tenancy entry of an index. -/
def tenantBits (s : State) (k : Nat) : TenantBits := nth tenantReset s.colyr.tenants k

def teField (t : TenantBits) (hi lo : Nat) : Nat := field t.toNat hi lo

/-- Free pages of a tier in the whole module. DESIGN CHOICE: log entry 91. -/
def freePages (s : State) (far : Bool) : Nat :=
  sumBy (fun d => (nth Tier.fresh (if far then s.far else s.near) d).freeCount far)
    ((rangeFrom 0 24).filter (fun d => !far || stackFitted s.order d))

/-- Pages of a tier that the regions cover together. -/
def regionNeed (c : Ctx) (l : List ItemBits) (far : Bool) : Nat :=
  (dedup (((regionsAfter c l).flatMap (fun r => regionPages r.2)).filter (fun vp => (pageAfter c l vp).map (·.1) == some far))).length

def tensorHeader (s : State) (cn : Nat) (c : Ctx) (n : Nat) : Nat :=
  match NMap.get? c.comp.tensors n with
  | none => 0
  | some va => match readNat s cn c va 64 with
    | .ok h => h
    | .error _ => 0

def seqHeaderD (s : State) (cn : Nat) (c : Ctx) (n : Nat) : Nat :=
  match NMap.get? c.seqs n with
  | none => 0
  | some q => match seqHeader s cn c q with
    | .ok h => h
    | .error _ => 0

/-- The reason one item is refused at the commit instant, 0 for none. DESIGN CHOICE: log entry 91. -/
def commitItem (s : State) (cn : Nat) (c : Ctx) (l : List ItemBits) (k : Nat) (i : ItemBits) : Nat :=
  let dup := refuseIf (clash l k i) 5
  let t := iTarget i
  match iType i with
  | 1 => firstReason [dup, refuseIf (((nth .dflt c.tabs t).bank (iv i 0 0)).state != .ready) 6]
  | 2 => dup
  | 3 => firstReason [refuseIf (!(seqAfter c l t)) 3, dup]
  | 4 =>
    let op := iv i 7 0
    let used := NMap.has c.comp.tensors t
    firstReason [refuseIf (if op = 1 then used else op != 5 && !used) 3,
      refuseIf (op == 4 && !(kintOk (field (tensorHeader s cn c t) 57 56) (iv i 10 8))) 4, dup,
      refuseIf (op == 1 && !(rangeMapped c l (iv i 49 8 * 64) (64 * (iv i 109 86 + 2)) true)) 7,
      refuseIf (op == 5 && !((poolPages i).all (poolPageOk c l k false))) 7]
  | 5 =>
    let op := iv i 7 0
    let used := NMap.has c.seqs t
    let n := slotAfter c l
    let setsOk := c.seqs.all (fun q => !(seqAfter c l q.1) || decide (setBytesOf (seqHeaderD s cn c q.1) ≤ 2 ^ n))
    firstReason [refuseIf (if op = 1 then used else op != 4 && !used) 3,
      refuseIf (op == 1 && n != 0 && decide (2 ^ n < createSetBytes i)) 4,
      refuseIf (op == 4 && (iv i 76 72 != n || (c.kv.pages.isEmpty && !setsOk))) 4,
      refuseIf (op == 3 && decide (hLen (seqHeaderD s cn c t) < iv i 39 8)) 4,
      refuseIf (op == 1 && !(rangeMapped c l (iv i 55 8) (regionBytes (iv i 100 84 + 1)) false)) 7,
      refuseIf (op == 4 && !((poolPages i).all (poolPageOk c l k true))) 7, dup]
  | 6 =>
    let pages := rangeFrom (xVpage i) (xCount i)
    let far := xTier i == 1
    let held (vp : Nat) : Bool := vp == 0 || (poolAfter c l).contains vp || inRegions (regionsAfter c l) vp || (ringPages c).contains vp
    firstReason [dup, refuseIf (decide (hostPages < xVpage i + xCount i)) 7,
      refuseIf (if xOp i = 1 then pages.any (NMap.has c.pages) else pages.any (fun vp => !(NMap.has c.pages vp))) 7,
      refuseIf (xOp i == 2 && pages.any held) 7,
      refuseIf (xOp i == 1 && (decide ((if far then teField (tenantBits s c.tenant) 597 577 else teField (tenantBits s c.tenant) 576 558) <
        tierPages s cn c l far) || decide (freePages s far < mapped l far))) 8]
  | 7 =>
    let r : Region := { base := iv i 47 0, pages := iv i 79 64 }
    if bitAt (iValue i) 80 then
      firstReason [dup, refuseIf (decide (winLo < r.base + pageSize * r.pages) || !((regionPages r).all (fun vp => (pageAfter c l vp).isSome))) 7,
        refuseIf (decide (c.shadowNear < regionNeed c l false) || decide (c.shadowFar < regionNeed c l true)) 8]
    else dup
  | _ => 0

/-- The whole request: the first reason in item order (R129). -/
def commitCheck (s : State) (cn : Nat) (c : Ctx) (l : List ItemBits) : Nat :=
  firstReason (((rangeFrom 0 l.length).zip l).map (fun p => commitItem s cn c l p.1 p.2))

/-! ### Effects -/

/-- Zero a range of context memory in every copy. -/
def fwErase (s : State) (cn va n : Nat) : State :=
  match s.ctx? cn with
  | none => s
  | some c =>
    (pagesTouched va n).foldl (fun s vp =>
      let lo := max va (vp * pageSize)
      let hi := min (va + n) ((vp + 1) * pageSize)
      { s with mem := (physCopies c lo).foldl (fun m a => Memory.erase m a (hi - lo)) s.mem }) s

/-- Physical die for a logical one; 31 is firmware's choice, the die with the most free pages (R460). -/
def mapDie (s : State) (c : Ctx) (far : Bool) (ldie : Nat) : Nat :=
  if ldie = 31 then mostFree s.order (if far then s.far else s.near) far else nth ldie c.place ldie

/-- MAP one page: allocated on the die or the nearest one with a free page, and zero-filled. -/
def mapPage (cn : Nat) (far ro : Bool) (die : Nat) (s : State) (vp : Nat) : State :=
  match takePage s far (dieOrder die) with
  | none => s
  | some (s, p) =>
    ({ s with mem := Memory.erase s.mem p pageSize } : State).modCtx cn (fun c =>
      { c with pages := NMap.set c.pages vp { phys := p, ro := ro, moveTo := none } })

/-- UNMAP one page: it is scrubbed before it is free again. -/
def unmapPage (cn : Nat) (s : State) (vp : Nat) : State :=
  match s.ctx? cn with
  | none => s
  | some c =>
    match NMap.get? c.pages vp with
    | none => s
    | some e =>
      let s := releasePage s e.phys
      let s := match e.moveTo with
        | some q => releasePage s q
        | none => s
      let s := match NMap.get? c.shadows vp with
        | some sh => releasePage s sh.phys
        | none => s
      s.modCtx cn (fun c => { c with pages := NMap.erase c.pages vp, shadows := NMap.erase c.shadows vp })

/-- The header of a new sequence (R232). -/
def newHeader (i : ItemBits) : Nat :=
  iv i 59 56 * 2 ^ 32 + iv i 67 60 * 2 ^ 36 + iv i 75 68 * 2 ^ 44 + iv i 77 76 * 2 ^ 52 + iv i 79 78 * 2 ^ 54 + iv i 83 80 * 2 ^ 60 +
    iTarget i % 4096 * 2 ^ 64 + iv i 100 84 * 2 ^ 76 + 0x3F400000 * 2 ^ 256

/-- Slots of a pool page. -/
def slotsOf (n vp : Nat) : List Nat := (rangeFrom 0 (2 ^ (21 - n))).map (fun k => vp * pageSize + k * 2 ^ n)

/-- The RESUME items of a request, which act once the commit is over (R239). -/
def resumeItems (s : State) (cn : Nat) (l : List ItemBits) : State :=
  (l.filter (fun i => iType i == 5 && iv i 7 0 == 5)).foldl (fun s i => needResident s cn (iTarget i)) s

/-- Item 0x0005; a DESTROY returns every slot of the sequence, and a RESUME comes later (R239). -/
def applyKv (s : State) (cn : Nat) (i : ItemBits) : State :=
  let sn := iTarget i
  match iv i 7 0 with
  | 1 =>
    let root := iv i 55 8
    let maxLp := iv i 100 84 + 1
    let s := fwErase s cn root (regionBytes maxLp)
    let s := fwWrite s cn root (toBytes 64 (newHeader i))
    let q : SeqRec := { root := root, maxLp := maxLp, marked := [], swapArea := none, pageInWanted := false, freeing := [], slots := [], forged := false }
    s.modCtx cn (fun c => { c with seqs := NMap.set c.seqs sn q })
  | 2 =>
    let s := dropFrom s cn sn 0
    let s := match s.seq? cn sn with
      | some (_, q) => q.slots.foldl (fun s a => returnSlot s cn sn a) s
      | none => s
    s.modCtx cn (fun c => { c with seqs := NMap.erase c.seqs sn })
  | 3 =>
    let s := dropFrom s cn sn (ceilDiv (iv i 39 8) 64)
    (match s.seq? cn sn with
     | some (_, q) => kvContinue (fwWrite s cn q.root (toBytes 4 (iv i 39 8))) cn sn
     | none => s)
  | 4 =>
    s.modKv cn (fun k => { k with n := iv i 76 72, pages := k.pages ++ (poolPages i).map (· * pageSize),
                                  free := k.free ++ (poolPages i).flatMap (slotsOf (iv i 76 72)) })
  | 6 =>
    (match s.seq? cn sn with
     | some (c, q) => match seqHeader s cn c q with
       | .ok h => fwWrite s cn (q.root + 7) (toBytes 1 (setField (field h 63 56) 7 4 (iv i 11 8)))
       | .error _ => s
     | none => s)
  | _ => s

/-- Item 0x0003 (R242): DECAY, THRESH, BUDGET, PFIRST, PRECENT in the header. -/
def applyEvict (s : State) (cn : Nat) (i : ItemBits) : State :=
  match s.seq? cn (iTarget i) with
  | none => s
  | some (_, q) =>
    fwWrite s cn (q.root + 28) (toBytes 4 (iv i 95 64) ++ toBytes 4 (iv i 31 0) ++ toBytes 4 (iv i 63 32) ++ toBytes 2 (iv i 111 96) ++
      toBytes 2 (iv i 127 112))

/-- Lines of every live record of a tensor return to the pool. -/
def dropTensor (s : State) (cn n : Nat) : State :=
  match s.ctx? cn with
  | none => s
  | some c =>
    match NMap.get? c.comp.tensors n with
    | none => s
    | some va =>
      let x := CIndex.ofHeader n va (tensorHeader s cn c n)
      s.modCtx cn (fun c => { c with comp := { c.comp with
        charge := c.comp.charge - x.charge, tensors := NMap.erase c.comp.tensors n, foul := c.comp.foul.filter (· != n) } })

/-- Item 0x0004 (R302, R313). -/
def applyComp (s : State) (cn : Nat) (i : ItemBits) : State :=
  let n := iTarget i
  match iv i 7 0 with
  | 1 =>
    let va := iv i 49 8 * 64
    let h := iv i 85 50 * 4096 + iv i 117 110 * 2 ^ 48 + iv i 119 118 * 2 ^ 56 + iv i 122 120 * 2 ^ 58 + iv i 109 86 * 2 ^ 64 + n % 4096 * 2 ^ 88
    let dirty := (s.ctx? cn).any (fun c => decide (readNat s cn c (va + 64) (64 * (iv i 109 86 + 1)) ≠ .ok 0))
    (fwWrite s cn va (toBytes 64 h)).modCtx cn (fun c => { c with comp := { c.comp with
      tensors := NMap.set c.comp.tensors n va, foul := if dirty then insertNat n c.comp.foul else c.comp.foul } })
  | 2 => dropTensor s cn n
  | 3 =>
    (match s.ctx? cn with
     | none => s
     | some c => match NMap.get? c.comp.tensors n with
       | none => s
       | some va => fwWrite s cn (va + 16) (toBytes 8 (c.epochNo + 1).toNat))
  | 4 =>
    (match s.ctx? cn with
     | none => s
     | some c => match NMap.get? c.comp.tensors n with
       | none => s
       | some va => fwWrite s cn (va + 7) (toBytes 1 (setField (field (tensorHeader s cn c n) 63 56) 4 2 (iv i 10 8))))
  | 5 =>
    let s := (poolPages i).foldl (fun s vp => fwErase s cn (vp * pageSize) pageSize) s
    s.modCtx cn (fun c => { c with comp := { c.comp with pages := c.comp.pages ++ (poolPages i).map (· * pageSize) } })
  | _ => s

/-- Item 0x0006 (R282); the die is chosen once for all its pages (R460). -/
def applyXlate (s : State) (cn : Nat) (i : ItemBits) : State :=
  let pages := rangeFrom (xVpage i) (xCount i)
  match xOp i with
  | 1 =>
    (match s.ctx? cn with
     | none => s
     | some c => pages.foldl (mapPage cn (xTier i == 1) (xRdo i) (mapDie s c (xTier i == 1) (xLdie i))) s)
  | 2 => pages.foldl (unmapPage cn) s
  | _ => s.modCtx cn (fun c => { c with pages := c.pages.map (fun e =>
      (e.1, if xVpage i ≤ e.1 ∧ e.1 < xVpage i + xCount i then { e.2 with ro := xRdo i } else e.2)) })

/-- Item 0x0002 (R58, R128): POLICY and MARGIN of a scale slot; SCODE, AMAX and NONFIN stay. -/
def applyScale (s : State) (cn : Nat) (i : ItemBits) : State :=
  match s.ctx? cn with
  | none => s
  | some c =>
    match readNat s cn c (scaleSlotVa (iTarget i) + 5) 1 with
    | .error _ => s
    | .ok b => fwWrite s cn (scaleSlotVa (iTarget i) + 5) (toBytes 1 (setField (setField b 2 0 (iv i 4 2)) 4 3 (iv i 1 0)))

def applyItem (s : State) (cn : Nat) (i : ItemBits) : State :=
  match iType i with
  | 1 => s.modCtx cn (fun c => { c with tabs := setNth c.tabs (iTarget i) { (nth .dflt c.tabs (iTarget i)) with active := iv i 0 0 } })
  | 2 => applyScale s cn i
  | 3 => applyEvict s cn i
  | 4 => applyComp s cn i
  | 5 => applyKv s cn i
  | 6 => applyXlate s cn i
  | 7 => s.modCtx cn (fun c => { c with regions := regionsAfter c [i] })
  | _ => s

/-- MAP items come first, then the rest in item order: every item takes effect at one instant. DEDUCED: log entry 42. -/
def applyItems (s : State) (cn : Nat) (l : List ItemBits) : State :=
  let maps := l.filter (fun i => iType i == 6 && xOp i == 1)
  let rest := l.filter (fun i => !(iType i == 6 && xOp i == 1))
  let evict := rest.filter (fun i => iType i == 3)
  let rest := rest.filter (fun i => iType i != 3)
  evict.foldl (fun s i => applyItem s cn i) (rest.foldl (fun s i => applyItem s cn i) (maps.foldl (fun s i => applyItem s cn i) s))

/-- A page-out that a DESTROY or TRUNCATE of the request waits for (R461). -/
def waitsForPageOut (s : State) (cn : Nat) (l : List ItemBits) : Bool :=
  l.any (fun i => iType i == 5 && (iv i 7 0 == 2 || iv i 7 0 == 3) && seqState s cn (iTarget i) == stOut)

end Sys2Proof.Machine
end

