-- ==== Sys2Proof/Machine/Queues.lean ====
section
/-!
DEFINITION. The context control page: doorbells, queue configuration, completion-queue head, STATUS, and reads of every register (R14, R99 to R101, R463).
-/

namespace Sys2Proof.Machine

/-! ### Submission queues -/

def sqEn (q : SubQueue) : Bool := bitAt q.cfg.toNat 0
def sqCeil (q : SubQueue) : Nat := field q.cfg.toNat 2 1
def sqLog (q : SubQueue) : Nat := ringLog (field q.cfg.toNat 7 3)
/-- BASE with bits [23:16] of the register ignored: 256-byte alignment (R101). -/
def sqBase (q : SubQueue) : Nat := field q.cfg.toNat 63 24 * 256
/-- Packets between HEAD and a TAIL, modulo 2^32. -/
def sqDepth (q : SubQueue) (tail : Bits32) : Nat := (tail - q.head).toNat

def SubQueue.fresh : SubQueue := { cfg := BitVec.ofNat 64 (2 * 2 ^ 1 + 4 * 2 ^ 3), tail := 0, head := 0, passed := 0 }

def getSq (c : Ctx) (q : Nat) : SubQueue := nth SubQueue.fresh c.sqs q

/-- A TAIL that R101 ignores. -/
def doorbellBad (q : SubQueue) (tail : Bits32) : Bool :=
  decide (2 ^ sqLog q < sqDepth q tail) || decide (sqDepth q tail < sqDepth q q.tail)

def ringDoorbell (c : Ctx) (q : Nat) (tail : Bits32) : Ctx :=
  if doorbellBad (getSq c q) tail then { c with dberr := true } else { c with sqs := setNth c.sqs q { getSq c q with tail := tail } }

/-- The doorbell of a queue; recorded on a disabled queue as well (R101). -/
def execSqDoorbell (ctx q : Nat) (tail : Bits32) (s : State) : Res :=
  match s.ctx? ctx with
  | none => .next s
  | some c => .next (s.setCtx ctx (if q < 4 then ringDoorbell c q tail else c))

/-- Fields of SQ_CFG a write stores: RSV bits read as zero, a CEIL of 0b11 keeps the old one (R11, R101). -/
def sqCfgBits (old value : Word64) : Word64 :=
  let v := setField value.toNat 15 8 0
  BitVec.ofNat 64 (if field v 2 1 = 3 then setField v 2 1 (field old.toNat 2 1) else v)

/-- The ring a queue configuration names. -/
def sameRing (a b : Word64) : Bool := field a.toNat 63 24 == field b.toNat 63 24 && field a.toNat 7 3 == field b.toNat 7 3

def writeSqCfg (q : SubQueue) (value : Word64) : SubQueue :=
  if sqEn q then { q with cfg := BitVec.ofNat 64 (setField q.cfg.toNat 0 0 (value.toNat % 2)) }
  else
    let v := sqCfgBits q.cfg value
    if sameRing q.cfg v then { q with cfg := v } else { q with cfg := v, head := 0, tail := 0 }

/-- A write of SQ_CFG (R101). -/
def execSqCfgWrite (ctx q : Nat) (value : Word64) (s : State) : Res :=
  match s.ctx? ctx with
  | none => .next s
  | some c => .next (s.setCtx ctx (if q < 4 then { c with sqs := setNth c.sqs q (writeSqCfg (getSq c q) value) } else c))

/-! ### The completion queue -/

/-- Held records are written while there is room. -/
def releaseRecs (s : State) (cn : Nat) : State :=
  match s.ctx? cn with
  | none => s
  | some c => drainRecs (c.heldRecs.length + 1) s cn

/-- A write of CQ_PTR.HEAD makes room (R101). -/
def execCqHeadWrite (ctx : Nat) (head : Bits32) (s : State) : Res :=
  match s.ctx? ctx with
  | none => .next s
  | some c => .next (releaseRecs (s.setCtx ctx { c with cqHead := head }) ctx)

def writeCqCfg (c : Ctx) (value : Word64) : Ctx :=
  if c.cqHead != c.cqTail then c else
  let v : Word64 := BitVec.ofNat 64 (setField value.toNat 15 9 0)
  if field v.toNat 63 21 = field c.cqCfg.toNat 63 21 ∧ field v.toNat 8 4 = field c.cqCfg.toNat 8 4 then { c with cqCfg := v }
  else { c with cqCfg := v, cqHead := 0, cqTail := 0 }

/-- A write of CQ_CFG, ignored while records are unconsumed; a ring that has become valid takes the held records (R101, R463). -/
def execCqCfgWrite (ctx : Nat) (value : Word64) (s : State) : Res :=
  match s.ctx? ctx with
  | none => .next s
  | some c => .next (releaseRecs (s.setCtx ctx (writeCqCfg c value)) ctx)

/-! ### Other registers -/

/-- Any other write to the page: STATUS.DBERR is cleared by a 1, every other bit is read-only or reserved (R14, R100). -/
def execRegisterWrite (ctx offset : Nat) (value : Word64) (s : State) : Res :=
  match s.ctx? ctx with
  | none => .next s
  | some c => .next (s.setCtx ctx (if offset = 0 ∧ bitAt value.toNat 5 then { c with dberr := false } else c))

def b2n (b : Bool) : Nat := if b then 1 else 0

/-- STATUS (R100). -/
def statusReg (c : Ctx) : Nat :=
  b2n c.active + b2n c.paused * 2 ^ 1 + b2n c.faulted * 2 ^ 2 + b2n c.drydown * 2 ^ 3 + b2n c.apend.isSome * 2 ^ 4 + b2n c.dberr * 2 ^ 5 +
    b2n c.cqfull * 2 ^ 6 + c.pcause * 2 ^ 7

/-- The 64-bit register at an offset, as a read returns it; TAIL of SQ_PTR is write-only and reads as zero (R14, R99 to R101). -/
def ctrlRead (c : Ctx) (off : Nat) : Nat :=
  if off = 0x000 then statusReg c
  else if off = 0x008 then c.epochNo.toNat
  else if off = 0x010 then c.cqCfg.toNat
  else if off = 0x018 then c.cqTail.toNat + c.cqHead.toNat * 2 ^ 32
  else if 0x040 ≤ off ∧ off < 0x080 then
    let q := getSq c ((off - 0x40) / 16)
    if off % 16 = 0 then q.cfg.toNat else if off % 16 = 8 then q.head.toNat * 2 ^ 32 else 0
  else 0

end Sys2Proof.Machine
end

