-- ==== Sys2Proof/Machine/Packets.lean ====
section
/-!
DEFINITION. Packets: the choice of a queue, fetching, and the six packet types with the reserved ones (R102 to R105, R112, R126, R129, R356, R357, R464).
-/

namespace Sys2Proof.Machine

/-! ### Choice of a queue (R105) -/

/-- The packet at the head of a queue. -/
def headPacket (s : State) (cn : Nat) (c : Ctx) (q : SubQueue) : X Nat :=
  readNat s cn c (sqBase q + 256 * (q.head.toNat % 2 ^ sqLog q)) 256

/-- SUBMIT and LAUNCH wait for the fetched one to be admitted. -/
def runsTasks (t : Nat) : Bool := t == 1 || t == 4

/-- A queue that can give a packet. A packet that the context cannot read is taken, and faults. DEDUCED: log entry 37. -/
def canGive (s : State) (cn : Nat) (c : Ctx) (q : SubQueue) : Bool :=
  sqEn q && q.head != q.tail &&
    (match headPacket s cn c q with
     | .ok p => !(runsTasks (pType p)) || c.launch.isNone
     | .error _ => true)

/-- Queues that can give a packet, in the order in which the queue after the last one chosen comes first. -/
def givers (s : State) (cn : Nat) (c : Ctx) : List Nat :=
  ((rangeFrom (c.lastQ + 1) 4).map (· % 4)).filter (fun q => canGive s cn c (getSq c q))

/-- The queue the context takes. -/
def chosenQueue (s : State) (cn : Nat) (c : Ctx) : Option Nat :=
  let l := givers s cn c
  match l.find? (fun q => decide (63 ≤ (getSq c q).passed)) with
  | some q => some q
  | none => argMin (fun q => sqCeil (getSq c q)) l

/-- Fetching goes on (R100, R347, R369, R391). -/
def fetchOpen (s : State) (c : Ctx) : Bool :=
  c.active && !c.faulted && !c.drydown &&
    (match s.host? c.slot with
     | some h => (match h.phase with
        | .attached | .registered | .hold => true
        | _ => false)
     | none => false)

/-- The queue after its packet is taken: HEAD moves, and the queues passed over are counted. -/
def takePacket (l : List Nat) (q : Nat) (c : Ctx) : Ctx :=
  { c with
    lastQ := q
    sqs := (rangeFrom 0 4).map (fun k =>
      let x := getSq c k
      if k = q then { x with head := x.head + 1, passed := 0 } else if l.contains k then { x with passed := x.passed + 1 } else x) }

/-- A fetch from a queue: the packet it gives when it is the one chosen, with the state after its HEAD has moved. -/
def fetchPacket (s : State) (cn q : Nat) : Option (State × Ctx × X Nat) :=
  match s.ctx? cn with
  | none => none
  | some c =>
    if fetchOpen s c && decide (chosenQueue s cn c = some q) then
      let c' := takePacket (givers s cn c) q c
      some (s.setCtx cn c', c', headPacket s cn c (getSq c q))
    else none

/-! ### Results of packets -/

/-- A record of a kind for which the manual gives no STEP, ASTAT, USER and flags: those bits are free. DESIGN CHOICE: log entry 35. -/
def postOpen (s : State) (cn kind reason : Nat) (tag : Bits32) : State :=
  let v := Config.freeNat s.freeIx 0
  post s.tick cn (mkRec kind reason tag (BitVec.ofNat 32 v) (BitVec.ofNat 32 (v / 2 ^ 32)) (BitVec.ofNat 32 (v / 2 ^ 64)) (bitAt v 96) (bitAt v 97))

/-- A refused packet (R104). -/
def refusePacket (s : State) (cn reason p : Nat) : State := postOpen s cn 0x12 reason (pTag p)

/-- A pointer of a packet, or its ring, that the translation does not map (R104, R370). DEDUCED: log entry 36. -/
def packetFault (s : State) (cn : Nat) (f : CFault) (tag step : Bits32) : State :=
  contextFault s cn (coordOf s cn) f 0xFFFFFFFF 0xFFFFFFFF tag step

/-- The event of one packet row: the head packet of the chosen queue has the row's type, or cannot be read.
DESIGN CHOICE: log entry 2. DEDUCED: log entry 36. -/
def packetEvent (s : State) (cn q : Nat) (row : Nat → Bool) (k : State → Ctx → Nat → State) : Res :=
  match fetchPacket s cn q with
  | none => .next s
  | some (s', _, .error f) => .next (packetFault s'.tick cn f (BitVec.ofNat 32 (Config.freeNat s'.freeIx 1)) (BitVec.ofNat 32 (Config.freeNat s'.freeIx 2)))
  | some (s', c', .ok p) => if row (pType p) then .next (k s' c' p) else .next s

def countOk (p : Nat) : Bool := decide (1 ≤ pCount p) && decide (pCount p ≤ 1048576)

/-- SUBMIT: one iteration over the array at PTR (R103). -/
def execSubmit (ctx q : Nat) (s : State) : Res :=
  packetEvent s ctx q (· == 1) (fun s c p =>
    if !countOk p then refusePacket s ctx 0x0C p else
    s.setCtx ctx { c with launch := some {
      tag := pTag p, cqe := pCqe p, q := q, tid := none, arr := pPtr p, count := pCount p, ptr := 0, carr := pCarr p, bind := pBind p,
      step0 := pStep0 p, iter := 0, total := 1 } })

/-- TLOAD (R112). -/
def execTload (ctx q : Nat) (s : State) : Res :=
  packetEvent s ctx q (· == 2) (fun s c p =>
    if !countOk p then refusePacket s ctx 0x0C p
    else if NMap.has c.templates (pTid p) then refusePacket s ctx 0x22 p
    else
      let s := s.setCtx ctx { c with templates := NMap.set c.templates (pTid p) { arr := pPtr p, count := pCount p, free := none, live := 0 } }
      if pCqe p then postOpen s ctx 0x02 0 (pTag p) else s)

/-- A template that LAUNCH and TFREE may name. -/
def loaded (c : Ctx) (tid : Nat) : Option Template :=
  match NMap.get? c.templates tid with
  | some t => if t.free.isSome then none else some t
  | none => none

/-- TFREE: the template is released once its launches have completed (R112). -/
def execTfree (ctx q : Nat) (s : State) : Res :=
  packetEvent s ctx q (· == 3) (fun s c p =>
    match loaded c (pTid p) with
    | none => refusePacket s ctx 0x21 p
    | some t => s.setCtx ctx { c with templates := NMap.set c.templates (pTid p) { t with free := some (pTag p, pCqe p) } })

/-- The release of a freed template (R112). -/
def execTemplateRelease (ctx tid : Nat) (s : State) : Res :=
  match s.ctx? ctx with
  | none => .next s
  | some c =>
    match NMap.get? c.templates tid with
    | some t =>
      match t.free with
      | some (tag, cqe) =>
        if t.live = 0 then
          let s := s.setCtx ctx { c with templates := NMap.erase c.templates tid }
          .next (if cqe then postOpen s ctx 0x03 0 tag else s)
        else .next s
      | none => .next s
    | none => .next s

/-- LAUNCH: REPEAT + 1 iterations of a template (R112). -/
def execLaunch (ctx q : Nat) (s : State) : Res :=
  packetEvent s ctx q (· == 4) (fun s c p =>
    match loaded c (pTid p) with
    | none => refusePacket s ctx 0x21 p
    | some t =>
      s.setCtx ctx { c with
        templates := NMap.set c.templates (pTid p) { t with live := t.live + 1 }
        launch := some {
          tag := pTag p, cqe := pCqe p, q := q, tid := some (pTid p), arr := t.arr, count := t.count, ptr := pPtr p, carr := pCarr p,
          bind := pBind p, step0 := pStep0 p, iter := 0, total := pRepeat p + 1 } })

/-- A packet of a reserved type (R103). -/
def execReservedPacket (ctx q : Nat) (s : State) : Res :=
  packetEvent s ctx q (fun t => t == 0 || decide (5 < t)) (fun s _ p => refusePacket s ctx 0x20 p)

/-! ### ACCORD -/

/-- Fields of the VALUE of R356. -/
structure RcValue where
  mode : Nat
  tbr : Nat
  maxbr : Nat
  bufms : Nat
  qp : Nat
  qmin : Nat
  qmax : Nat
  keyint : Nat
  keyreq : Bool
  keyonly : Bool
deriving DecidableEq, Repr

def RcValue.parse (v : Nat) : RcValue :=
  { mode := field v 1 0, tbr := field v 25 2, maxbr := field v 49 26, bufms := field v 65 50, qp := field v 73 66, qmin := field v 81 74,
    qmax := field v 89 82, keyint := field v 105 90, keyreq := bitAt v 106, keyonly := bitAt v 107 }

/-- The value checks of R356. -/
def rcBad (codec v : Nat) : Bool :=
  let r := RcValue.parse v
  let limit := if codec = 1 then 51 else 255
  if r.keyonly then false
  else r.mode == 3 || (decide (r.mode ≤ 1) && r.tbr == 0) || (r.mode == 1 && decide (r.maxbr < r.tbr)) || decide (r.qmax < r.qmin) ||
    decide (limit < r.qp) || decide (limit < r.qmin) || decide (limit < r.qmax)

/-- The form check of one stream-scope item (R356, R464). -/
def formStreamItem (codec stream : Nat) (i : ItemBits) : Nat :=
  firstReason [refuseIf (!(knownType (iType i))) 1, refuseIf (typeScope (iType i) != 1) 2, refuseIf (iTarget i != stream) 3,
    refuseIf (rcBad codec (iValue i)) 4]

/-- A context-scope ACCORD: pending check, then the items (R464). -/
def accordContext (s : State) (cn : Nat) (c : Ctx) (p : Nat) (items : Unit → X (List ItemBits)) : State :=
  if c.apend.isSome then postOpen s cn 0x04 0x09 (pTag p) else
  match items () with
  | .error f => packetFault s.tick cn f (pTag p) (BitVec.ofNat 32 (Config.freeNat s.freeIx 2))
  | .ok l =>
    let r := firstReason (l.map formItem)
    if r != 0 then postOpen s cn 0x04 r (pTag p)
    else s.setCtx cn { c with apend := some { tag := pTag p, items := l } }

/-- OP of the frame record of a video task (R350). -/
def frOp (f : Nat) : Nat := field f 3 0
def frStream (f : Nat) : Nat := field f 11 4

def frameRecord (s : State) (r : Run) (c : Ctx) : Nat :=
  match readNat s r.ctx c (tProg r.desc) 128 with
  | .ok n => n
  | .error _ => 0

/-- An ENCODE of the stream is on its engine. -/
def picturesOut (s : State) (cn : Nat) (c : Ctx) (stream : Nat) : Nat :=
  (s.units.filter (fun p => p.2.ctx == cn && p.2.phase == .frame && frOp (frameRecord s p.2 c) == 2 &&
    frStream (frameRecord s p.2 c) == stream)).length

/-- A stream-scope ACCORD: bound to the first picture not yet dispatched (R357). DEDUCED: log entry 39. DEDUCED: log entry 40. -/
def accordStream (s : State) (cn : Nat) (c : Ctx) (p : Nat) (items : Unit → X (List ItemBits)) : State :=
  match (match s.order with
    | .full => NMap.get? c.streams (pStream p)
    | .half => none) with
  | none => postOpen s cn 0x04 0x0B (pTag p)
  | some st =>
    if st.dir != 0 then postOpen s cn 0x04 0x0B (pTag p)
    else if st.bound.any (fun b => !b.posted) then postOpen s cn 0x04 0x09 (pTag p) else
    match items () with
    | .error f => packetFault s.tick cn f (pTag p) (BitVec.ofNat 32 (Config.freeNat s.freeIx 2))
    | .ok l =>
      let r := firstReason (l.map (formStreamItem st.codec (pStream p)))
      if r != 0 then postOpen s cn 0x04 r (pTag p)
      else
        let b : BoundReq := { frame := st.frameNo + picturesOut s cn c (pStream p), tag := pTag p, items := l, posted := false }
        s.setCtx cn { c with streams := NMap.set c.streams (pStream p) { st with bound := st.bound ++ [b] } }

/-- The item list of an ACCORD, copied when its packet arrives. -/
def packetItems (s : State) (cn : Nat) (c : Ctx) (p : Nat) : X (List ItemBits) :=
  mapE (fun k => match readNat s cn c (pPtr p + 32 * k) 32 with
    | .ok n => .ok (BitVec.ofNat 256 n)
    | .error f => .error f) (rangeFrom 0 (pCount p))

/-- ACCORD: the form checks in the order of R464, then staging (R126, R129, R131). -/
def execAccord (ctx q : Nat) (s : State) : Res :=
  packetEvent s ctx q (· == 5) (fun s c p =>
    if pCount p = 0 ∨ 256 < pCount p then postOpen s ctx 0x04 0x0C (pTag p)
    else if pScope p = 3 then postOpen s ctx 0x04 0x04 (pTag p)
    else if pScope p = 2 then postOpen s ctx 0x04 0x0A (pTag p)
    else if pScope p = 1 then accordStream s ctx c p (fun _ => packetItems s ctx c p)
    else accordContext s ctx c p (fun _ => packetItems s ctx c p))

end Sys2Proof.Machine
end

