-- ==== Sys2Proof/Machine/Frame.lean ====
section
/-!
DEFINITION. Frame records of video tasks, the checks made at their dispatch, and the choice of an engine (R348, R350, R351, R353, R359).
-/

namespace Sys2Proof.Machine

/-! ### Fields of a frame record (R350); frOp and frStream stand in Packets -/

def frFkey (f : Nat) : Bool := bitAt f 12
/-- RES with bits [20:16] of the record ignored. -/
def frRes (f : Nat) : Nat := field f 63 21 * 32
def foCodec (f : Nat) : Nat := field f 64 64
def foDir (f : Nat) : Nat := field f 65 65
def foDepth (f : Nat) : Nat := field f 66 66
def foMatrix (f : Nat) : Nat := field f 68 67
def foRange (f : Nat) : Nat := field f 69 69
def foTrc (f : Nat) : Nat := field f 71 70
def foWidth (f : Nat) : Nat := field f 87 72
def foHeight (f : Nat) : Nat := field f 103 88
def foFpsn (f : Nat) : Nat := field f 119 104
def foFpsd (f : Nat) : Nat := field f 135 120
/-- SBASE with bits [156:136] of the record ignored. -/
def foSbase (f : Nat) : Nat := field f 183 157 * pageSize
def foSpages (f : Nat) : Nat := field f 199 184
def foRc (f : Nat) : Nat := field f 327 200
def feInmap (f : Nat) : Nat := field f 65 64
def feInsp (f : Nat) : Nat := field f 66 66
def feHwin (f : Nat) : Nat := field f 71 68
def feOff (f : Nat) : Nat := field f 119 72
def feCap (f : Nat) : Nat := field f 151 120
def fdBsrc (f : Nat) : Nat := field f 64 64
def fdOutsp (f : Nat) : Nat := field f 65 65
def fdOutmap (f : Nat) : Nat := field f 66 66

def ceil64 (n : Nat) : Nat := (n + 63) / 64 * 64

/-- Bytes a state region must hold (R353). -/
def stateNeed (dir codec w h : Nat) : Nat :=
  (if dir = 0 then 5 else if codec = 0 then 9 else 17) * ceil64 w * ceil64 h * 3 + 4194304

def openBad (f : Nat) : Bool :=
  let w := foWidth f
  let h := foHeight f
  foMatrix f == 3 || (foDir f == 0 && field (foRc f) 1 0 == 3) || w % 2 == 1 || h % 2 == 1 || decide (w < 64) || decide (8192 < w) ||
    decide (h < 64) || decide (4320 < h) || foFpsn f == 0 || foFpsd f == 0 ||
    decide (foSpages f * pageSize < stateNeed (foDir f) (foCodec f) w h)

/-- The picture tensor of R351. -/
def pictureOk (st : Stream) (t : TD) : Bool :=
  (match t.check with
   | .ok _ => true
   | .error _ => false) &&
    (t.fmt == .bf16 || t.fmt == .fp16 || t.fmt == .uint8) && t.rank == 3 && t.exts == [3, st.width, st.height] &&
    (st.dir == 0 || t.cmp == 0)

/-- Entry 0 of the descriptor table. -/
def pictureTD (s : State) (cn : Nat) (c : Ctx) (d : BitVec 1024) : X TD :=
  match readNat s cn c (tDtab d) 64 with
  | .ok n => .ok (TD.parse (BitVec.ofNat 512 n))
  | .error e => .error e

/-- Least capacity of an encode (R351). -/
def capNeed (st : Stream) : Nat := 3 * st.width * st.height * (st.depth + 1) / 2 + 65536

/-- The illegal-descriptor conditions of R351 for a task and its frame record. DEDUCED: log entry 78. DEDUCED: log entry 95. -/
def frameBad (s : State) (cn : Nat) (c : Ctx) (d : BitVec 1024) (f : Nat) : X Bool :=
  match frOp f, NMap.get? c.streams (frStream f) with
  | 1, st => .ok (st.isSome || openBad f)
  | 2, some st =>
    if st.dir != 0 || tNdesc d == 0 || decide (feCap f < capNeed st) then .ok true else
    (match pictureTD s cn c d with
     | .error e => .error e
     | .ok t => .ok (!(pictureOk st t) || (t.fmt != .uint8 && decide (2 ≤ feInmap f))))
  | 3, some st =>
    if st.dir != 1 || tNdesc d == 0 || feCap f == 0 then .ok true else
    (match pictureTD s cn c d with
     | .error e => .error e
     | .ok t => .ok (!(pictureOk st t)))
  | 4, some _ => .ok false
  | _, _ => .ok true

/-! ### Engines -/

def engineUnit (e : Nat) : UnitId := { die := 24 + e / 2, kind := .video, idx := e % 2 }
def engineOfUnit (u : UnitId) : Nat := (u.die - 24) * 2 + u.idx

/-- Open streams of an engine, over every context. -/
def engineStreams (s : State) (e : Nat) : List Stream :=
  s.ctxs.flatMap (fun p => (p.2.streams.filter (fun x => x.2.engine == e)).map (·.2))

/-- Engine slots in use: the open streams, and those closed since their context's boundary, which a replay of the epoch would open again
(R353, R363). DEDUCED: log entry 78. -/
def engineSlots (s : State) (e : Nat) : Nat :=
  (engineStreams s e).length + (s.ctxs.flatMap (fun p => p.2.streamsBase.filter (fun x =>
    x.2.engine == e && ((NMap.get? p.2.streams x.1).map (·.engine)) != some e))).length

/-- WIDTH × HEIGHT × FPSN / FPSD summed over an engine's streams. -/
def engineLoad (s : State) (e : Nat) : Rat :=
  (engineStreams s e).foldl (fun a x => a + ((x.width * x.height * x.fpsn : Nat) : Rat) / ((x.fpsd : Nat) : Rat)) 0

/-- The engine of least load in a list, the earliest winning a tie. -/
def leastLoaded (s : State) : List Nat → Option Nat
  | [] => none
  | e :: r =>
    match leastLoaded s r with
    | none => some e
    | some b => if engineLoad s b < engineLoad s e then some b else some e

/-- Engines that are not excluded. -/
def liveEngines (s : State) : List Nat := (rangeFrom 0 8).filter (fun e => !(s.excluded.contains (engineUnit e).key))

/-- The engine an OPEN takes: none when every slot is in use (R353). -/
def openEngine (s : State) : Option Nat := leastLoaded s ((liveEngines s).filter (fun e => decide (engineSlots s e < 32)))

/-- The engine that runs a frame task: its stream's, else the one an OPEN goes to. -/
def frameEngine (s : State) (c : Ctx) (f : Nat) : Nat :=
  match NMap.get? c.streams (frStream f) with
  | some st => st.engine
  | none => (leastLoaded s (liveEngines s)).getD 0

/-! ### Requests bound to a picture (R357) -/

/-- The rate control of a stream after a bound item (R356). -/
def applyRc (st : Stream) (v : Nat) : Stream :=
  let r := RcValue.parse v
  { st with rc := if r.keyonly then st.rc else BitVec.ofNat 128 v, keyDue := st.keyDue || r.keyreq }

/-- The frame boundary before a picture: bound requests take effect, and their completions are posted once. DEDUCED: log entry 40. -/
def takeBound (s : State) (cn stream : Nat) : State :=
  match (s.ctx? cn).bind (fun c => NMap.get? c.streams stream) with
  | none => s
  | some st =>
    let now := st.bound.filter (fun b => b.frame == st.frameNo)
    let st' := now.foldl (fun a b => match b.items with
      | [i] => applyRc a (iValue i)
      | _ => a) st
    let st' := { st' with bound := st'.bound.map (fun b => if b.frame = st.frameNo then { b with posted := true } else b) }
    let s := s.modCtx cn (fun c => { c with streams := NMap.set c.streams stream st' })
    now.foldl (fun s b => if b.posted then s else postOpen s cn 0x04 (if b.items.length = 1 then 0 else 5) b.tag) s

end Sys2Proof.Machine
end

