-- ==== Sys2Proof/Machine/Graph.lean ====
section
/-!
DEFINITION. Iterations, admission, dispatch and completion of tasks (R68, R92, R93, R95, R105, R108 to R119, R457).
-/

namespace Sys2Proof.Machine

/-! ### Opening an iteration (R108, R112, R113) -/

/-- Words of a binding record in memory. -/
def readBind (s : State) (cn : Nat) (c : Ctx) (va : Nat) : X (List Word64) :=
  mapE (fun i => match readNat s cn c (va + 8 * i) 8 with
    | .ok n => .ok (BitVec.ofNat 64 n)
    | .error e => .error e) (rangeFrom 0 16)

def launchStep (l : LaunchRec) : Bits32 := l.step0 + BitVec.ofNat 32 l.iter

/-- The binding record of the next iteration. -/
def launchBind (s : State) (cn : Nat) (c : Ctx) (l : LaunchRec) : X (List Word64) :=
  if l.ptr = 0 then .ok l.bind else readBind s cn c (l.ptr + 128 * l.iter)

def Epoch.start (l : LaunchRec) (bind : List Word64) : Epoch :=
  { tag := l.tag, cqe := l.cqe, q := l.q, step := launchStep l, bind := bind, arr := l.arr, count := l.count, carr := l.carr, tid := l.tid,
    lastIter := decide (l.iter + 1 = l.total), tasks := [], next := 0, attempt := 0, failed := 0, phase := .open, readyCount := 0,
    expired := [], ctxExpired := false, badLines := [], kvAlloc := [], openUnits := [] }

/-- An iteration opens once the previous boundary has committed: binding record, cleared completion array, admission from task 0.
DEDUCED: log entry 38. -/
def execIterationAdmit (ctx : Nat) (s : State) : Res :=
  match s.ctx? ctx with
  | none => .next s
  | some c =>
    match c.launch, c.epoch with
    | some l, none =>
      if !c.canRun || decide (l.total ≤ l.iter) then .next s else
      match launchBind s ctx c l with
      | .error f => .next (packetFault s ctx f l.tag (launchStep l))
      | .ok bind =>
        match taskWrite s ctx l.carr (List.replicate (16 * l.count) 0) with
        | .error f => .next (packetFault s ctx f l.tag (launchStep l))
        | .ok s =>
          .next (s.modCtx ctx (fun c => { c with launch := some { l with iter := l.iter + 1 }, epoch := some (Epoch.start l bind) }))
    | _, _ => .next s

/-! ### Checks of a task (R92, R93, R95, R113, R351, R457) -/

/-- The first check a task fails, in the order of R457; `bnd`: a BND task stands before the end of its array. -/
def taskCheck (s : State) (cn : Nat) (c : Ctx) (d : BitVec 1024) (bnd : Bool) : Option CFault :=
  if tCtx d != cn then some .contextIdentity
  else if tVer d != 0x10 || decide (c.umax < tVer d) then some .version
  else if bnd || tIllegal d then some .illegalDescriptor
  else if tKind d = 3 ∧ s.order = .half then some .unitAbsent
  else none

/-- The same with what a video task's frame record adds. -/
def dispatchCheck (s : State) (cn : Nat) (c : Ctx) (d : BitVec 1024) : Option CFault :=
  match taskCheck s cn c d false with
  | some f => some f
  | none =>
    if tKind d != 3 then none else
    match readNat s cn c (tProg d) 128 with
    | .error f => some f
    | .ok r => match frameBad s cn c d r with
      | .error f => some f
      | .ok b => if b then some .illegalDescriptor else none

/-! ### Admission (R109, R113, R115) -/

/-- Slots a context holds on a die. -/
def slotsHeld (c : Ctx) (die : Nat) : Nat :=
  match c.epoch with
  | none => 0
  | some e => (e.tasks.filter (fun t => t.2.die == die && t.2.status != .done)).length

def slotsFree (s : State) (die : Nat) : Nat := 16384 - sumBy (fun (p : Nat × Ctx) => slotsHeld p.2 die) s.ctxs

def slotOk (s : State) (c : Ctx) (die : Nat) : Bool := decide (0 < slotsFree s die) && decide (slotsHeld c die < c.tslotq)

/-- A die that no placement map keeps: its compute units are excluded, or its near tier is evacuated (R272, R388). -/
def dieGone (s : State) (d : Nat) : Bool :=
  s.exclDies.contains d || (nth Tier.fresh s.near d).evacuating || (nth Tier.fresh s.near d).excluded

/-- The die whose slot a task takes: its HOME's, else the die with most free slots of those that placement still uses (R115, R272).
DEDUCED: log entry 29. -/
def slotDie (s : State) (c : Ctx) (home : Nat) : Option Nat :=
  if home < 24 then (if slotOk s c (nth home c.place home) then some (nth home c.place home) else none)
  else argMin (fun d => 16384 - slotsFree s d) ((rangeFrom 0 24).filter (fun d => !(dieGone s d) && slotOk s c d))

/-- The class a task runs in (R118). -/
def taskClass (c : Ctx) (e : Epoch) (d : BitVec 1024) : Nat := min 2 (max (tPrio d) (max (sqCeil (getSq c e.q)) c.pceil))

/-- PEND of a completion record (R108). -/
def recPend (n : Nat) : Nat := field n 21 8

def tasksDone (e : Epoch) : Nat := (e.tasks.filter (fun t => t.2.status == .done)).length

/-- A waiting task becomes ready. -/
def TaskRec.ready (t : TaskRec) (seq : Nat) : TaskRec := if t.status = .waiting then { t with status := .ready, readySeq := seq } else t

/-- The BND task becomes ready when every other task of the epoch has completed, whatever its DEPS (R113). -/
def releaseBnd (e : Epoch) : Epoch :=
  if tasksDone e + 1 = e.count then
    { e with tasks := e.tasks.map (fun t => (t.1, if tBnd t.2.desc then t.2.ready e.readyCount else t.2)) }
  else e

/-- The record of an admitted task. -/
def admitRec (c : Ctx) (e : Epoch) (d : BitVec 1024) (die deps : Nat) : TaskRec :=
  let cls := taskClass c e d
  { desc := tWithStep d e.step.toNat, die := die, deps := deps, status := if deps = 0 ∧ tBnd d = false then .ready else .waiting, cls := cls,
    demoted := decide (tPrio d < cls), readySeq := e.readyCount, unit := none, banks := c.tabs.map (·.active), astat := 0, user := 0, tbw := false }

/-- The SUBMIT or LAUNCH is over for R105 once the last task of its last iteration is admitted. DEDUCED: log entry 37. -/
def launchAfter (c : Ctx) (e : Epoch) : Option LaunchRec :=
  match c.launch with
  | some l => if e.lastIter && decide (l.total ≤ l.iter) && decide (e.count ≤ e.next) then none else some l
  | none => none

/-- The next task of the open epoch enters a task slot. -/
def execTaskAdmit (ctx : Nat) (s : State) : Res :=
  match s.ctx? ctx with
  | none => .next s
  | some c =>
    match c.epoch with
    | none => .next s
    | some e =>
      if !c.canRun || e.phase != .open || decide (e.count ≤ e.next) then .next s else
      match readNat s ctx c (e.arr + 128 * e.next) 128, readNat s ctx c (e.carr + 16 * e.next) 16 with
      | .ok n, .ok rcd =>
        let d : BitVec 1024 := BitVec.ofNat 1024 n
        let bad := tBnd d && e.next + 1 != e.count
        if bad then .next (taskFault s ctx (coordDie c) ((taskCheck s ctx c d true).getD .illegalDescriptor) e.next 0xFFFFFFFF) else
        match slotDie s c (tHome d) with
        | none => .next s
        | some die =>
          let t := admitRec c e d die (tDeps d - recPend rcd)
          let e' := releaseBnd { e with tasks := NMap.set e.tasks e.next t, next := e.next + 1, readyCount := e.readyCount + 1 }
          .next (s.setCtx ctx { c with epoch := some e', launch := launchAfter c e' })
      | .error f, _ => .next (packetFault s ctx f e.tag e.step)
      | _, .error f => .next (packetFault s ctx f e.tag e.step)

/-! ### Units (R117, R375, R387, R426, R433) -/

def resetCovers (d : ResetDomain) (die : Nat) : Bool :=
  match d with
  | .dieCompute x => x == die
  | .computePart => decide (die < 24)
  | .module => true

/-- Dispatch on a compute die is held: compute hold, dispatch ramp, a reset. DESIGN CHOICE: log entry 33. -/
def dieHeld (s : State) (die : Nat) : Bool :=
  s.power.hold || decide (s.power.rampStage < Config.rampStageOf die) || s.resets.any (fun d => resetCovers d die)

def unitExcluded (s : State) (u : UnitId) : Bool := s.excluded.contains u.key || s.exclDies.contains u.die

/-- A key of an island: its code of R420, its die, its index there. -/
def islKey (isl die idx : Nat) : Nat := (isl * 32 + die) * 16 + idx

/-- The island's PLL has lost lock and it has not been restarted (R25). -/
def islandDown (s : State) (isl die idx : Nat) : Bool := s.islandsDown.contains (islKey isl die idx)

/-- A unit that can take a task. -/
def unitReady (s : State) (u : UnitId) : Bool :=
  u.exists_ s.order && (s.run? u).isNone && !unitExcluded s u &&
    (match u.kind with
     | .video => !(islandDown s 8 u.die u.idx) && !(s.resets.contains .module)
     | _ => !dieHeld s u.die)

/-- The lowest-numbered free unit of a kind on a die, other than one of a list. -/
def freeUnitOn (s : State) (die : Nat) (k : UnitKind) (not : List UnitId) : Option UnitId :=
  ((rangeFrom 0 (unitCount k)).map (fun i => ({ die := die, kind := k, idx := i } : UnitId))).find? (fun u => unitReady s u && !(not.contains u))

def freeUnitIn (s : State) (k : UnitKind) (not : List UnitId) : List Nat → Option UnitId
  | [] => none
  | d :: r =>
    match freeUnitOn s d k not with
    | some u => some u
    | none => freeUnitIn s k not r

/-- Units on which the task's watch expired in an earlier attempt (R373). DEDUCED: log entry 34. -/
def avoided (e : Epoch) (task : Nat) : List UnitId := (e.expired.filter (fun p => p.1 == task)).map (·.2)

/-- Kind a task dispatches as; a reserved kind is found at dispatch and goes with the clusters. DESIGN CHOICE: log entry 32. -/
def taskKind (d : BitVec 1024) : UnitKind := (kindOfCode (tKind d)).getD .cluster

/-! ### The start of a task (R68, R69, R117) -/

/-- Entries of the descriptor table. -/
def readTable (s : State) (cn : Nat) (c : Ctx) (d : BitVec 1024) : X (List (Option (BitVec 512))) :=
  match mapE (fun i => match readNat s cn c (tDtab d + 64 * i) 64 with
    | .ok n => .ok (some (BitVec.ofNat 512 n))
    | .error e => .error e) (rangeFrom 0 (tNdesc d)) with
  | .ok l => .ok (l ++ List.replicate (64 - tNdesc d) none)
  | .error e => .error e

/-- The sequencer state of R68; A0 takes DTAB without its ignored low bits. DESIGN CHOICE: log entry 103. -/
def startRun (ctx task att : Nat) (bind : List Word64) (t : TaskRec) (table : List (Option (BitVec 512))) : Run :=
  { ctx := ctx, task := task, att := att, desc := t.desc, S := 0 :: (bind ++ List.replicate 15 0), A := tDtab t.desc :: List.replicate 15 0,
    P := true :: List.replicate 7 false, T := table, E := List.replicate 8 none, Q := List.replicate 4 none, pc := tProg t.desc, loops := [],
    astat := 0, user := 0, tbw := false, planes := [], arrays := List.replicate 2 { active := [], shadow := [] }, banks := t.banks, phase := if tKind t.desc = 3 then .frame else .running,
    moves := [], drains := [], attns := [], pushes := 0, stagePushes := 0, asm := [] }

/-- Dispatch of one ready task: its checks, else its run on the unit. No unit: nothing happens. -/
def startTask (s : State) (cn task : Nat) (pick : Unit → Option UnitId) : State :=
  match s.ctx? cn with
  | none => s
  | some c =>
    match c.epoch with
    | none => s
    | some e =>
      match NMap.get? e.tasks task with
      | none => s
      | some t =>
        match dispatchCheck s cn c t.desc with
        | some f => taskFault s cn t.die f task 0xFFFFFFFF
        | none =>
          match pick () with
          | none => s
          | some u =>
            match readTable s cn c t.desc with
            | .error f => taskFault s cn t.die f task 0xFFFFFFFF
            | .ok table =>
              let e' := { e with tasks := NMap.set e.tasks task { t with status := .running, unit := some u } }
              let r := startRun cn task e.attempt e.bind t table
              let s := (s.setCtx cn { c with epoch := some e' }).setRun u r
              if tKind t.desc = 3 ∧ frOp (frameRecord s r c) = 2 then takeBound s cn (frStream (frameRecord s r c)) else s

/-! ### Order of dispatch (R118, R359) -/

/-- A ready task of some context: context, task, record. -/
abbrev Cand := Nat × Nat × TaskRec

/-- Ready tasks of a kind that a die, or an engine for video tasks, dispatches. -/
def candidates (s : State) (die : Nat) (k : UnitKind) (idx : Nat) : List Cand :=
  s.ctxs.flatMap (fun p =>
    let c := p.2
    match c.epoch with
    | none => []
    | some e =>
      if !c.canRun || c.stopped || e.phase != .open || ((k == .cluster || k == .pipeline) && s.power.tenantHold.contains c.tenant) then [] else
      (e.tasks.filter (fun t => t.2.status == .ready && taskKind t.2.desc == k &&
        (match k with
         | .video => s.order == .half || engineUnit (frameEngine s c (match readNat s p.1 c (tProg t.2.desc) 128 with
            | .ok n => n
            | .error _ => 0)) == ({ die := die, kind := .video, idx := idx } : UnitId)
         | _ => t.2.die == die))).map (fun t => (p.1, t.1, t.2)))

/-- Ready first, the lower index on a tie. DEDUCED: log entry 31. -/
def oldest (l : List Cand) : Option Cand := argMin (fun x => x.2.2.readySeq * 2 ^ 21 + x.2.1) l

def drrKey (die : Nat) (k : UnitKind) (idx cls : Nat) : Nat := ((die * 4 + k.ix) * 16 + idx) * 4 + cls

def Drr.fresh : Drr := { cur := 256, credit := [] }

/-- The next turn of the deficit round robin: the current context while it has credit, else the next one, with its weight added.
DEDUCED: log entry 30. -/
def drrTurn (s : State) (d : Drr) (ready : List Nat) : Option (Drr × Nat) :=
  if ready.contains d.cur ∧ 1 ≤ NMap.getD d.credit d.cur 0 then some (d, d.cur)
  else
    match (match ready.find? (fun c => decide (d.cur < c)) with
      | some c => some c
      | none => ready.head?) with
    | none => none
    | some c =>
      let w := match s.ctx? c with
        | some x => max 1 x.weight
        | none => 1
      some ({ cur := c, credit := NMap.set d.credit c (NMap.getD d.credit c 0 + w) }, c)

/-- One dispatch is charged; a context with nothing more ready in the class loses its credit. DEDUCED: log entry 30. -/
def drrCharge (d : Drr) (cn : Nat) (more : Bool) : Drr :=
  { d with credit := if more then NMap.set d.credit cn (NMap.getD d.credit cn 0 - 1) else NMap.erase d.credit cn }

/-- Dies whose units a task with HOME = 31 may use (R117, R272). -/
def otherDies (s : State) : List Nat := (rangeFrom 0 24).filter (fun d => !(dieGone s d))

/-- A task that could be dispatched now: it fails a check, or a unit is free for it. -/
def placeable (s : State) (die : Nat) (k : UnitKind) (idx : Nat) (x : Cand) : Bool :=
  match s.ctx? x.1 with
  | none => false
  | some c =>
    match c.epoch with
    | none => false
    | some e =>
      (dispatchCheck s x.1 c x.2.2.desc).isSome ||
        (match k with
         | .video => unitReady s { die := die, kind := .video, idx := idx }
         | _ => (freeUnitOn s die k (avoided e x.2.1)).isSome ||
            (tHome x.2.2.desc == 31 && (freeUnitIn s k (avoided e x.2.1) (otherDies s)).isSome))

/-- The unit a task takes on its own die; a task with HOME = 31 runs on any die. -/
def pickUnit (s : State) (die : Nat) (k : UnitKind) (idx : Nat) (x : Cand) : Option UnitId :=
  match (s.ctx? x.1).bind (fun c => c.epoch) with
  | none => none
  | some e =>
    match k with
    | .video => if unitReady s { die := die, kind := .video, idx := idx } then some { die := die, kind := .video, idx := idx } else none
    | _ => freeUnitIn s k (avoided e x.2.1) (die :: (if tHome x.2.2.desc = 31 then otherDies s else []))

/-- One dispatch of a die and kind: class by class, contexts by deficit round robin, the oldest task of the context. DEDUCED: log entry 30. -/
def dispatchOne (s : State) (die : Nat) (k : UnitKind) (idx : Nat) : Option State :=
  let all := (candidates s die k idx).filter (placeable s die k idx)
  match argMin (fun x => x.2.2.cls) all with
  | none => none
  | some top =>
    let cls := top.2.2.cls
    let now := all.filter (fun x => x.2.2.cls == cls)
    let key := drrKey die k idx cls
    match drrTurn s (NMap.getD s.drr key Drr.fresh) (dedup (now.map (·.1))) with
    | none => none
    | some (d, cn) =>
      match oldest (now.filter (fun x => x.1 == cn)) with
      | none => none
      | some x =>
        let s' : State := { s with drr := NMap.set s.drr key (drrCharge d cn (decide (1 < (now.filter (fun x => x.1 == cn)).length))) }
        some (startTask s' cn x.2.1 (fun _ => pickUnit s' die k idx x))

/-- A ready task is dispatched; for the video engines of an I/O die, the lower engine goes first. -/
def execTaskDispatch (die : Nat) (kind : UnitKind) (s : State) : Res :=
  match kind with
  | .video =>
    match dispatchOne s die .video 0 with
    | some s => .next s
    | none => .next ((dispatchOne s die .video 1).getD s)
  | k => .next ((dispatchOne s die k 0).getD s)

/-- Dies one Tradewind hop away that placement uses, the lowest physical number first (R117, R272). -/
def neighbours (s : State) (die : Nat) : List Nat := (otherDies s).filter (fun d => hops die d == 1)

/-- The unit a task that has waited takes: one of a die one hop away, or, after a watch expiry, the unit it expired on last of all
(R117, R373). DEDUCED: log entry 34. -/
def waitedUnit (s : State) (e : Epoch) (task die : Nat) (k : UnitKind) : Option UnitId :=
  match freeUnitIn s k (avoided e task) (neighbours s die) with
  | some u => some u
  | none => freeUnitIn s k [] (die :: neighbours s die)

/-- A ready task of a higher class waits for a unit of the kind on one of the two dies (R119). DEDUCED: log entry 34. -/
def higherWaits (s : State) (k : UnitKind) (cls d1 d2 : Nat) : Bool :=
  (candidates s d1 k 0 ++ candidates s d2 k 0).any (fun x => decide (x.2.2.cls < cls))

/-- After 8,192 cycles without a unit of its own die, a task may run one hop away: the oldest of its context in its class, when no
ready task of a higher class wants the unit, and its context is charged (R117 to R119). DEDUCED: log entry 34. -/
def execDispatchNeighbour (ctx task : Nat) (s : State) : Res :=
  match s.ctx? ctx with
  | none => .next s
  | some c =>
    match c.epoch with
    | none => .next s
    | some e =>
      match NMap.get? e.tasks task with
      | none => .next s
      | some t =>
        let k := taskKind t.desc
        let mine := (candidates s t.die k 0).filter (fun x => x.1 == ctx && x.2.2.cls == t.cls)
        if k == .video || (oldest mine).map (·.2.1) != some task || (freeUnitOn s t.die k (avoided e task)).isSome then .next s else
        match waitedUnit s e task t.die k with
        | none => .next s
        | some u =>
          if higherWaits s k t.cls t.die u.die then .next s else
          let key := drrKey t.die k 0 t.cls
          match drrTurn s (NMap.getD s.drr key Drr.fresh) [ctx] with
          | none => .next s
          | some (d, _) =>
            .next (startTask { s with drr := NMap.set s.drr key (drrCharge d ctx (decide (1 < mine.length))) } ctx task (fun _ => some u))

/-! ### Completion (R55, R108, R109) -/

/-- The completion-array record of a completed task. -/
def doneRecord (r : Run) (demoted : Bool) : Nat :=
  1 + r.astat.toNat * 2 ^ 32 + r.user.toNat * 2 ^ 64 + b2n r.tbw * 2 ^ 96 + b2n demoted * 2 ^ 97

/-- A dependence of an admitted task is met. -/
def TaskRec.release (t : TaskRec) (seq : Nat) : TaskRec :=
  if t.status = .waiting ∧ tBnd t.desc = false then
    let t' := { t with deps := t.deps - 1 }
    if t'.deps = 0 then t'.ready seq else t'
  else t

/-- One decrement: in the task slot, or in PEND of a task not yet admitted; an index beyond the array is ignored (R109, R111).
DEDUCED: log entry 38. -/
def decrement (s : State) (cn i : Nat) : X State :=
  match s.ctx? cn with
  | none => .ok s
  | some c =>
    match c.epoch with
    | none => .ok s
    | some e =>
      if e.count ≤ i then .ok s
      else if i < e.next then
        .ok (s.setCtx cn { c with epoch := some { e with tasks := NMap.modify e.tasks i (fun t => t.release e.readyCount) } })
      else
        match readNat s cn c (e.carr + 16 * i) 4 with
        | .error f => .error f
        | .ok n => taskWrite s cn (e.carr + 16 * i) (toBytes 4 (setField n 21 8 (min 16383 (recPend n + 1))))

/-- The task as completed, with its flags. -/
def TaskRec.finish (t : TaskRec) (r : Run) : TaskRec := { t with status := .done, astat := r.astat, user := r.user, tbw := r.tbw }

/-- Step 1 of a boundary when the last task completes, by HALT if it is the BND task: the staged request is taken (R114, R131). -/
def takeRequest (c : Ctx) (e : Epoch) (r : Run) : Ctx :=
  if tasksDone e = e.count ∧ r.phase ≠ .handing then c.takeStaged else c

/-- A task whose asynchronous groups have all retired completes. DEDUCED: log entry 38. -/
def completeTask (s : State) (u : UnitId) (r : Run) (c : Ctx) (e : Epoch) (t : TaskRec) : State :=
  let e1 := { e with tasks := NMap.set e.tasks r.task (t.finish r) }
  let s1 := (s.setCtx r.ctx { c with epoch := some e1 }).freeUnit u
  let go : X State :=
    match taskWrite s1 r.ctx (e.carr + 16 * r.task) (toBytes 16 (doneRecord r t.demoted)) with
    | .error f => .error f
    | .ok s2 =>
      match readSucc s2 r.ctx c t.desc with
      | .error f => .error f
      | .ok l => foldE (fun s i => decrement s r.ctx i) s2 l
  match go with
  | .error f => taskFault s1 r.ctx u.die f r.task 0xFFFFFFFF
  | .ok s3 =>
    s3.modCtx r.ctx (fun c =>
      match c.epoch with
      | none => c
      | some e =>
        let e := releaseBnd { e with readyCount := e.readyCount + 1 }
        takeRequest { c with epoch := some e } e r)

/-- The task is an ENCODE, whose bitstream is on its way to the host (R361). -/
def writesBitstream (s : State) (r : Run) (c : Ctx) : Bool := tKind r.desc == 3 && frOp (frameRecord s r c) == 2

/-- A task completes. `acked`: the host has acknowledged the writes of an ENCODE, for which its task waits (R361). DESIGN CHOICE: log entry 12. -/
def execTaskComplete (u : UnitId) (acked : Bool) (s : State) : Res :=
  match s.run? u with
  | none => .next s
  | some r =>
    if !(r.phase == .halting || r.phase == .handing) || !(groupsDone r 15) then .next s else
    match s.ctx? r.ctx with
    | none => .next s
    | some c =>
      if !acked && writesBitstream s r c then .next s else
      match c.epoch with
      | none => .next s
      | some e =>
        match NMap.get? e.tasks r.task with
        | none => .next s
        | some t =>
          if r.att != e.attempt || e.phase != .open then .next s
          else .next (completeTask s u r c e t)

end Sys2Proof.Machine
end

