-- ==== Sys2Proof/Machine/Exclude.lean ====
section
/-!
DEFINITION. Exclusion of units, dies and engines, capacity notices, and re-placement (R353, R362, R387 to R389).
-/

namespace Sys2Proof.Machine

/-! ### Capacity notices (R370, R389) -/

/-- One record of KIND 0x11; no packet gives its TAG. DESIGN CHOICE: log entry 35. -/
def postNotice (s : State) (cn code user astat : Nat) : State :=
  post s.tick cn (mkRec 0x11 code (BitVec.ofNat 32 (Config.freeNat s.freeIx 3)) 0 (BitVec.ofNat 32 astat) (BitVec.ofNat 32 user) false false)

/-- A notice to every context of every tenant with something on the resource. -/
def notice (s : State) (code user : Nat) (uses : Nat → Ctx → Bool) : State :=
  let tenants := (s.ctxs.filter (fun p => uses p.1 p.2)).map (fun p => p.2.tenant)
  s.ctxs.foldl (fun s p => if tenants.contains p.2.tenant then postNotice s p.1 code user 0 else s) s

/-- The exclusion in the log (R399). -/
def logExclusion (s : State) (die ukind unit code : Nat) : State := s.logRec 0x2A die ukind unit 0xFF 0 0 code 0xFF 0

/-! ### Placement (R116, R388) -/

/-- The physical unit for a unit code 0-15 (cluster) or 16-23 (pipeline) of a die. -/
def codeUnit (die k : Nat) : UnitId := if k < 16 then { die := die, kind := .cluster, idx := k } else { die := die, kind := .pipeline, idx := k - 16 }

/-- Code of a window that near pages back. -/
def backedCode : Nat := 255

/-- Every logical die and unit. -/
def logicalUnits : List (Nat × Nat) := (rangeFrom 0 24).flatMap (fun d => (rangeFrom 0 24).map (fun k => (d, k)))

def unitUsers (c : Ctx) (die k : Nat) : Nat := (logicalUnits.filter (fun x => physUnit c x.1 x.2 == (die, k))).length

/-- Share units of 1/128 that the contexts hold of a physical unit. -/
def allocated (s : State) (die k : Nat) : Nat := sumBy (fun (p : Nat × Ctx) => p.2.spshare * unitUsers p.2 die k) s.ctxs

/-- Units of the same kind on a die with room for the share, most unallocated first; none on a die that placement has left. -/
def roomOn (s : State) (share die k : Nat) : Option (Nat × Nat) :=
  if dieGone s die then none else
  let codes := if k < 16 then rangeFrom 0 16 else rangeFrom 16 8
  (argMin (fun j => allocated s die j)
    (codes.filter (fun j => !(unitExcluded s (codeUnit die j)) && decide (allocated s die j + share ≤ 128)))).map (fun j => (die, j))

/-- The first die of a list with a unit that has room for a share. DEDUCED: log entry 80. -/
def roomFrom (s : State) (share k : Nat) : List Nat → Option (Nat × Nat)
  | [] => none
  | d :: r =>
    match roomOn s share d k with
    | some p => some p
    | none => roomFrom s share k r

/-- Near pages for n pages of backing. -/
def takeBacking : Nat → State → Nat → Nat → State
  | 0, s, _, _ => s
  | n + 1, s, cn, die =>
    match takePage s false [die] with
    | none => s
    | some (s, p) => takeBacking n (s.modCtx cn (fun c => { c with backing := p :: c.backing })) cn die

/-- A logical unit goes to the unit of its kind with the most unallocated room on a die, or the nearest die with one that has room;
with none, near pages of the die back its window (R388). -/
def placeUnit (cn : Nat) (s : State) (x : Nat × Nat) (c : Ctx) (code die : Nat) : State :=
  let put (q : Nat × Nat) : State := s.setCtx cn { c with placeUnits := NMap.set c.placeUnits (x.1 * 24 + x.2) q }
  match roomFrom s c.spshare code (dieOrder die) with
  | some q => put q
  | none => takeBacking (ceilDiv (if code < 16 then shareCluster c else sharePipe c) pageSize) (put (die, backedCode)) cn die

/-- One logical unit whose physical unit is excluded, or on a die that placement has left, moves: from a die that is gone to the die its
logical die now lies on. DEDUCED: log entry 80. -/
def replaceUnit (cn : Nat) (s : State) (x : Nat × Nat) : State :=
  match s.ctx? cn with
  | none => s
  | some c =>
    let p := physUnit c x.1 x.2
    if p.2 = backedCode ∨ (unitExcluded s (codeUnit p.1 p.2) = false ∧ dieGone s p.1 = false) then s
    else placeUnit cn s x c p.2 (if dieGone s p.1 then nth x.1 c.place x.1 else p.1)

/-- Logical dies of a context on a physical die. -/
def diesOn (c : Ctx) (d : Nat) : Nat := (c.place.filter (· == d)).length

/-- The units of a logical die stay where they are, said unit by unit, until each is placed anew. -/
def pinUnits (c : Ctx) (ld : Nat) : NMap (Nat × Nat) :=
  (rangeFrom 0 24).foldl (fun m k => NMap.set m (ld * 24 + k) (physUnit c ld k)) c.placeUnits

/-- The logical dies of an excluded die move; their units follow one by one. -/
def replaceDie (s : State) (c : Ctx) (ld : Nat) : Ctx :=
  let old := nth ld c.place ld
  if dieGone s old then
    match argMin (fun d => diesOn c d * 2 ^ 16 + hops old d * 2 ^ 8 + d) (otherDies s) with
    | some d => { c with placeUnits := pinUnits c ld, place := setNth c.place ld d }
    | none => c
  else c

/-- The placement map of a context leaves every excluded unit. DEDUCED: log entry 80. -/
def replan (s : State) (cn : Nat) : State :=
  match s.ctx? cn with
  | none => s
  | some c =>
    logicalUnits.foldl (replaceUnit cn) (s.setCtx cn ((rangeFrom 0 24).foldl (replaceDie s) c))

/-! ### Exclusion (R362, R387) -/

/-- A stream on an engine moves to another one. -/
def Stream.reopen (e j : Nat) (x : Stream) : Stream := if x.engine = e then { x with engine := j } else x

/-- Streams of a context on an engine, those that only a replay would open again among them. -/
def streamsOn (c : Ctx) (e : Nat) : List Nat :=
  (rangeFrom 0 256).filter (fun k =>
    (NMap.get? c.streams k).any (fun x => x.engine == e) || (NMap.get? c.streamsBase k).any (fun x => x.engine == e))

/-- Streams of an excluded engine reopen on other engines, their state regions unchanged. -/
def moveStreams (s : State) (e : Nat) : State :=
  s.ctxs.foldl (fun s p =>
    (streamsOn p.2 e).foldl (fun s k =>
      match leastLoaded s ((liveEngines s).filter (fun j => j != e && decide (engineSlots s j < 32))) with
      | none => s
      | some j => s.modCtx p.1 (fun c => { c with streams := NMap.modify c.streams k (Stream.reopen e j),
                                                  streamsBase := NMap.modify c.streamsBase k (Stream.reopen e j) })) s) s

def noticeCode (k : UnitKind) : Nat :=
  match k with
  | .cluster => 1 | .pipeline => 2 | .move => 3 | .video => 8

/-- A context has something on a unit. -/
def usesUnit (u : UnitId) (c : Ctx) : Bool :=
  match u.kind with
  | .cluster => logicalUnits.any (fun x => physUnit c x.1 x.2 == (u.die, u.idx))
  | .pipeline => logicalUnits.any (fun x => physUnit c x.1 x.2 == (u.die, 16 + u.idx))
  | .move => c.place.contains u.die
  | .video => !(streamsOn c (engineOfUnit u)).isEmpty

/-- An exclusion ends a run of failed attempts (R386). -/
def clearFailed (s : State) : State := { s with ctxs := s.ctxs.map (fun p => (p.1, p.2.modEpoch (fun e => { e with failed := 0 }))) }

/-- A unit is excluded until module reset: logged, its tenants told, a video engine's streams moved. -/
def excludeUnit (s : State) (u : UnitId) : State :=
  if unitExcluded s u then s else
  let user := match u.kind with
    | .video => engineOfUnit u
    | _ => u.die + u.idx * 2 ^ 8
  let s1 := notice (logExclusion (clearFailed { s with excluded := u.key :: s.excluded }) u.die u.kind.ix u.idx (noticeCode u.kind)) (noticeCode u.kind) user
    (fun _ c => usesUnit u c)
  if u.kind = .video then moveStreams s1 (engineOfUnit u) else s1

/-- The compute units of a whole die are excluded. -/
def excludeDie (s : State) (die : Nat) : State :=
  if s.exclDies.contains die then s else
  notice (logExclusion (clearFailed { s with exclDies := die :: s.exclDies }) die 7 0 4) 4 die (fun _ c => c.place.contains die || c.placeUnits.any (fun x => x.2.1 == die))

/-- Source of uncorrected step data in 3 attempts, or of unit-state faults twice (R387). -/
def persistent (s : State) (u : UnitId) : Bool :=
  match NMap.get? s.strikes u.key with
  | some k => decide (3 ≤ k.data) || decide (2 ≤ k.unitState)
  | none => false

/-- Units that meet the criteria are excluded. -/
def excludePersistent (s : State) : State :=
  s.strikes.foldl (fun s p =>
    let u : UnitId := { die := p.1 / 64, kind := (kindOfCode (p.1 / 16 % 4)).getD .cluster, idx := p.1 % 16 }
    if persistent s u then excludeUnit s u else s) s

end Sys2Proof.Machine
end

