-- ==== Sys2Proof/Machine/Boundary.lean ====
section
/-!
DEFINITION. The boundary of a context: scale slots, Accord, eviction, shadows, the replay point, and the records (R57 to R59, R107, R113, R114, R131, R454).
-/

namespace Sys2Proof.Machine

/-! ### Step 3: scale slots (R59, R454) -/

/-- A slot after its update. `fmt`: the destination format last recorded for it. -/
def slotUpdate (v : Nat) (fmt : Option Nat) : Nat :=
  let amax : Bits32 := BitVec.ofNat 32 (field v 31 0)
  let a := fp amax
  let odd := a.isNan || amax == inf32
  let v1 := if odd then setField v 45 45 1 else v
  let v2 :=
    if field v 44 43 = 1 ∧ a.isFinite ∧ a.isZero = false then
      (match fmt.bind Fmt.ofCode with
       | some f => setField v1 39 32 (scaleCode amax f (field v 42 40))
       | none => v1)
    else v1
  setField v2 31 0 0

def updateSlot (cn : Nat) (s : State) (slot : Nat) : State :=
  match s.ctx? cn with
  | none => s
  | some c =>
    match readNat s cn c (scaleSlotVa slot) 8 with
    | .error _ => s
    | .ok v => fwWrite s cn (scaleSlotVa slot) (toBytes 8 (slotUpdate v (NMap.get? c.slotFmt slot)))

def updateSlots (s : State) (cn : Nat) : State := (rangeFrom 0 4096).foldl (updateSlot cn) s

/-! ### Step 4: the requests the boundary has taken -/

/-- One request: all its items or none, and the reason for its record. -/
def applyRequest (cn : Nat) (a : State × List (Bits32 × Nat)) (q : AccordReq) : State × List (Bits32 × Nat) :=
  match a.1.ctx? cn with
  | none => a
  | some c =>
    let r := commitCheck a.1 cn c q.items
    ((if r = 0 then applyItems a.1 cn q.items else a.1), a.2 ++ [(q.tag, r)])

/-! ### Step 5: shadows become current -/

/-- One shadow replaces its page, which returns to the pool; a move of the old page ends. -/
def commitShadow (cn : Nat) (s : State) (x : Nat × ShadowEnt) : State :=
  match s.ctx? cn with
  | none => s
  | some c =>
    match NMap.get? c.pages x.1 with
    | none => recyclePage s x.2.phys
    | some e =>
      let s := s.setCtx cn { c with pages := NMap.set c.pages x.1 { phys := x.2.phys, ro := e.ro, moveTo := none } }
      let s := recyclePage s e.phys
      match e.moveTo with
      | some q => releasePage s q
      | none => s

def commitShadows (s : State) (cn : Nat) : State :=
  match s.ctx? cn with
  | none => s
  | some c => (c.shadows.foldl (commitShadow cn) s).modCtx cn (fun c => { c with shadows := [] })

/-! ### Steps 6 and 7 -/

/-- Requests bound to a picture of the stream that are over. -/
def Stream.settled (x : Stream) : Stream := { x with bound := x.bound.filter (fun b => !b.posted) }

/-- The replay point: EPOCH, the copies a replay goes back to, tenancy settings, registration, template. -/
def closeEpoch (s : State) (cn : Nat) (e : Epoch) : State :=
  s.modCtx cn (fun c =>
    let t := tenantBits s c.tenant
    let streams := c.streams.map (fun x => (x.1, x.2.settled))
    { c with
      epochNo := c.epochNo + 1, epoch := none, taken := [], slotFmtBase := c.slotFmt, streams := streams, streamsBase := streams,
      boundPast := [], boundNext := [],
      pceil := teField t 517 516, weight := teField t 534 527, tslotq := teField t 549 535,
      reg := match s.host? c.slot with
        | some h => h.reg
        | none => c.reg
      templates := match e.tid with
        | some k => if e.lastIter then NMap.modify c.templates k (fun x => { x with live := x.live - 1 }) else c.templates
        | none => c.templates })

/-- The iteration's record (R107). -/
def iterationRecord (e : Epoch) : Nat :=
  let ts := e.tasks.map (·.2)
  let user := match ts.find? (fun t => tBnd t.desc) with
    | some t => t.user
    | none => 0
  mkRec 0x01 0 e.tag e.step (orFlags (ts.map (·.astat))) user (ts.any (·.tbw)) (ts.any (·.demoted))

/-- A Squall that aborts this attempt of the epoch is on its way: the error it tells of came before the commit (R154, R386). -/
def abortComing (s : State) (cn : Nat) (c : Ctx) (e : Epoch) : Bool :=
  s.squalls.any (fun q => q.kind == 1 && q.ctx == cn && q.epoch == c.epochNo && q.att == e.attempt % 16)

/-- The boundary may commit: every task has completed, no abort is on its way, no record is held, no copy runs, no page-out is waited for
(R101, R114, R386, R461). -/
def boundaryReady (s : State) (cn : Nat) (c : Ctx) (e : Epoch) : Bool :=
  e.phase == .open && !(abortComing s cn c e) && tasksDone e == e.count && c.heldRecs.isEmpty && (copyingPages c).isEmpty && !c.faulted && !c.drydown &&
    c.taken.all (fun q => !(waitsForPageOut s cn q.items))

/-- The compression pool is packed behind the boundary (R315). DEDUCED: log entry 82. -/
def packPool (s : State) (cn : Nat) : State :=
  match compactPool s cn with
  | .ok s => s
  | .error _ => s

/-- The RESUMEs of the requests that took effect (R239). -/
def resumeTaken (s : State) (cn : Nat) (qs : List (AccordReq × (Bits32 × Nat))) : State :=
  qs.foldl (fun s p => if p.2.2 = 0 then resumeItems s cn p.1.items else s) s

/-- A boundary commits (R114). -/
def commitBoundary (s : State) (ctx : Nat) : State :=
  match s.ctx? ctx with
  | none => s
  | some c =>
    match c.epoch with
    | none => s
    | some e =>
      if !boundaryReady s ctx c e then s else
      match commitUnits (updateSlots s ctx) ctx e.openUnits with
      | .error f => contextFault s ctx (coordDie c) f 0xFFFFFFFF 0xFFFFFFFF e.tag e.step
      | .ok s1 =>
        let p := c.taken.foldl (applyRequest ctx) (s1, [])
        let s2 := replan (packPool (closeEpoch (commitShadows (evictMarked p.1 ctx) ctx) ctx e) ctx) ctx
        let s3 := p.2.foldl (fun s r => postOpen s ctx 0x04 r.2 r.1) s2
        let s4 := if e.cqe then post s3 ctx (iterationRecord e) else s3
        resumeTaken (selectEvictions s4 ctx) ctx (c.taken.zip p.2)

end Sys2Proof.Machine
end

