-- ==== Sys2Proof/Machine/Memev.lean ====
section
/-!
DEFINITION. Memory events: retries, dead symbols, retirement, evacuation, page moves, scrubs, poisoned lines (R265 to R276, R285, R297, R366, R367, R390).
-/

namespace Sys2Proof.Machine

/-! ### Pages and their owners -/

def tierOf (s : State) (far : Bool) (die : Nat) : Tier := nth Tier.fresh (if far then s.far else s.near) die

def State.modTier (s : State) (far : Bool) (die : Nat) (f : Tier → Tier) : State :=
  if far then { s with far := setNth s.far die (f (nth Tier.fresh s.far die)) }
  else { s with near := setNth s.near die (f (nth Tier.fresh s.near die)) }

/-- The context page that lies at a physical page: context, virtual page. -/
def pageOwner (s : State) (phys : Nat) : Option (Nat × Nat) :=
  s.ctxs.findSome? (fun p => (p.2.pages.find? (fun e => e.2.phys == phys)).map (fun e => (p.1, e.1)))

/-- The same for a shadow. -/
def shadowOwner (s : State) (phys : Nat) : Option (Nat × Nat) :=
  s.ctxs.findSome? (fun p => (p.2.shadows.find? (fun e => e.2.phys == phys)).map (fun e => (p.1, e.1)))

/-- The page or shadow at a physical page. -/
def anyOwner (s : State) (phys : Nat) : Option (Nat × Nat) :=
  match pageOwner s phys with
  | some x => some x
  | none => shadowOwner s phys

/-- The context whose windows a near page backs (R388). -/
def backingOwner (s : State) (phys : Nat) : Option Nat := (s.ctxs.find? (fun p => p.2.backing.contains phys)).map (·.1)

/-- The context that has a physical page, 0xFF for firmware (R297). -/
def recordCtx (s : State) (page : Nat) : Nat :=
  match anyOwner s page, backingOwner s page with
  | some x, _ => x.1
  | none, some cn => cn
  | none, none => 0xFF

/-- Page and byte offset of a channel-local line (R265). -/
def nearLine (chan line : Nat) : Nat × Nat := (line / 256, 64 * (128 * (line % 256) + (chan + 128 - line / 256 % 128) % 128))
def farLine (chan line : Nat) : Nat × Nat := (line / 1024, 64 * (32 * (line % 1024) + (chan + 32 - line / 1024 % 32) % 32))

/-- Physical address of a channel-local line. -/
def linePhys (far : Bool) (die chan line : Nat) : Nat :=
  let p := if far then farLine chan line else nearLine chan line
  physPage far die p.1 + p.2

/-- A memory record of a number of events from a controller (R297). -/
def logMemoryN (s : State) (kind : Nat) (far : Bool) (die chan sym phys count : Nat) : State :=
  s.log die (if far then 4 else 3) 0 (recMemory kind die (b2n far) chan sym (phys / 64) count (recordCtx s (phys - phys % pageSize)))

/-- A memory record of one event. -/
def logMemory (s : State) (kind : Nat) (far : Bool) (die chan sym phys : Nat) : State := logMemoryN s kind far die chan sym phys 1

/-- The events are of one line and kind. -/
def Corrected.same (x y : Corrected) : Bool := x.kind == y.kind && x.far == y.far && x.die == y.die && x.phys / 64 == y.phys / 64

/-- A corrected event waits for the one record of its line, made when the next scrub interval begins (R297). DESIGN CHOICE: log entry 100. -/
def corrected (s : State) (kind : Nat) (far : Bool) (die chan sym phys : Nat) : State :=
  let x : Corrected := { kind := kind, far := far, die := die, chan := chan, sym := sym, phys := phys, count := 1 }
  { s with corrected :=
      if s.corrected.any (fun y => y.same x) then s.corrected.map (fun y => if y.same x then { y with count := y.count + 1 } else y)
      else s.corrected ++ [x] }

/-- The records of a tier's interval (R273, R297). -/
def flushCorrected (s : State) (far : Bool) (die : Nat) : State :=
  let mine := s.corrected.filter (fun x => x.far == far && x.die == die)
  mine.foldl (fun s x => logMemoryN s x.kind x.far x.die x.chan x.sym x.phys x.count)
    { s with corrected := s.corrected.filter (fun x => !(x.far == far && x.die == die)) }

/-- A path word corrected, with its nibble, or a replay or retrain, with none (R279, R297, R324); the manual gives no CHAN and LINE for a path.
DESIGN CHOICE: log entry 64. -/
def logPath (s : State) (die nibble : Nat) : State :=
  s.log die (if die < 24 then 5 else 7) 0
    (recMemory 0x0B (min die 23) 1 (Config.freeNat s.freeIx 4 % 128) nibble (Config.freeNat s.freeIx 5) 1 0xFF)

/-! ### Page moves (R271, R272, R276, R285) -/

/-- Begin the move of a page to the first free page of a list of tiers and dies. -/
def beginMove (s : State) (cn vp : Nat) (order : List (Bool × List Nat)) : Option State :=
  match order with
  | [] => none
  | (far, dies) :: r =>
    match takePage s far dies with
    | none => beginMove s cn vp r
    | some (s, q) => some (s.modCtx cn (fun c => { c with pages := NMap.modify c.pages vp (fun e => { e with moveTo := some q }) }))

/-- Where a page that must leave goes: the same tier, the nearest die first; from an evacuated near tier, far pages after that (R271, R272). -/
def moveOrder (s : State) (far : Bool) (die : Nat) : List (Bool × List Nat) :=
  if !far && (tierOf s far die).evacuating then [(false, dieOrder die), (true, dieOrder die)] else [(far, dieOrder die)]

/-- A page must leave: its tier is being evacuated, or it is bad. -/
def mustLeave (s : State) (phys : Nat) : Bool :=
  match pageOf phys with
  | none => false
  | some (far, d, p) => (tierOf s far d).evacuating || (tierOf s far d).bad.contains p

/-- Pages of a context that must leave and have no target yet. -/
def stranded (s : State) (c : Ctx) : List (Nat × PageEnt) := c.pages.filter (fun e => mustLeave s e.2.phys && e.2.moveTo.isNone)

/-- A shadow moves at once: its contents go to a new page. -/
def moveShadow (s : State) (cn vp : Nat) (far : Bool) (dies : List Nat) : State :=
  match (s.ctx? cn).bind (fun c => NMap.get? c.shadows vp) with
  | none => s
  | some sh =>
    match takePage s far dies with
    | none => s
    | some (s, q) =>
      releasePage (({ s with mem := Memory.copy s.mem sh.phys q pageSize } : State).modCtx cn
        (fun c => { c with shadows := NMap.set c.shadows vp { sh with phys := q } })) sh.phys

/-- Shadows that must leave although their pages stay. -/
def strandedShadows (s : State) (c : Ctx) : List (Nat × ShadowEnt) :=
  c.shadows.filter (fun x => mustLeave s x.2.phys && ((NMap.get? c.pages x.1).map (fun e => !(mustLeave s e.phys) && e.moveTo.isNone)).getD false)

/-- A near page that backs windows of a context is exchanged for a free one of the nearest die. -/
def moveBackingPage (s : State) (cn phys : Nat) : State :=
  match takePage s false (dieOrder (pageDie phys)) with
  | none => s
  | some (s, q) => releasePage (s.modCtx cn (fun c => { c with backing := c.backing.map (fun a => if a = phys then q else a) })) phys

/-- Start every move that can start. -/
def startMoves (s : State) : State :=
  let s := s.ctxs.foldl (fun s p =>
    (stranded s p.2).foldl (fun s e =>
      match pageOf e.2.phys with
      | none => s
      | some (far, d, _) => (beginMove s p.1 e.1 (moveOrder s far d)).getD s) s) s
  let s := s.ctxs.foldl (fun s p =>
    (strandedShadows s p.2).foldl (fun s x => moveShadow s p.1 x.1 (isFar x.2.phys) (dieOrder (pageDie x.2.phys))) s) s
  let s := s.ctxs.foldl (fun s p => (p.2.backing.filter (mustLeave s)).foldl (fun s a => moveBackingPage s p.1 a) s) s
  { s with ctxs := s.ctxs.map (fun p =>
      (p.1, { p.2 with pausePages := (stranded s p.2).any (fun e => match pageOf e.2.phys with
        | some (far, d, _) => (tierOf s far d).evacuating
        | none => false) })) }

/-- Tenants with pages on a tier, or, for a near tier, placement on its die (R272). DEDUCED: log entry 93. -/
def tierTenants (s : State) (far : Bool) (die : Nat) : List Nat :=
  (s.ctxs.filter (fun p =>
    p.2.pages.any (fun e => (pageOf e.2.phys).map (fun x => (x.1, x.2.1)) == some (far, die)) ||
      (!far && (p.2.place.contains die || p.2.placeUnits.any (fun x => x.2.1 == die))))).map (fun p => p.2.tenant)

/-- Near pages that back windows leave the die. -/
def moveBacking (s : State) (die : Nat) : State :=
  s.ctxs.foldl (fun s p =>
    let gone := p.2.backing.filter (fun a => (pageOf a).map (fun x => (x.1, x.2.1)) == some (false, die))
    let s := gone.foldl (fun s a => releasePage s a) (s.modCtx p.1 (fun c => { c with backing := c.backing.filter (fun a => !(gone.contains a)) }))
    match (dieOrder die).find? (fun d => !(tierOf s false d).evacuating) with
    | some d => takeBacking gone.length s p.1 d
    | none => s) s

/-- Evacuation of a near tier or a far stack begins (R272, R276). -/
def evacuate (s : State) (far : Bool) (die : Nat) : State :=
  if (tierOf s far die).evacuating || (tierOf s far die).excluded then s else
  let who := tierTenants s far die
  let s := s.modTier far die (fun t => { t with evacuating := true, tenants := who })
  let s := logMemory s 0x09 far die 0 127 (physPage far die 0)
  startMoves (if far then s else moveBacking s die)

/-- A context page or shadow still lies on the tier. -/
def tierBusy (s : State) (far : Bool) (die : Nat) : Bool :=
  s.ctxs.any (fun p =>
    let here (a : Nat) : Bool := (pageOf a).map (fun x => (x.1, x.2.1)) == some (far, die)
    p.2.pages.any (fun e => here e.2.phys || (e.2.moveTo.map here).getD false) || p.2.shadows.any (fun e => here e.2.phys) || p.2.backing.any here)

/-- The last page has left: the tier is excluded and its tenants are told (R272, R276, R389). DEDUCED: log entry 93. -/
def execEvacuationComplete (far : Bool) (die : Nat) (s : State) : Res :=
  let t := tierOf s far die
  if !t.evacuating || tierBusy s far die then .next s else
  let s := s.modTier far die (fun t => { t with evacuating := false, excluded := true, tenants := [] })
  let s := logMemory s 0x0A far die 0 127 (physPage far die 0)
  let code := if far then 6 else 5
  .next (startMoves (notice (logExclusion s die 7 0 code) code die (fun _ c => t.tenants.contains c.tenant)))

/-- The page, or the shadow, or the backing page at a physical page begins to move to a list of dies of its tier. -/
def moveAway (s : State) (far : Bool) (phys : Nat) (dies : List Nat) : State :=
  match pageOwner s phys, shadowOwner s phys, backingOwner s phys with
  | some (cn, vp), _, _ =>
    if (((s.ctx? cn).bind (fun c => NMap.get? c.pages vp)).bind (fun e => e.moveTo)).isSome then s
    else (beginMove s cn vp [(far, dies)]).getD s
  | none, some (cn, vp), _ => moveShadow s cn vp far dies
  | none, none, some cn => moveBackingPage s cn phys
  | none, none, none => s

/-- A page with repeated corrections is marked bad and moved to a free page of its tier (R271); or firmware moves a page of a context to
another die of its tier to balance the tiers (R285). DESIGN CHOICE: log entry 100. -/
def execPageRetire (far : Bool) (die page : Nat) (balance : Option Nat) (s : State) : Res :=
  if (if far then farPages else nearPages) ≤ page ∨ 24 ≤ die ∨ (far = true ∧ stackFitted s.order die = false) ∨ (far = false ∧ page < 8) ∨
    (tierOf s far die).bad.contains page then .next s else
  let phys := physPage far die page
  match balance with
  | some d => .next (if (pageOwner s phys).isSome && decide (d < 24) then moveAway s far phys [d] else s)
  | none =>
    let s := logMemory s 0x08 far die 0 127 phys
    .next (moveAway (s.modTier far die (fun t => { t with bad := insertNat page t.bad })) far phys (dieOrder die))

/-- A move has copied its page: the entry is swung and the old page scrubbed; the page's shadow moves with it (R285). -/
def execPageMoveComplete (far : Bool) (die page : Nat) (s : State) : Res :=
  let phys := physPage far die page
  match pageOwner s phys with
  | none => .next s
  | some (cn, vp) =>
    match (s.ctx? cn).bind (fun c => NMap.get? c.pages vp) with
    | some e =>
      match e.moveTo with
      | none => .next s
      | some q =>
        let s := { s with mem := Memory.copy s.mem phys q pageSize }
        let s := s.modCtx cn (fun c => { c with pages := NMap.set c.pages vp { e with phys := q, moveTo := none } })
        let s := releasePage s phys
        .next (moveShadow s cn vp (isFar q) (dieOrder (pageDie q)))
    | none => .next s

/-- A released page is zero and joins the free pool; evacuations that waited for pages go on (R285, R286, R272). -/
def execPageScrubDone (far : Bool) (die page : Nat) (s : State) : Res :=
  if (tierOf s far die).scrubbing.contains page then
    let s := s.modTier far die (fun t => { t with scrubbing := t.scrubbing.filter (· != page) })
    .next (startMoves { s with mem := Memory.erase s.mem (physPage far die page) pageSize })
  else .next s

/-! ### Lost lines (R366, R390) -/

/-- Poisoned lines of a context in one virtual page. -/
def poisonedIn (c : Ctx) (vp : Nat) : Nat := (c.poisoned.filter (fun l => l / 32768 == vp)).length

/-- A line is lost: poisoned, the context paused, its epoch aborted; the first lost line of a page gives its one notice. -/
def poisonLine (s : State) (cn vline die : Nat) : State :=
  match s.ctx? cn with
  | none => s
  | some c =>
    let first := poisonedIn c (vline / 32768) == 0
    let c := { c with poisoned := insertNat vline c.poisoned, pausePoison := true }
    let s := (s.setCtx cn c).logRec 0x2F die 7 0 cn ((c.epoch.map (·.attempt)).getD 0) ((c.epoch.map (·.step.toNat)).getD 0) 9 0xFF vline
    let s := if first then postNotice s cn 9 (vline / 32768) (poisonedIn c (vline / 32768)) else s
    match c.epoch with
    | none => s
    | some e => s.sendSquall { kind := 1, src := die, ctx := cn, att := e.attempt % 16, cause := 1, epoch := c.epochNo }

/-- A line of context data stays uncorrectable: one replay, and a line that fails in a later attempt is lost. With no epoch open
nothing can write it again. DEDUCED: log entry 84. -/
def lineError (s : State) (cn vp die off : Nat) : State :=
  let vline := vp * 32768 + off / 64
  match s.ctx? cn with
  | none => s
  | some c =>
    if c.poisoned.contains vline then s else
    match c.epoch with
    | none => poisonLine s cn vline die
    | some e =>
      if e.badLines.any (fun l => l.1 == vline && decide (l.2 < e.attempt)) then poisonLine s cn vline die
      else if e.badLines.any (fun l => l.1 == vline) then s
      else
        let s := s.setCtx cn { c with epoch := some { e with badLines := e.badLines ++ [(vline, e.attempt)] } }
        s.sendSquall { kind := 1, src := die, ctx := cn, att := e.attempt % 16, cause := 1, epoch := c.epochNo }

/-- A domain reset is under way. -/
def startReset (s : State) (d : ResetDomain) : State := if s.resets.contains d then s else { s with resets := s.resets ++ [d] }

/-! ### Reads that fail (R269, R275, R367) -/

/-- Declare a symbol position dead; a channel keeps at most six. -/
def declareDead (s : State) (die chan sym : Nat) : State :=
  let t := tierOf s false die
  let l := NMap.getD t.dead chan []
  if l.contains sym || decide (6 ≤ l.length) then s else
  let s := s.modTier false die (fun t => { t with dead := NMap.set t.dead chan (insertNat sym l) })
  logMemory s 0x06 false die chan sym (physPage false die 0)

/-- A channel with three erased positions has its near tier evacuated (R272). -/
def checkChannel (s : State) (die chan : Nat) : State :=
  if 3 ≤ (NMap.getD (tierOf s false die).dead chan []).length then evacuate s false die else s

/-- An uncorrected error in a near page that backs windows of a context: one more attempt writes the windows again (R364, R388). -/
def backingError (s : State) (cn die : Nat) : State :=
  match s.ctx? cn with
  | none => s
  | some c =>
    match c.epoch with
    | none => s
    | some e => s.sendSquall { kind := 1, src := die, ctx := cn, att := e.attempt % 16, cause := 1, epoch := c.epochNo }

/-- An uncorrected error at a physical line: in context data, in a firmware page, or in a free page. Pages 2 to 7 are kept twice: the
line is rebuilt from its copy and counts as corrected, or the copy is lost as well and the module is reset; which one is open (R367).
DESIGN CHOICE: log entry 94. -/
def uncorrectedLine (s : State) (far : Bool) (die chan phys : Nat) (dieReset : State → Nat → State) (bothLost : State → State) : State :=
  let told := logMemory s (if far then 0x05 else 0x03) far die chan 127 phys
  let page := phys - phys % pageSize
  match anyOwner s page with
  | some (cn, vp) => lineError told cn vp die (phys % pageSize)
  | none =>
    match backingOwner s page with
    | some cn => backingError told cn die
    | none =>
      if far then told
      else
        let p := phys % 0x800000000 / pageSize
        if p < 2 then dieReset told die
        else if 8 ≤ p then told
        else if Config.freeBool s.freeIx 31 then bothLost told.tick
        else (corrected s 0x02 false die chan 127 phys).tick

/-- A symbol position has reached its count, or the via test has found it (R270). -/
def execSymbolDead (die chan sym : Nat) (s : State) : Res :=
  if 24 ≤ die ∨ 128 ≤ chan ∨ 72 ≤ sym then .next s else .next (checkChannel (declareDead s die chan sym) die chan)

end Sys2Proof.Machine
end

