-- ==== Sys2Proof/Machine/Sillage.lean ====
section
/-!
DEFINITION. Sillage: the capture of unit state into near pages 0 and 1 of a die (R380 to R383).
-/

namespace Sys2Proof.Machine

/-- The unit answers its scan within the bound; the manual gives no cause for one that does not.
DESIGN CHOICE: log entry 11. DESIGN CHOICE: log entry 79. -/
def answers (s : State) (u : UnitId) : Bool := !(Config.freeBool s.freeIx (100 + u.key))

/-- The tenancy entry of a context allows sampling (R383, R415). -/
def mayShow (s : State) (cn : Nat) : Bool :=
  match s.ctx? cn with
  | none => false
  | some c => bitAt (tenantBits s c.tenant).toNat 515

def epochOf (s : State) (cn : Nat) : Nat := ((s.ctx? cn).map (fun c => c.epochNo.toNat)).getD 0

/-- One entry of PIPE; an idle or silent pipeline reads as zeros (R381). -/
def pipeState (s : State) (u : UnitId) : Bytes :=
  match s.run? u with
  | none => List.replicate 64 0
  | some r =>
    if !answers s u then List.replicate 64 0 else
    toBytes 8 r.pc ++ toBytes 1 r.ctx ++ toBytes 1 (r.att % 256) ++ toBytes 2 0 ++ toBytes 4 r.task ++ toBytes 4 (tStep r.desc) ++
      toBytes 4 r.astat.toNat ++ toBytes 8 (epochOf s r.ctx) ++ toBytes 8 (Config.localCycle s.freeIx).toNat ++ List.replicate 24 0

/-- Owner of the share that holds the first 64 KiB of a scratchpad: the lowest context placed on the unit, and its logical window. -/
def shareOwner (s : State) (die k : Nat) : Option (Nat × Nat × Nat) :=
  s.ctxs.findSome? (fun p => (logicalUnits.find? (fun x => physUnit p.2 x.1 x.2 == (die, k))).map (fun x => (p.1, x)))

/-- The 4 KiB state block of a cluster (R382). -/
def stateBlock (s : State) (u : UnitId) : Bytes :=
  let sctx := match shareOwner s u.die u.idx with
    | some x => x.1
    | none => 0xFF
  match s.run? u with
  | none => if answers s u then toBytes 3 0 ++ toBytes 1 sctx ++ List.replicate 4092 0 else toBytes 1 2 ++ List.replicate 4095 0
  | some r =>
    if !answers s u then toBytes 1 2 ++ List.replicate 4095 0 else
    let S := if mayShow s r.ctx then r.S else List.replicate 32 0
    toBytes 1 1 ++ toBytes 1 r.ctx ++ toBytes 1 (r.att % 256) ++ toBytes 1 sctx ++ toBytes 4 r.task ++ toBytes 4 (tStep r.desc) ++
      toBytes 4 r.astat.toNat ++ toBytes 8 (epochOf s r.ctx) ++ toBytes 8 r.pc ++ toBytes 8 (Config.localCycle s.freeIx).toNat ++
      S.flatMap (fun x => toBytes 8 x.toNat) ++ r.A.flatMap (toBytes 8) ++
      toBytes 1 (((rangeFrom 0 8).zip r.P).foldl (fun a p => if p.2 then a + 2 ^ p.1 else a) 0) ++ List.replicate 7 0 ++
      ((r.loops.reverse.map (fun (l : LoopEntry) => toBytes 8 l.start ++ toBytes 4 l.remaining ++ toBytes 4 l.iter)).flatten ++ List.replicate 64 0).take 64 ++
      List.replicate 3600 0

/-- The first 64 KiB of the scratchpad, as its owner sees them (R382, R383). -/
def shareBytes (s : State) (u : UnitId) : Bytes :=
  match shareOwner s u.die u.idx with
  | none => List.replicate 65536 0
  | some (cn, ld, lu) =>
    if mayShow s cn && answers s u then Memory.getBytes s.mem (winKey cn (ld * 0x100000000 + lu * 0x800000)) 65536 else List.replicate 65536 0

/-- Planes 0 and 1, FP32, row by row (R381). -/
def planeBytes (s : State) (u : UnitId) : Bytes :=
  match s.run? u with
  | none => List.replicate 131072 0
  | some r =>
    if mayShow s r.ctx && answers s u then
      (rangeFrom 0 2).flatMap (fun p => (rangeFrom 0 128).flatMap (fun row => (rangeFrom 0 128).flatMap (fun col =>
        toBytes 4 (planeGet r.planes p row col).toNat)))
    else List.replicate 131072 0

def clusterRecord (s : State) (u : UnitId) : Bytes := stateBlock s u ++ shareBytes s u ++ planeBytes s u ++ List.replicate 4096 0

/-- A capture of some clusters and pipelines of a die replaces the one before; the pages keep zeros beyond it (R381). -/
def capture (s : State) (die domain cause : Nat) (clusters pipes : List Nat) : State :=
  let base := nearBase die
  let mask := clusters.foldl (fun a u => a + 2 ^ u) 0
  let head := toBytes 8 (nth 0 s.dseq die).toNat ++ toBytes 1 domain ++ toBytes 1 cause ++ toBytes 2 mask ++ toBytes 4 0
  let m := Memory.setBytes (Memory.erase s.mem base (2 * pageSize)) base head
  let m := pipes.foldl (fun m u => Memory.setBytes m (base + 0x10 + 64 * u) (pipeState s { die := die, kind := .pipeline, idx := u })) m
  let m := clusters.foldl (fun m u =>
    Memory.setBytes m (base + 0x10000 + 0x32000 * u) (clusterRecord s { die := die, kind := .cluster, idx := u })) m
  ({ s with mem := m, freeIx := s.freeIx + 1 } : State).logRec 0x2B die 7 0 0xFF 0 0 cause 0xFF 0

/-- Every cluster and pipeline of a die (R380). DESIGN CHOICE: log entry 79. -/
def captureDie (s : State) (die domain cause : Nat) : State := capture s die domain cause (rangeFrom 0 16) (rangeFrom 0 8)

/-- One cluster whose watch expired. DEDUCED: log entry 85. -/
def captureCluster (s : State) (u : UnitId) : State := capture s u.die 1 3 [u.idx] []

end Sys2Proof.Machine
end

