-- ==== Sys2Proof/Machine/Recovery.lean ====
section
/-!
DEFINITION. Squall, aborts, quiescence and replay, watches, resets of dies, of the compute part and of the module, and the reads that fail (R25, R269, R275, R364 to R387).
-/

namespace Sys2Proof.Machine

/-! ### Aborting an epoch (R369, R379, R384) -/

/-- A unit's task is told to stop at its next instruction boundary; unsent pushes and writes are gone. -/
def stopRun (r : Run) : Run := { r with phase := .stopping, moves := [], drains := [], attns := [], pushes := 0, stagePushes := 0, asm := [] }

/-- Stop every task of a context. -/
def stopTasks (s : State) (cn : Nat) : State := { s with units := s.units.map (fun p => (p.1, if p.2.ctx = cn then stopRun p.2 else p.2)) }

/-- Dies that report quiescence: the coordinating one, those with task slots of the epoch, those with a unit that runs one. -/
def epochDies (s : State) (cn : Nat) (c : Ctx) (e : Epoch) : List Nat :=
  dedup (coordDie c :: (e.tasks.map (fun t => t.2.die) ++ (s.units.filter (fun p => p.2.ctx == cn)).map (fun p => p.1 / 64)))

def stepOf (c : Ctx) : Nat := (c.epoch.map (fun e => e.step.toNat)).getD 0

/-- The open epoch of a context is aborted; one that is aborted already joins. `failed`: the abort counts as a failed attempt (R386). -/
def abortEpoch (s : State) (cn : Nat) (failed : Bool) : State :=
  match s.ctx? cn with
  | none => s
  | some c =>
    match c.epoch with
    | none => s
    | some e =>
      match e.phase with
      | .aborting _ => s
      | _ =>
        let e' := { e with phase := .aborting (epochDies s cn c e), failed := if failed then e.failed + 1 else e.failed }
        let s' := stopTasks (s.setCtx cn { c with epoch := some e' }) cn
        if c.faulted then s' else s'.logRec 0x23 (coordDie c) 7 0 cn e.attempt e.step.toNat 0 0xFF 0

/-! ### Restoring the boundary (R249, R309, R357, R385, R454) -/

/-- Requests bound to the streams of one number in the attempt, one list for each OPEN: the streams closed, the one open, those a replay had
not reached. -/
def streamLives (c : Ctx) (k : Nat) : List (List BoundReq) :=
  NMap.getD c.boundPast k [] ++ ((NMap.get? c.streams k).map (·.bound)).toList ++ NMap.getD c.boundNext k []

/-- Streams as at the boundary. Requests bound since are kept, so that a replay applies each before the same picture: the first list belongs
to the stream open at the boundary, the others to the streams that the replay opens (R357). -/
def restoreStreams (c : Ctx) : Ctx :=
  { c with
    streams := c.streamsBase.map (fun p => (p.1, { p.2 with bound := ((streamLives c p.1).head?).getD [] }))
    boundPast := []
    boundNext := (rangeFrom 0 256).filterMap (fun k =>
      match (if (NMap.get? c.streamsBase k).isSome then (streamLives c k).tail else streamLives c k) with
      | [] => none
      | l => some (k, l)) }

/-- The shadows of a context return to their pool. -/
def dropShadows (s : State) (cn : Nat) : State :=
  match s.ctx? cn with
  | some c => (c.shadows.foldl (fun s x => recyclePage s x.2.phys) s).modCtx cn (fun c => { c with shadows := [] })
  | none => s

/-- Everything the open epoch did to step state is undone; the page sets of the epoch are found through the directories it made, so they go
first (R249). DEDUCED: log entry 28. -/
def discardEpoch (s : State) (cn : Nat) (e : Epoch) : State :=
  let s := kvRestore (match restoreUnits s cn e.openUnits with
    | .ok s => s
    | .error _ => s) cn e.kvAlloc
  (dropShadows s cn).modCtx cn (fun c => restoreStreams { c with slotFmt := c.slotFmtBase })

/-- The next attempt of an epoch: admission starts again at its first task. -/
def nextAttempt (e : Epoch) : Epoch :=
  { e with tasks := [], next := 0, readyCount := 0, attempt := e.attempt + 1, kvAlloc := [], openUnits := [],
           phase := if 4 ≤ e.failed then .held else .open }

/-! ### Resets (R375, R377, R380) -/

/-- Units inside a domain stop at once. -/
def dropUnits (s : State) (inside : Nat → Bool) : State :=
  let us := s.units.filter (fun p => !(inside p.1))
  { s with units := us, power := if State.arrayBusy us then s.power else { s.power with rampStage := 0 } }

/-- The target of an NVT that names one channel: 256 + 128 × die + channel. A lower number names the near tier of a die.
DESIGN CHOICE: log entry 63. -/
def nvtDie (t : Nat) : Nat := if 256 ≤ t then (t - 256) / 128 else t

/-- Status of a maintenance activity in the log (R396, R399). -/
def logMaint (s : State) (die act status : Nat) : State := s.logRec 0x2E die 7 0 0xFF 0 0 status act 0

/-- A thermal calibration of a compute die that a reset covers (R394, R397). -/
def maintCovered (d : ResetDomain) (m : Maint) : Bool := m.act == 5 && resetCovers d m.target

/-- Activities whose target a reset covers are aborted, to start again when it ends (R397). -/
def abortMaint (s : State) (d : ResetDomain) : State :=
  let hit := s.maintRun.filter (fun m => maintCovered d m && !m.paused)
  hit.foldl (fun s m => logMaint s m.target m.act 4)
    { s with maintRun := s.maintRun.map (fun m => if maintCovered d m then { m with paused := true } else m) }

/-- The pairs that R395 serialises. An update is never received through a host port while the firmware runs. -/
def maintConflict (a t b u : Nat) : Bool :=
  match a, b with
  | 0, 0 | 0, 3 | 3, 0 | 3, 3 => t == u
  | 1, 1 | 1, 2 | 2, 1 | 2, 2 | 2, 5 | 5, 2 => nvtDie t == nvtDie u
  | 3, 5 | 5, 3 | 5, 5 | 4, 4 => t == u
  | 6, 6 => true
  | _, _ => false

def Maint.clash (m : Maint) (act target : Nat) : Bool := maintConflict m.act m.target act target

/-- A reset that covers the target is in progress; a thermal calibration also waits for the end of a hold (R397, R434). -/
def maintDeferred (s : State) (act target : Nat) : Bool :=
  s.resets.contains .module || (act == 5 && (s.power.hold || s.resets.any (fun d => resetCovers d target)))

/-- Paused activities, and those that a finished reset had aborted, go on where they stopped once nothing they conflict with runs and no
reset covers them: one by one, in the order they began (R395 to R397). -/
def resumePaused (s : State) : State :=
  s.maintRun.foldl (fun s m =>
    if m.paused ∧ s.maintRun.all (fun r => r.paused || !(r.clash m.act m.target)) ∧ maintDeferred s m.act m.target = false then
      { s with maintRun := s.maintRun.map (fun r => if r = m then { r with paused := false } else r) }
    else s) s

def squall2 (s : State) (die cause : Nat) : State := s.sendSquall { kind := 2, src := die, ctx := 0xFF, att := 0, cause := cause, epoch := 0 }

/-- A die compute reset: Sillage, the die's units stop, every epoch with tasks there is aborted by Squall. A running reset that covers
the die is joined. -/
def dieReset (s : State) (die : Nat) : State :=
  if s.resets.any (fun d => resetCovers d die) || decide (24 ≤ die) then s else
  let s := captureDie s die 2 2
  let s := dropUnits (s.logRec 0x27 die 7 0 0xFF 0 0 2 0xFF 0) (fun k => k / 64 == die)
  squall2 (abortMaint { s with resets := s.resets ++ [.dieCompute die] } (.dieCompute die)) die 2

/-- A compute-part reset takes over the resets of single dies. -/
def partReset (s : State) (cause : Nat) : State :=
  if s.resets.any (fun d => d == .computePart || d == .module) then s else
  let s := (rangeFrom 0 24).foldl (fun s d => captureDie s d 3 cause) s
  let s := dropUnits (s.logRec 0x28 24 7 0 0xFF 0 0 cause 0xFF 0) (fun k => decide (k / 64 < 24))
  (rangeFrom 0 24).foldl (fun s d => squall2 s d cause) (abortMaint { s with resets := [.computePart] } .computePart)

/-- Modes in force after a module reset (R326, R414). -/
def portModesOf (v : Word64) : List Nat := (rangeFrom 0 8).map (fun n => field v.toNat (2 * n + 1) (2 * n))

/-- Sillage regions: near pages 0 and 1 of each die (R381). -/
def isSillage (a : Nat) : Bool := decide (a < nearEnd) && decide (a % 0x800000000 < 2 * pageSize)

/-- What a module reset leaves: everything as at reset but flash, fuses, settings, the log, the Sillage regions, pins and rails;
the boot starts at the boot ROM (R375, R398, R414, R417, R420, R430, R440). DEDUCED: log entry 62. -/
def afterReset (s : State) (stage : BootStage) : State :=
  { State.reset with
    pending := s.pending, order := s.order, out := s.out, freeIx := s.freeIx + 1
    mem := s.mem.filter (fun c => isSillage c.1)
    portModes := portModesOf s.colyr.portmode
    fw := { s.fw with updLen := none, staged := [], updStep := 0, updStatus := 0, deferredReset := false, boots := s.fw.boots + 1 }
    power := { Power.fresh with
      boot := stage, railsUp := s.power.railsUp, hold := s.power.low, low := s.power.low, convLost := s.power.convLost, refclk := s.power.refclk, sdsW := s.power.sdsW,
      sdsE := s.power.sdsE, resetLow := s.power.resetLow, flashSelHigh := s.power.flashSelHigh, flashOut := s.power.flashOut,
      thermtrip := s.power.thermtrip, pwrgd := false }
    colyr := { s.colyr with dwSel := 0, watches := [], nonce := Config.nonce s.freeIx, debugOpen := false, eid := 0, modReq := none, deleting := none } }

/-- Firmware runs and the near tier is trained, so that a Sillage sample can be taken. -/
def canSample (s : State) : Bool :=
  match s.power.boot with
  | .farTrain | .selfTest | .ready => true
  | _ => false

/-- The cause of a reset for which the manual gives no code (R378, R399). DESIGN CHOICE: log entry 61. -/
def freeCause (s : State) : Nat := Config.freeNat s.freeIx 20 % 256

/-- A module reset, with Sillage when firmware can still take it (R375, R380, R399). -/
def moduleReset (s : State) (stage : BootStage) (sample : Bool) (cause : Nat) : State :=
  let s := if sample && canSample s then (rangeFrom 0 24).foldl (fun s d => captureDie s d 4 cause) s else s
  (afterReset s stage).logRec 0x29 24 7 0 0xFF 0 0 cause 0xFF 0

/-! ### Quiescence and replay (R384 to R388) -/

/-- The last die is quiescent: the boundary state is restored, exclusions take hold, and admission reopens; a faulted or torn-down
context is not replayed. After four failed attempts a compute-part reset comes first. -/
def finishAbort (s : State) (cn : Nat) (e : Epoch) : State :=
  let s := replan (excludePersistent (discardEpoch s cn e)) cn
  match s.ctx? cn with
  | none => s
  | some c =>
    if c.faulted || c.drydown then s.setCtx cn { c with epoch := none } else
    match c.epoch with
    | none => s
    | some e1 =>
      let e2 := nextAttempt { e with failed := e1.failed, phase := .open }
      let s := s.setCtx cn { c with epoch := some e2 }
      let s := match taskWrite s cn e2.carr (List.replicate (16 * e2.count) 0) with
        | .ok s => s
        | .error _ => s
      if e2.phase = .held then partReset (s.logRec 0x30 (coordDie c) 7 0 cn e2.attempt e2.step.toNat 0 0xFF 0) 2
      else s.logRec 0x24 (coordDie c) 7 0 cn e2.attempt e2.step.toNat 0 0xFF 0

/-! ### The start of Drydown (R347, R391) -/

/-- Drydown begins: admission, dispatch and fetching stop, host writes not yet on the wire, held completions and requests are discarded,
transfers of page sets stop (R391, R393). -/
def beginDrydown (s : State) (cn : Nat) : State :=
  match s.ctx? cn with
  | none => s
  | some c =>
    if c.drydown then s else
    let att := (c.epoch.map (fun e => e.attempt)).getD 0
    let s := (dropTx s (fun x => x.ctx == some cn)).setCtx cn
      { c with drydown := true, active := false, heldRecs := [], cqfull := false, apend := none, taken := [] }
    let s := s.logRec 0x2C (coordDie c) 7 0 cn att (stepOf c) 0 0xFF 0
    kvHalt (s.sendSquall { kind := 4, src := coordDie c, ctx := cn, att := att % 16, cause := 0, epoch := c.epochNo }) cn

/-- A context whose host detaches with a drain goes on to Drydown once its fetched work is over (R347). -/
def drainDetach (s : State) (cn : Nat) : State :=
  match s.ctx? cn with
  | none => s
  | some c =>
    match s.host? c.slot with
    | none => s
    | some h => if h.phase = .detaching false ∧ c.epoch.isNone ∧ (c.launch.isNone ∨ c.faulted) then beginDrydown s cn else s

/-- The boundary of a context commits (R114). -/
def execBoundaryCommit (ctx : Nat) (s : State) : Res := .next (drainDetach (commitBoundary s ctx) ctx)

/-- A die reports its part of an aborted attempt quiescent. -/
def execQuiescence (die ctx : Nat) (s : State) : Res :=
  match s.ctx? ctx with
  | none => .next s
  | some c =>
    match c.epoch with
    | none => .next s
    | some e =>
      match e.phase with
      | .aborting l =>
        if !(l.contains die) || s.resets.any (fun d => resetCovers d die) then .next s else
        let s := dropUnits s (fun k => k / 64 == die && (match NMap.get? s.units k with
          | some r => r.ctx == ctx
          | none => false))
        let l' := l.filter (· != die)
        let s := s.setCtx ctx { c with epoch := some { e with phase := .aborting l' } }
        .next (if l'.isEmpty then drainDetach (finishAbort s ctx e) ctx else s)
      | _ => .next s

/-! ### Squalls (R369, R378, R379, R391) -/

/-- A Squall of the list, taken from it: every router has flooded it on and will discard any further copy (R323). -/
def takeSquall (s : State) (p : Squall → Bool) : Option (State × Squall) :=
  (s.squalls.find? (fun q => p q && !(s.squallSeen.contains (q.src, q.seq)))).map (fun q =>
    ({ s with squalls := s.squalls.erase q, squallSeen := (q.src, q.seq) :: s.squallSeen }, q))

/-- KIND 0x01: the named epoch is aborted wherever it runs. -/
def execSquallAbortEpoch (src ctx att cause : Nat) (epoch : Word64) (s : State) : Res :=
  match takeSquall s (fun q => { q with seq := 0 } == { kind := 1, src := src, ctx := ctx, att := att, cause := cause, epoch := epoch }) with
  | none => .next s
  | some (s, _) =>
    match s.ctx? ctx with
    | none => .next s
    | some c =>
      match c.epoch with
      | none => .next s
      | some e => .next (if c.epochNo = epoch ∧ e.attempt % 16 = att then abortEpoch s ctx true else s)

/-- The epoch has tasks on a die. -/
def tasksOnDie (e : Epoch) (die : Nat) : Bool :=
  e.tasks.any (fun t => t.2.status != .done && (t.2.die == die || (t.2.unit.map (·.die)) == some die))

/-- KIND 0x02: every epoch with tasks on the source die. -/
def execSquallAbortDie (src cause : Nat) (s : State) : Res :=
  match takeSquall s (fun q => q.kind == 2 && q.src == src && q.cause == cause) with
  | none => .next s
  | some (s, _) =>
    .next (s.ctxs.foldl (fun s p => match p.2.epoch with
      | some e => if tasksOnDie e src then abortEpoch s p.1 true else s
      | none => s) s)

/-- KIND 0x03: the open epoch of a faulted context. -/
def execSquallStopContext (src ctx code : Nat) (s : State) : Res :=
  match takeSquall s (fun q => q.kind == 3 && q.src == src && q.ctx == ctx && q.cause == code) with
  | none => .next s
  | some (s, _) => .next (abortEpoch s ctx false)

/-- KIND 0x04: a context in Drydown stops. -/
def execSquallDrydown (src ctx : Nat) (s : State) : Res :=
  match takeSquall s (fun q => q.kind == 4 && q.src == src && q.ctx == ctx) with
  | none => .next s
  | some (s, _) => .next (stopTasks s ctx)

/-! ### Watches (R371 to R373) -/

/-- Task and instruction index of a recovery record. -/
def detailOf (task ix : Nat) : Nat := task % 2 ^ 24 + ix % 2 ^ 24 * 2 ^ 24

/-- The task waits for a slot, a page-out or a page-in of its pool, and its watch does not count (R245, R371). -/
def kvWaits (s : State) (c : Ctx) (u : UnitId) (r : Run) : Bool :=
  c.kv.waiting.any (fun w => w.1 == some u) || r.attns.any (fun a => match a.wants c with
    | some q => seqState s r.ctx q != stResident
    | none => false)

/-- A unit watch expires: the epoch is aborted and replayed; a second expiry of the task is the host's fault. DEDUCED: log entry 85. -/
def execUnitWatchExpiry (u : UnitId) (s : State) : Res :=
  match s.run? u with
  | none => .next s
  | some r =>
    match s.ctx? r.ctx with
    | none => .next s
    | some c =>
      match c.epoch with
      | none => .next s
      | some e =>
        if r.phase == .stopping || r.att != e.attempt || s.power.hold || kvWaits s c u r then .next s else
        let s := s.logRec 0x20 u.die u.kind.ix u.idx r.ctx r.att e.step.toNat 3 0xFF (detailOf r.task (pcIndex r))
        let s := if u.kind = .cluster then captureCluster s u else s
        let s := s.modRun u stopRun
        if e.expired.any (fun p => p.1 == r.task) then .next (taskFault s r.ctx u.die .hang r.task (BitVec.ofNat 32 (pcIndex r)))
        else
          let s := s.modCtx r.ctx (fun c => c.modEpoch (fun e => { e with expired := e.expired ++ [(r.task, u)] }))
          .next (s.sendSquall { kind := 1, src := u.die, ctx := r.ctx, att := e.attempt % 16, cause := 3, epoch := c.epochNo })

/-- A unit that has been told to stop does not: its domain is reset, and the event counts against it. -/
def execUnitStopTimeout (u : UnitId) (s : State) : Res :=
  match s.run? u with
  | none => .next s
  | some r =>
    if r.phase != .stopping then .next s else
    let s := unitStrike s u
    if u.kind = .video then .next ((s.freeUnit u).logRec 0x26 u.die 3 u.idx 0xFF 0 0 2 0xFF 0) else .next (dieReset s u.die)

/-- Transfers of key-value paging in progress, or requests for slots. -/
def kvBusy (s : State) (cn : Nat) (c : Ctx) : Bool :=
  !c.kv.waiting.isEmpty || c.seqs.any (fun p => seqState s cn p.1 == stOut || seqState s cn p.1 == stIn)

/-- The conditions under which a context watch counts (R372). -/
def contextStuck (s : State) (cn : Nat) (c : Ctx) (e : Epoch) : Bool :=
  c.canRun && !c.cqfull && e.phase == .open && decide (tasksDone e < e.count) && !(kvBusy s cn c) && !s.power.hold &&
    e.tasks.all (fun t => t.2.status != .running && t.2.status != .ready) &&
    (decide (e.count ≤ e.next) || (match readNat s cn c (e.arr + 128 * e.next) 128 with
      | .ok d => (slotDie s c (tHome (BitVec.ofNat 1024 d))).isNone
      | .error _ => false))

def execContextWatchExpiry (ctx : Nat) (s : State) : Res :=
  match s.ctx? ctx with
  | none => .next s
  | some c =>
    match c.epoch with
    | none => .next s
    | some e =>
      if !(contextStuck s ctx c e) then .next s else
      let s := s.logRec 0x21 (coordDie c) 4 0 ctx e.attempt e.step.toNat 3 0xFF 0
      if e.ctxExpired then .next (contextFault s ctx (coordDie c) .noProgress 0xFFFFFFFF 0xFFFFFFFF e.tag e.step)
      else
        let s := s.setCtx ctx { c with epoch := some { e with ctxExpired := true } }
        .next (s.sendSquall { kind := 1, src := coordDie c, ctx := ctx, att := e.attempt % 16, cause := 3, epoch := c.epochNo })

/-! ### Unit-state faults and the end of a reset (R25, R375, R387) -/

/-- The die, with its island of a code of R420, has the island (R19, R21): 3 near controller, 4 far controller, 5 router, 6 I/O-die control
group, 7 host port, 8 video engine, 9 encryption engine. -/
def islandFitted (s : State) (isl die idx : Nat) : Bool :=
  match isl with
  | 3 | 5 => decide (die < 24) && idx == 0
  | 4 => stackFitted s.order die && idx == 0
  | 6 => decide (24 ≤ die) && decide (die < 28) && idx == 0
  | 7 => decide (24 ≤ die) && decide (die < 28) && decide (idx < 2)
  | 8 => ({ die := die, kind := .video, idx := idx } : UnitId).exists_ s.order
  | 9 => s.order == .full && decide (24 ≤ die) && decide (die < 28) && idx == 0
  | _ => false

/-- The island has stopped: what it serves waits until it is restarted. A video engine's event counts against it (R387). -/
def stopIsland (s : State) (isl die idx : Nat) : State :=
  let s : State := { s with islandsDown := insertNat (islKey isl die idx) s.islandsDown }
  if isl = 8 then unitStrike s { die := die, kind := .video, idx := idx } else s

/-- An island whose PLL loses lock, or in which a word of its state is uncorrectable, stops: a compute-unit island takes its die through a reset, the management island the module; the
others wait for their restart alone, which ISLAND_RESTART is and logs (R25, R364, R375, R376). Control-class flits lost at a router leave no smaller domain than the compute part,
for they pass between dies. Island codes are those of R420. DEDUCED: log entry 99. DESIGN CHOICE: log entry 100. -/
def execPllLossOfLock (die isl idx : Nat) (f : StateFault) (s : State) : Res :=
  if f = .controlFlits then .next (if islandFitted s isl die idx && isl == 5 then partReset s 2 else s)
  else if isl = 0 ∧ die < 24 ∧ idx < 16 then .next (dieReset (unitStrike s { die := die, kind := .cluster, idx := idx }) die)
  else if isl = 1 ∧ die < 24 ∧ idx < 8 then .next (dieReset (unitStrike s { die := die, kind := .pipeline, idx := idx }) die)
  else if isl = 2 ∧ die < 24 ∧ idx = 0 then .next (dieReset s die)
  else if isl = 10 ∧ die = 24 ∧ idx = 0 then .next (moduleReset s .rom true 2)
  else if islandFitted s isl die idx then .next (stopIsland s isl die idx)
  else .next s

/-- Firmware that comes back scans every sequence (R248). -/
def kvHaltAll (s : State) : State := s.ctxs.foldl (fun s p => kvHalt s p.1) s

/-- A die or compute-part reset ends: units and dies that fail the self-test are excluded, held epochs go on. DESIGN CHOICE: log entry 11. -/
def execResetComplete (d : ResetDomain) (failed : List UnitId) (ctrlFailed : List Nat) (s : State) : Res :=
  if !(s.resets.contains d) || d == .module || (d == .computePart && s.power.hold) then .next s else
  let s : State := resumePaused { s with resets := s.resets.erase d }
  let s := (failed.filter (fun u => u.exists_ s.order && decide (u.die < 24) && resetCovers d u.die)).foldl excludeUnit s
  let s := (ctrlFailed.filter (fun x => decide (x < 24) && resetCovers d x)).foldl excludeDie s
  let s := kvHaltAll (excludePersistent s)
  .next { s with ctxs := s.ctxs.map (fun p => (p.1, p.2.modEpoch (fun e =>
    if e.phase = .held ∧ s.resets.all (fun x => x != .computePart) then { e with phase := .open } else e))) }

/-! ### Reads that fail (R269, R275) -/

/-- Both copies of a line of firmware's tables are lost: the module is reset (R367). DESIGN CHOICE: log entry 94. -/
def bothLost (s : State) : State := moduleReset s .rom true 2

/-- A near burst with errors: corrected at its first decode, or read again up to three times, then tested and decoded once more.
SYM of a corrected burst is its first symbol in error. DESIGN CHOICE: log entry 11. -/
def execNearReadRetry (die chan line : Nat) (r : NearRetry) (s : State) : Res :=
  if 24 ≤ die ∨ 128 ≤ chan ∨ nearPages * 256 ≤ line then .next s else
  let phys := linePhys false die chan line
  let dead := NMap.getD (tierOf s false die).dead chan []
  if rsDecodes dead r.first then .next (match r.first with
    | [] => s
    | y :: _ => corrected s 0x01 false die chan y phys)
  else if (r.again.take 3).any (rsDecodes dead) then .next (corrected s 0x02 false die chan 127 phys)
  else
    let s := checkChannel (r.found.foldl (fun s y => if y < 72 then declareDead s die chan y else s) s) die chan
    let erased := dedup (NMap.getD (tierOf s false die).dead chan [] ++ r.found)
    if Custody.nearRead.passes .symbol (rsDecodes erased r.wrong) then .next (corrected s 0x02 false die chan 127 phys)
    else .next (uncorrectedLine s false die chan phys dieReset bothLost)

/-- A far word in error: one nibble is corrected; more make the controller read it again, up to three times. A dead lane's nibble counts as
wrong (R275 to R277). -/
def farWord (s : State) (stack chan line : Nat) (first : List Nat) (again : List (List Nat)) : State :=
  if !(stackFitted s.order stack) || decide (32 ≤ chan) || decide (farPages * 1024 ≤ line) then s else
  let phys := linePhys true stack chan line
  let dead := NMap.getD (tierOf s true stack).dead chan []
  let ok (l : List Nat) : Bool := wordCheck (dead ++ l) != .detected
  if ok first then (match first with
    | [] => s
    | y :: _ => corrected s 0x04 true stack chan y phys)
  else if (again.take 3).any ok then corrected s 0x04 true stack chan 127 phys
  else uncorrectedLine s true stack chan phys dieReset bothLost

/-- An encryption engine finds that a data unit of a context does not decrypt to what it was: the ciphertext is not released, the event is
logged, and the step is replayed (R296). -/
def encryptionMismatch (s : State) (cn vp : Nat) : State :=
  match s.ctx? cn with
  | none => s
  | some c =>
    match NMap.get? c.pages vp with
    | none => s
    | some e =>
      if !c.enc || !(isFar e.phys) || s.order == .half then s else
      let io := quadrant (pageDie e.phys)
      let s := s.log io 9 0 (recMemory 0x0C (pageDie e.phys) 1 0 127 (e.phys / 64) 1 cn)
      match c.epoch with
      | none => s
      | some ep => s.sendSquall { kind := 1, src := io, ctx := cn, att := ep.attempt % 16, cause := 1, epoch := c.epochNo }

/-- A word in error: of the far tier, of a unit's own stores, on a path, in an encryption engine. DESIGN CHOICE: log entry 100. -/
def execFarWordRetry (e : WordEvent) (s : State) : Res :=
  match e with
  | .far stack chan line first again => .next (farWord s stack chan line first again)
  | .unit u wrong =>
    (match s.run? u with
     | none => .next s
     | some r => .next (match wordCheck wrong with
       | .clean => s
       | .corrected => logPath s u.die (nth 127 wrong 0)
       | .detected => stepDataError s u r.ctx))
  | .path die nibble => .next (logPath s die nibble)
  | .encryption cn vp => .next (encryptionMismatch s cn vp)

end Sys2Proof.Machine
end

