-- ==== Sys2Proof/Machine/Fw.lean ====
section
/-!
DEFINITION. The firmware image: its checks, the update through the FWU activity, and the order in which the flash is written (R398, R400, R401, R419).
-/

namespace Sys2Proof.Machine

/-! ### The signature block (R400) -/

/-- Image offset of the body. DEDUCED: log entry 51. -/
def bodyAt : Nat := 8192

/-- A little-endian number of an image. -/
def fwNat (m : Memory) (off n : Nat) : Nat := ofBytes (Memory.getBytes m off n)

/-- SVN, BLEN, FWVER. -/
def imgSvn (m : Memory) : Nat := fwNat m 8 4
def imgBlen (m : Memory) : Nat := fwNat m 24 8
def imgVer (m : Memory) : Word64 := BitVec.ofNat 64 (fwNat m 16 8)

/-- BODYDIG, and the digests of VKEY and of the body as they stand in the image. -/
def imgBodyDig (m : Memory) : Bytes := Memory.getBytes m 32 64
def imgVkeyDig (m : Memory) : BitVec 512 := Config.sha3 (Memory.getBytes m 96 2592)
def imgDigest (m : Memory) : Bytes := toBytes 64 (Config.sha3 (Memory.getBytes m bodyAt (imgBlen m))).toNat

/-- What SIG signs: bytes 0 to 2,687; the commands carry whether it verifies under VKEY. DESIGN CHOICE: log entry 7. -/
def imgSigned (m : Memory) : Bytes := Memory.getBytes m 0 2688

/-- Check 1 of R401: MAGIC, IVER, reserved bytes. -/
def imgForm (m : Memory) : Bool :=
  fwNat m 0 4 == 0x4957465A && fwNat m 4 1 == 1 && fwNat m 5 3 == 0 && fwNat m 12 4 == 0 &&
    m.all (fun c => decide (c.1 < 7315) || decide (bodyAt ≤ c.1))

/-- The number of the first check of 1 to 4 that fails, 0 when all pass; an SVN outside 1 to 128 fails the check that reads it (R400, R401).
DESIGN CHOICE: log entry 108. -/
def sigCheck (w : Firmware) (m : Memory) (sigOk : Bool) : Nat :=
  if !(imgForm m) then 1 else if imgVkeyDig m ≠ w.anchor then 2 else if !sigOk then 3
  else if imgSvn m < w.fuses ∨ imgSvn m < 1 ∨ 128 < imgSvn m then 4 else 0

/-- Check 5: the body's digest is BODYDIG. DESIGN CHOICE: log entry 108. -/
def bodyCheck (m : Memory) : Bool := decide (1 ≤ imgBlen m) && decide (imgBlen m ≤ 2 ^ 27) && imgDigest m == imgBodyDig m

/-- The same for all five checks. -/
def imgCheck (w : Firmware) (m : Memory) (sigOk : Bool) : Nat :=
  let k := sigCheck w m sigOk
  if k ≠ 0 then k else if bodyCheck m then 0 else 5

/-- Status of a failed check (R411). -/
def checkStatus (k : Nat) : Nat := if k = 0 then 0 else if k = 4 then 7 else 6

/-- The body of an image, with no signature block. -/
def imgBody (m : Memory) : Memory := m.filter (fun c => decide (bodyAt ≤ c.1))
def imgSig (m : Memory) : Memory := m.filter (fun c => decide (c.1 < bodyAt))

/-! ### The update (R398, R419) -/

/-- One step of an update in the log (R421). -/
def logStep (s : State) (step : Nat) : State := s.logMgmt 0x49 31 31 step (imgVer s.fw.staged).toNat

/-- FWU starts: a failed check leaves the flash alone; else the signature block is erased, and the body erased and written. DEDUCED: log entry 51. -/
def fwStart (s : State) : State :=
  let k := imgCheck s.fw s.fw.staged s.fw.sigOk
  if k ≠ 0 then { s with fw := { s.fw with updLen := none, staged := [], updStatus := checkStatus k } }
  else
    let s := logStep (logStep (logStep s 1) 2) 3
    { s with fw := { s.fw with flash := imgBody s.fw.staged, updStep := 3, updStatus := 0 } }

/-- FWU ends: the signature block is written last, and the staging pages are scrubbed. A deferred module reset follows. -/
def fwDone (s : State) : State :=
  if s.fw.updStep ≠ 3 then s else
  let s := logStep s 4
  let s : State := { s with fw := { s.fw with flash := s.fw.staged, updStep := 4, updStatus := 0, updLen := none, staged := [] } }
  if s.fw.deferredReset then moduleReset s .rom true (freeCause s) else s

/-- The flash is being written: steps 2 to 4. -/
def fwWriting (s : State) : Bool := s.fw.updStep == 3

end Sys2Proof.Machine
end

