-- ==== Sys2Proof/Machine/Maint.lean ====
section
/-!
DEFINITION. The maintenance arbiter (R394 to R397), with what a via test and a far retraining find (R270, R276).
-/

namespace Sys2Proof.Machine

/-! ### Activities and targets (R394) -/

/-- Activities in the order of R394: 0 FPS, 1 NS, 2 NVT, 3 FRT, 4 SRC, 5 TC, 6 FWU. -/
def actFWU : Nat := 6

/-- The die that a maintenance record names. DESIGN CHOICE: log entry 63. -/
def maintDie (act target : Nat) : Nat :=
  if act = 2 then nvtDie target else if act = 4 then 24 + target / 2 else if act = actFWU then 24 else target

/-- The activity and its target exist in the table of R394. -/
def maintKnown (act target : Nat) : Bool :=
  match act with
  | 0 | 1 | 3 | 5 => decide (target < 24)
  | 2 => decide (nvtDie target < 24)
  | 4 => decide (target < 8)
  | 6 => target == 0
  | _ => false

/-- The target is excluded or not fitted. -/
def maintAbsent (s : State) (act target : Nat) : Bool :=
  match act with
  | 0 | 3 => !(stackFitted s.order target) || (tierOf s true target).excluded
  | 1 | 2 => (tierOf s false (nvtDie target)).excluded
  | 5 => s.exclDies.contains target
  | _ => false

/-- What starting an activity does at once. DEDUCED: log entry 67. -/
def maintBegin (s : State) (m : Maint) : State :=
  if m.act = actFWU then
    let s := fwStart s
    if s.fw.updStep = 3 then { s with maintRun := s.maintRun ++ [m] } else s
  else { s with maintRun := s.maintRun ++ [m] }

/-! ### Requests (R396) -/

/-- Conflicting periodic activities stop at their next line or step. -/
def pausePeriodic (s : State) (act target : Nat) : State :=
  let hit := s.maintRun.filter (fun m => m.clash act target && !m.urgent && !m.paused)
  hit.foldl (fun s m => logMaint s (maintDie m.act m.target) m.act 5)
    { s with maintRun := s.maintRun.map (fun m => if m.clash act target ∧ m.urgent = false then { m with paused := true } else m) }

/-- One request and the status it returns. DEDUCED: log entry 67. -/
def maintRequest (s : State) (act target : Nat) (urgent : Bool) : State × Nat :=
  let m : Maint := { act := act, target := target, urgent := urgent, paused := false }
  let put (s : State) : State := { s with maintQueue := s.maintQueue ++ [m] }
  if !(maintKnown act target) then (s, 7)
  else if maintAbsent s act target then (s, 2)
  else if s.maintRun.any (fun r => r.clash act target && (r.urgent || !urgent)) || s.maintQueue.any (fun r => r.clash act target && (r.urgent || !urgent)) then
    (if 32 ≤ s.maintQueue.length then (s, 3) else (put s, 1))
  else if maintDeferred s act target then (if 32 ≤ s.maintQueue.length then (s, 3) else (put s, 4))
  else (maintBegin (if urgent then pausePeriodic s act target else s) m, 0)

/-- A request with its status in the log. DEDUCED: log entry 67. -/
def maintAsk (s : State) (act target : Nat) (urgent : Bool) : State × Nat :=
  let p := maintRequest s act target urgent
  (if maintKnown act target then logMaint p.1 (maintDie act target) act p.2 else p.1, p.2)

/-- The activities that errors ask for: NVT, FRT, SRC (R396). -/
def errorDriven (act : Nat) : Bool := act == 2 || act == 3 || act == 4

/-- Firmware's own requests, when an interval elapses or `err`: after an error, ahead of the queue (R273, R394, R396). A scrub asked for
while the one before still waits is logged as queued, status 0x01: its interval has overrun. The end of a scrub interval writes the
merged records of corrected events (R297). -/
def execMaintPeriodicRequest (act target : Nat) (err : Bool) (s : State) : Res :=
  if act = actFWU ∨ maintKnown act target = false then .next s else
  let s := if decide (act < 2) && !err then flushCorrected s (act == 0) target else s
  .next (maintAsk s act target (err && errorDriven act)).1

/-! ### Start and end -/

/-- The first queued request for an activity and target, with those queued before it. DEDUCED: log entry 67. -/
def splitQueue (act target : Nat) : List Maint → Option (List Maint × Maint × List Maint)
  | [] => none
  | m :: r =>
    if m.act = act ∧ m.target = target then some ([], m, r)
    else match splitQueue act target r with
      | some (a, x, b) => some (m :: a, x, b)
      | none => none

/-- A queued request starts once nothing it conflicts with runs or waits before it. -/
def execMaintActivityStart (act target : Nat) (s : State) : Res :=
  match splitQueue act target s.maintQueue with
  | none => .next s
  | some (before, m, after) =>
    if maintDeferred s act target || s.maintRun.any (fun r => r.clash act target && (r.urgent || !m.urgent)) ||
      before.any (fun r => r.clash act target && (r.urgent || !m.urgent)) then .next s else
    let s : State := { s with maintQueue := before ++ after }
    let s := if m.urgent then pausePeriodic s act target else s
    .next (logMaint (maintBegin s m) (maintDie act target) act 0)

/-- What a via test finds: dead symbols; for a whole tier a finding is 72 × channel + symbol (R270, R272). -/
def viaFound (s : State) (target : Nat) (found : List Nat) : State :=
  found.foldl (fun s x =>
    let chan := if 256 ≤ target then (target - 256) % 128 else x / 72
    let sym := if 256 ≤ target then x else x % 72
    if chan < 128 ∧ sym < 72 then checkChannel (declareDead s (nvtDie target) chan sym) (nvtDie target) chan else s) s

/-- Lanes that fail retraining, 36 × channel + lane: declared dead, and the stack is evacuated (R276). -/
def lanesFound (s : State) (stack : Nat) (found : List Nat) : State :=
  let good := found.filter (fun x => decide (x < 32 * 36))
  let s := good.foldl (fun s x =>
    let s := s.modTier true stack (fun t => { t with dead := NMap.set t.dead (x / 36) (insertNat (x % 36) (NMap.getD t.dead (x / 36) [])) })
    logMemory s 0x07 true stack (x / 36) (x % 36) (physPage true stack 0)) s
  if good.isEmpty then s else evacuate s true stack

/-- A running activity completes. DEDUCED: log entry 51. -/
def execMaintActivityDone (act target : Nat) (found : List Nat) (s : State) : Res :=
  match s.maintRun.find? (fun m => m.act == act && m.target == target && !m.paused) with
  | none => .next s
  | some m =>
    let s := resumePaused { s with maintRun := s.maintRun.erase m }
    let s := logMaint s (maintDie act target) act 6
    .next (match act with
      | 2 => viaFound s target found
      | 3 => lanesFound s target found
      | 6 => fwDone s
      | _ => s)

end Sys2Proof.Machine
end

