-- ==== Sys2Proof/Machine/Fabric.lean ====
section
/-!
DEFINITION. Tradewind edges: replays, retraining, halves switched off, exclusion of edges and of the dies they disconnect, and the delivery of pushes (R16, R17, R319, R322, R324, R325).
-/

namespace Sys2Proof.Machine

/-! ### Edges (R16, R17) -/

/-- The two dies of an edge. Numbers 0 to 19 are the east-west edges row by row, 20 to 37 the north-south edges row by row, 38 to 45 the
two edges of IO0 to IO3. DESIGN CHOICE: log entry 63. -/
def edgeEnds (e : Nat) : Option (Nat × Nat) :=
  if e < 20 then some (e / 5 * 6 + e % 5, e / 5 * 6 + e % 5 + 1)
  else if e < 38 then some (e - 20, e - 20 + 6)
  else if e < 46 then some (nth 0 [0, 6, 12, 18, 5, 11, 17, 23] (e - 38), 24 + (e - 38) / 2)
  else none

/-- Edges between compute dies. DESIGN CHOICE: log entry 63. -/
def meshEdges : List (Nat × Nat) := (rangeFrom 0 38).filterMap edgeEnds

/-! ### Corrected events (R324) -/

/-- A receiver asks for the replay of a flit: one that succeeds is logged as corrected, one that fails counts. -/
def execFlitReplay (edge : Nat) (dir : Bool) (seq : Nat) (ok : Bool) (s : State) : Res :=
  match edgeEnds edge with
  | none => .next s
  | some (a, b) =>
    if s.exclEdges.contains edge || decide (1024 ≤ seq) then .next s else
    let k := edge * 2 + b2n dir
    let before := if NMap.get? s.edgeSeq k = some seq then NMap.getD s.edgeFails k 0 else 0
    let s : State := { s with edgeSeq := NMap.set s.edgeSeq k seq, edgeFails := NMap.set s.edgeFails k (if ok then 0 else before + 1) }
    .next (if ok then logPath s (if dir then a else b) 127 else s)

/-- A flit of the edge has failed eight replays in a row. -/
def retrainDue (s : State) (edge : Nat) : Bool :=
  decide (8 ≤ NMap.getD s.edgeFails (edge * 2) 0) || decide (8 ≤ NMap.getD s.edgeFails (edge * 2 + 1) 0)

/-! ### Exclusion (R325) -/

/-- The edge joins two dies and still works. -/
def edgeLive (s : State) (e : Nat) : Bool := !(s.exclEdges.contains e)

/-- Dies one working edge further out. -/
def spreadDies (s : State) (l : List Nat) : List Nat :=
  (rangeFrom 0 38).foldl (fun l e =>
    match edgeEnds e with
    | none => l
    | some (a, b) =>
      if !(edgeLive s e) then l
      else if l.contains a then insertNat b l else if l.contains b then insertNat a l else l) l

/-- Compute dies that a die reaches over working mesh edges. DEDUCED: log entry 65. -/
def reached (s : State) : Nat → List Nat → List Nat
  | 0, l => l
  | n + 1, l => reached s n (spreadDies s l)

/-- Dies cut off from the largest connected part of the mesh, the part of the lowest die on a tie. DEDUCED: log entry 65. -/
def cutOff (s : State) : List Nat :=
  match argMin (fun d => 24 - (reached s 24 [d]).length) (rangeFrom 0 24) with
  | some d => (rangeFrom 0 24).filter (fun x => !((reached s 24 [d]).contains x))
  | none => []

/-! ### Routes (R319, R325) -/

/-- Dies from one to another along a row, and along a column, in the order of travel, both ends among them. -/
def alongRow (a col : Nat) : List Nat :=
  let l := (rangeFrom (min (a % 6) col) (absDiff (a % 6) col + 1)).map (fun c => a / 6 * 6 + c)
  if a % 6 ≤ col then l else l.reverse
def alongCol (a row : Nat) : List Nat :=
  let l := (rangeFrom (min (a / 6) row) (absDiff (a / 6) row + 1)).map (fun r => r * 6 + a % 6)
  if a / 6 ≤ row then l else l.reverse

/-- The row first, then the column; and the other way round. -/
def rowFirst (a b : Nat) : List Nat := alongRow a (b % 6) ++ (alongCol (a / 6 * 6 + b % 6) (b / 6)).drop 1
def colFirst (a b : Nat) : List Nat := alongCol a (b / 6) ++ (alongRow (b / 6 * 6 + a % 6) (b % 6)).drop 1

/-- The edge between two dies. -/
def edgeBetween (a b : Nat) : Option Nat := (rangeFrom 0 46).find? (fun e => edgeEnds e == some (a, b) || edgeEnds e == some (b, a))

/-- Every edge of a path works. -/
def pathLive (s : State) : List Nat → Bool
  | a :: b :: r => ((edgeBetween a b).map (edgeLive s)).getD false && pathLive s (b :: r)
  | _ => true

/-- Edges from a die to another over working ones. -/
def liveHops (s : State) (a b : Nat) : Option Nat := (rangeFrom 0 24).find? (fun k => (reached s k [b]).contains a)

/-- A shortest path over working edges, the lowest die at each step. -/
def liveWalk (s : State) : Nat → Nat → Nat → List Nat
  | 0, a, _ => [a]
  | n + 1, a, b =>
    match (rangeFrom 0 24).find? (fun d => ((edgeBetween a d).map (edgeLive s)).getD false && decide (liveHops s d b = some n)) with
    | some d => a :: liveWalk s n d b
    | none => [a]

/-- The route between two compute dies: dimension order; a detour where it is cut, along the column first, or, where that is cut as well,
the shortest over working edges. DEDUCED: log entry 101. -/
def meshRoute (s : State) (a b : Nat) : List Nat :=
  if pathLive s (rowFirst a b) then rowFirst a b
  else if pathLive s (colFirst a b) then colFirst a b
  else match liveHops s a b with
    | some n => liveWalk s n a b
    | none => rowFirst a b

/-- The two compute dies that an I/O die joins (R17). -/
def joined (io : Nat) : List Nat := ((rangeFrom 38 8).filterMap edgeEnds).filterMap (fun e => if e.2 = io then some e.1 else none)

/-- The joined die of an I/O die by which its flits of a row enter or leave the mesh: the one in the row or nearer to it, over an edge that
works. DEDUCED: log entry 101. -/
def portDie (s : State) (io row : Nat) : Nat :=
  (argMin (fun d => (if ((edgeBetween d io).map (edgeLive s)).getD false then 0 else 64) + absDiff (d / 6) row) (joined io)).getD 0

/-- Dies on the way of a flit (R319, R325). Between two I/O dies it leaves by the row in which it entered. DEDUCED: log entry 101. -/
def routeDies (s : State) (a b : Nat) : List Nat :=
  if a < 24 then
    if b < 24 then meshRoute s a b else meshRoute s a (portDie s b (a / 6)) ++ [b]
  else if b < 24 then a :: meshRoute s (portDie s a (b / 6)) b
  else
    let x := (joined a).headD 0
    a :: (meshRoute s x (portDie s b (x / 6)) ++ [b])

/-- Two dies follow one another on a path. -/
def adjacentIn (x y : Nat) : List Nat → Bool
  | a :: b :: r => (a == x && b == y) || (a == y && b == x) || adjacentIn x y (b :: r)
  | _ => false

/-- A flight's path crosses an edge. -/
def crosses (s : State) (f : Flight) (x y : Nat) : Bool := adjacentIn x y (routeDies s f.src f.dst)

/-- The oldest push from one die to another arrives, unless an older push of its group or a router that restarts holds it back (R70, R322,
R376, R379). DEDUCED: log entry 16. -/
def execPushDelivery (src dst : Nat) (s : State) : Res :=
  match s.fabric.find? (fun f => f.src == src && f.dst == dst) with
  | none => .next s
  | some f =>
    if heldBack s f || (routeDies s src dst).any (fun d => islandDown s 5 d 0) then .next s else
    let s' : State := { s with fabric := s.fabric.erase f }
    .next (if flightLive s f then deliver s' f else s')

/-- An epoch lost data with a part of the fabric: pushes under way there, or traffic the model does not keep. -/
def lostWith (s : State) (lost : List Flight) (salt : Nat) (cn : Nat) : Bool :=
  lost.any (fun f => f.ctx == cn) || (s.units.any (fun p => p.2.ctx == cn) && Config.freeBool s.freeIx (salt + cn))

/-- Squalls of kind 0x01 for the open epochs of the contexts that lost something. DESIGN CHOICE: log entry 64. -/
def replayLost (s : State) (die cause : Nat) (hit : Nat → Bool) : State :=
  s.ctxs.foldl (fun s p =>
    match p.2.epoch with
    | none => s
    | some e =>
      if hit p.1 then s.sendSquall { kind := 1, src := die, ctx := p.1, att := e.attempt % 16, cause := cause, epoch := p.2.epochNo } else s) s

/-- Both halves have failed. -/
def excludeEdge (s : State) (edge a b : Nat) : State :=
  let lost := s.fabric.filter (fun f => crosses s f a b)
  let hit := lostWith s lost 200
  let s : State := { s with exclEdges := insertNat edge s.exclEdges, fabric := s.fabric.filter (fun f => !(crosses s f a b)), freeIx := s.freeIx + 1 }
  let s := replayLost s a 1 hit
  let s := notice (logExclusion s a 7 0 7) 7 (a + b * 2 ^ 8) (fun _ _ => true)
  (cutOff s).foldl excludeDie s

/-- A retraining, which eight failed replays of a flit have asked for, ends. A half that fails, now or before, stays off.
DESIGN CHOICE: log entry 11. -/
def execEdgeRetrain (edge : Nat) (failA failB : Bool) (s : State) : Res :=
  match edgeEnds edge with
  | none => .next s
  | some (a, b) =>
    if s.exclEdges.contains edge || !(retrainDue s edge) then .next s else
    let s : State := { s with edgeFails := NMap.erase (NMap.erase s.edgeFails (edge * 2)) (edge * 2 + 1) }
    let offA := failA || s.halfEdges.contains (edge * 2)
    let offB := failB || s.halfEdges.contains (edge * 2 + 1)
    let h := if offA then insertNat (edge * 2) s.halfEdges else s.halfEdges
    let s : State := { s with halfEdges := if offB then insertNat (edge * 2 + 1) h else h }
    .next (if offA && offB then excludeEdge s edge a b else logPath s a 127)

end Sys2Proof.Machine
end

