-- ==== Sys2Proof/Machine/Regs.lean ====
section
/-!
DEFINITION. Colyr registers and settings, the inventory record and the attestation report (R374, R405, R406, R413, R414, R429).
-/

namespace Sys2Proof.Machine

/-! ### Settings (R414) -/

def netBeacon (s : State) : Nat := field s.colyr.net.toNat 9 4
def netKaint (s : State) : Nat := field s.colyr.net.toNat 13 10
def netHold (s : State) : Nat := field s.colyr.net.toNat 23 14

/-- Ordering code of the module (R333, R414). -/
def orderCode (o : Order) : Nat :=
  match o with
  | .full => 1
  | .half => 2

def bitMask (n : Nat) (p : Nat → Bool) : Nat := (rangeFrom 0 n).foldl (fun a i => if p i then a + 2 ^ i else a) 0

/-- COLYR:ORDER. -/
def orderReg (s : State) : Nat :=
  orderCode s.order + 2 ^ 8 * bitMask 24 (fun n => stackFitted s.order n && !((tierOf s true n).excluded))

/-- Excluded units of a kind, those of excluded dies counted in. -/
def countExcluded (s : State) (k : UnitKind) : Nat :=
  sumBy (fun d => if s.exclDies.contains d then unitCount k
    else ((rangeFrom 0 (unitCount k)).filter (fun i => s.excluded.contains ({ die := d, kind := k, idx := i } : UnitId).key)).length)
    (match k with
     | .video => rangeFrom 24 4
     | _ => rangeFrom 0 24)

/-- COLYR:EXCL. -/
def exclReg (s : State) : Nat :=
  countExcluded s .cluster + countExcluded s .pipeline * 2 ^ 16 + (s.far.filter (·.excluded)).length * 2 ^ 24 +
    (s.near.filter (·.excluded)).length * 2 ^ 29 + s.exclEdges.length * 2 ^ 34 + countExcluded s .video * 2 ^ 40

/-! ### Watches (R374) -/

def dwDie (s : State) : Nat := field s.colyr.dwSel.toNat 4 0
def dwKind (s : State) : Nat := field s.colyr.dwSel.toNat 7 5
def dwUnit (s : State) : Nat := field s.colyr.dwSel.toNat 11 8

/-- Key of a watch; all context watches share one. -/
def watchKey (kind die unit : Nat) : Nat := if kind = 4 then 4 * 2 ^ 10 else kind * 2 ^ 10 + die * 2 ^ 4 + unit

def watchDefault (kind : Nat) : Nat := if kind = 3 then 27 else if kind = 4 then 26 else 25

/-- LOG2 of a watch. -/
def watchLog (s : State) (kind die unit : Nat) : Nat := NMap.getD s.colyr.watches (watchKey kind die unit) (watchDefault kind)

def clamp (lo hi v : Nat) : Nat := min hi (max lo v)

/-- Every watch of a kind. -/
def watchesOf (kind : Nat) : List Nat :=
  if kind = 4 then [watchKey 4 0 0]
  else ((if kind = 3 then rangeFrom 24 4 else rangeFrom 0 24).flatMap (fun d =>
    (rangeFrom 0 (if kind = 0 then 16 else if kind = 1 then 8 else if kind = 2 then 4 else 2)).map (watchKey kind d)))

/-- DW_TMO: LOG2 clamped to 20 to 31, for the selected watch or for all of its kind. -/
def writeWatch (s : State) (v : Nat) : State :=
  let l := clamp 20 31 (field v 4 0)
  let keys := if bitAt v 5 then watchesOf (dwKind s) else [watchKey (dwKind s) (dwDie s) (dwUnit s)]
  { s with colyr := { s.colyr with watches := keys.foldl (fun m k => NMap.set m k l) s.colyr.watches } }

/-! ### Reading and writing a register (R374, R414) -/

/-- A register by offset; none where Colyr has no register. DEDUCED: log entry 75. -/
def readColyr (s : State) (off : Nat) : Option Nat :=
  if off % 8 ≠ 0 then none
  else if off = 0x0008 then some (orderReg s)
  else if off = 0x0010 then some (exclReg s)
  else if off = 0x0100 then some s.colyr.portmode.toNat
  else if off = 0x0108 then some s.colyr.net.toNat
  else if off = 0x0110 then some s.colyr.dscpmap.toNat
  else if 0x0200 ≤ off ∧ off < 0x0300 then some (NMap.getD s.colyr.ipv4 ((off - 0x0200) / 8) 0).toNat
  else if 0x0400 ≤ off ∧ off < 0x0600 then some (NMap.getD s.colyr.ipv6 ((off - 0x0400) / 8) 0).toNat
  else if 0x0600 ≤ off ∧ off < 0x0620 then some (field s.colyr.nonce.toNat (8 * (off - 0x0600) + 63) (8 * (off - 0x0600)))
  else if off = 0x0700 then some s.colyr.dwSel.toNat
  else if off = 0x0708 then some (watchLog s (dwKind s) (dwDie s) (dwUnit s))
  else none

/-- NET with each field clamped to its range; reserved bits read as zero. -/
def clampNet (v : Nat) : Word64 :=
  BitVec.ofNat 64 (field v 2 0 + clamp 1 60 (field v 9 4) * 2 ^ 4 + clamp 1 10 (field v 13 10) * 2 ^ 10 + clamp 1 600 (field v 23 14) * 2 ^ 14)

/-- Host port of a logical port (R326). -/
def hostPort (port : Nat) : Nat := port / 4

/-- No host is attached through a host port. -/
def portIdle (s : State) (hp : Nat) : Bool := s.hosts.all (fun h => hostPort h.2.port != hp)

/-- The mode of an idle port changes at once, and its links train again (R326). -/
def takeMode (s : State) (hp : Nat) : State :=
  let m := field s.colyr.portmode.toNat (2 * hp + 1) (2 * hp)
  if portIdle s hp ∧ nth 0 s.portModes hp ≠ m then
    { s with portModes := setNth s.portModes hp m,
             ports := (rangeFrom 0 4).foldl (fun l k =>
               setNth l (4 * hp + k) { (nth PortRec.fresh l (4 * hp + k)) with up := false, tx := [] }) s.ports }
  else s

/-- A write of PORTMODE; one with a reserved encoding is ignored. -/
def writePortmode (s : State) (v : Nat) : State :=
  if (rangeFrom 0 8).any (fun n => field v (2 * n + 1) (2 * n) == 3) then s
  else (rangeFrom 0 8).foldl takeMode { s with colyr := { s.colyr with portmode := BitVec.ofNat 64 (field v 15 0) } }

/-- A write of a register; read-only ones keep their value. DEDUCED: log entry 75. -/
def writeColyr (s : State) (off : Nat) (v : Word64) : State :=
  if off = 0x0100 then writePortmode s v.toNat
  else if off = 0x0108 then { s with colyr := { s.colyr with net := clampNet v.toNat } }
  else if off = 0x0110 then { s with colyr := { s.colyr with dscpmap := v } }
  else if 0x0200 ≤ off ∧ off < 0x0300 then
    { s with colyr := { s.colyr with ipv4 := NMap.set s.colyr.ipv4 ((off - 0x0200) / 8) (BitVec.ofNat 64 (field v.toNat 31 0)) } }
  else if 0x0400 ≤ off ∧ off < 0x0600 then { s with colyr := { s.colyr with ipv6 := NMap.set s.colyr.ipv6 ((off - 0x0400) / 8) v } }
  else if off = 0x0700 then
    (if 4 < field v.toNat 7 5 then s
     else { s with colyr := { s.colyr with dwSel := BitVec.ofNat 64 (setField (field v.toNat 11 0) 4 0 (clamp 0 27 (field v.toNat 4 0))) } })
  else if off = 0x0708 then writeWatch s v.toNat
  else s

/-! ### Inventory and report (R405, R406, R413) -/

def fixLen (n : Nat) (l : Bytes) : Bytes := (l ++ List.replicate n 0).take n

/-- The identity key pair: of the first 32 bytes of SHAKE256 over the fused seed and "ZLM-IDENTITY-1" (R404). -/
def identityPair : Bytes × Bytes :=
  Config.dsaKeyGen ((Config.shake256 (toBytes 32 Config.fusedSeed.toNat ++
    [0x5A, 0x4C, 0x4D, 0x2D, 0x49, 0x44, 0x45, 0x4E, 0x54, 0x49, 0x54, 0x59, 0x2D, 0x31])).take 32)
def identityKey : Bytes := fixLen 2592 identityPair.1

/-- IDDIG. -/
def idDigest : BitVec 512 := Config.sha3 identityKey

/-- ENDORSE: the signature over the digest of IDDIG followed by SERIAL. -/
def endorse : Bytes :=
  fixLen 4627 (Config.endorsement (toBytes 64 (Config.sha3 (toBytes 64 idDigest.toNat ++ toBytes 16 Config.serial.toNat)).toNat))

/-- A signature of the identity key over a 64-byte digest; it signs DSIG and reports alone (R404). -/
def signDigest (t : BitVec 512) : Bytes := fixLen 4627 (Config.dsaSign identityPair.2 (toBytes 64 t.toNat))

/-- The debug state: 0 locked, 1 unlocked, 2 not production-fused (R405, R407). -/
def debugState (s : State) : Nat := if !s.fw.production then 2 else b2n s.colyr.debugOpen

/-- FWSVN, FWVER and the digest of the running image's signature block (R405). -/
def fwSvn (s : State) : Nat := s.fw.runSvn
def fwDigest (s : State) : Bytes := toBytes 64 (Config.sha3 (imgSigned s.fw.runBlock)).toNat

/-- The inventory record: the fields of R413 in its order. -/
def inventory (s : State) : Bytes :=
  toBytes 16 Config.serial.toNat ++ toBytes 8 (orderReg s) ++ (rangeFrom 0 32).flatMap (fun p => toBytes 6 (Config.macAddress p).toNat) ++
    toBytes 4 Config.enterprise.toNat ++ toBytes 64 Config.endorseKeyDigest.toNat ++ toBytes 64 idDigest.toNat ++
    toBytes 8 s.fw.runVer.toNat ++ toBytes 4 (fwSvn s) ++ toBytes 4 s.fw.fuses ++ toBytes 8 (exclReg s) ++
    (rangeFrom 0 24).flatMap (fun d => toBytes 4 ((tierOf s false d).freeCount false)) ++
    (rangeFrom 0 24).flatMap (fun d => toBytes 4 (if stackFitted s.order d then (tierOf s true d).freeCount true else 0))

def teValid (t : TenantBits) : Bool := bitAt t.toNat 512

/-- The tenancy entries in index order, invalid ones as zeros. -/
def tenantTable (s : State) : Bytes :=
  (rangeFrom 0 16).flatMap (fun k => if teValid (tenantBits s k) then toBytes 128 (tenantBits s k).toNat else List.replicate 128 0)

/-- An attestation report (R405). `own`: the attaching host's tenancy index. -/
def report (s : State) (nonce : BitVec 256) (own : Option Nat) : Bytes :=
  toBytes 4 0x5254415A ++ [1] ++ toBytes 1 (orderCode s.order) ++ toBytes 2 0 ++ toBytes 4 5184 ++ toBytes 4 0 ++
    toBytes 16 Config.serial.toNat ++ toBytes 32 nonce.toNat ++ toBytes 64 idDigest.toNat ++ endorse ++
    toBytes 13 0 ++ toBytes 64 Config.romDigest.toNat ++ fwDigest s ++ toBytes 4 (fwSvn s) ++ toBytes 4 s.fw.fuses ++
    toBytes 8 s.fw.runVer.toNat ++
    (toBytes 8 (orderReg s) ++ toBytes 8 (exclReg s) ++ toBytes 2 s.colyr.portmode.toNat ++ toBytes 1 (debugState s) ++ toBytes 45 0) ++
    toBytes 64 (Config.sha3 (tenantTable s)).toNat ++
    (match own with
     | some k => toBytes 128 (tenantBits s k).toNat
     | none => toBytes 128 0) ++
    toBytes 8 s.fw.boots ++ toBytes 8 0

/-- The configured cap, lowered by lost converters, in milliwatts (R429). -/
def effCapMw (s : State) : Nat :=
  if s.power.convLost = 0 then s.power.cap * 1000 else min (s.power.cap * 1000) ((8 - s.power.convLost) * 1450 * 1000000 / 975)

/-- The highest throttle level of a die (R445). -/
def throttle (s : State) : Nat := s.power.level.foldl max 0

end Sys2Proof.Machine
end

