-- ==== Sys2Proof/Machine/Links.lean ====
section
/-!
DEFINITION. What a logical port receives and sends: links, receive buffers and flow control, MACsec, the order of sending, and the segments of attach messages (R278, R326 to R331, R334, R335, R338).
-/

namespace Sys2Proof.Machine

/-! ### Ports (R326, R403, R430) -/

/-- The mode in force on a logical port's host port; in recovery every port runs 1 × 800G (R403). -/
def modeOf (s : State) (port : Nat) : Nat := if s.power.boot = .recovery then 0 else nth 0 s.portModes (hostPort port)

/-- The host ports are up: firmware or the boot ROM in recovery runs (R403, R430). -/
def hostPortsRun (s : State) : Bool :=
  match s.power.boot with
  | .recovery | .rails | .nearTrain | .farTrain | .selfTest | .ready => true
  | _ => false

/-- The host port's island runs: its PLL is in lock and it is not excluded (R25, R376). -/
def hostPortAlive (s : State) (hp : Nat) : Bool :=
  !(islandDown s 7 (24 + hp / 2) (hp % 2)) && !(s.exclIslands.contains (islKey 7 (24 + hp / 2) (hp % 2)))

/-- Interfaces that auto-negotiation advertises on a host port: those of its mode, by rate and by lanes (R326). -/
def advertised (s : State) (port : Nat) : Nat × Nat :=
  match modeOf s port with
  | 0 => (800, 4)
  | 1 => (400, 2)
  | _ => (200, 1)

/-- The logical port exists in its host port's mode (R326). -/
def portInMode (s : State) (port : Nat) : Bool := decide (port < 32) && decide (port % 4 % (advertised s port).2 = 0)

/-- Connector lanes of a logical port (R326, R449). -/
def portLanes (s : State) (port : Nat) : List Nat := if portInMode s port then rangeFrom port (advertised s port).2 else []

/-- A datagram can arrive on a logical port. -/
def portUp (s : State) (port : Nat) : Bool := hostPortsRun s && hostPortAlive s (hostPort port) && (portRec s port).up

/-! ### Receive buffers (R327, R328) -/

/-- Receive buffer of a logical port. -/
def portBuffer (s : State) (port : Nat) : Nat :=
  match modeOf s port with
  | 0 => 4194304
  | 1 => 2097152
  | _ => 1048576

/-- A received frame is dropped and counted. -/
def dropFrame (s : State) (port : Nat) : State := modPort s port (fun p => { p with dropped := p.dropped + 1 })

/-- A frame of the lossless priority has arrived with this many bytes in use: dropped beyond the region, XOFF at 3B / 8. -/
def losslessArrival (s : State) (port occ : Nat) : State × Bool :=
  let b := portBuffer s port
  if b / 2 < occ then (dropFrame s port, false)
  else
    let p := portRec s port
    let xoff := decide (3 * b / 8 ≤ occ)
    let s' := modPort s port (fun p => { p with occupancy := occ, xoff := p.xoff || xoff })
    (if xoff && !p.xoff then s'.emit (.pfc port (netPrio s) 0xFFFF) else s', true)

/-- A frame of another priority: dropped when the shared region is full. -/
def sharedArrival (s : State) (port occ : Nat) : State × Bool :=
  if portBuffer s port / 2 < occ then (dropFrame s port, false) else (modPort s port (fun p => { p with shared := occ }), true)

/-- The frame is in the lossless priority: by the PCP of its tag, else by its DSCP through DSCPMAP (R327, R414). -/
def inLossless (s : State) (f : FrameInfo) : Bool :=
  match f.pcp with
  | some p => p == netPrio s
  | none => bitAt s.colyr.dscpmap.toNat f.dscp

/-- A frame arrives: its checks at ingress (R278), then room for it. -/
def arrive (s : State) (port : Nat) (f : FrameInfo) : State × Bool :=
  if !(Custody.ingress.passes .frame f.crcOk) then (dropFrame s port, false)
  else if inLossless s f then losslessArrival s port f.occupancy
  else sharedArrival s port f.occupancy

/-! ### MACsec (R329, R338) -/

/-- The attachment is up. -/
def HostRec.linked (h : HostRec) : Bool :=
  match h.phase with
  | .attached | .registered | .detaching _ | .detached => true
  | .hold | .drying => false

/-- Frames below the highest packet number received less 1,024 are replays. -/
def replayWindow : Nat := 1024

/-- The frame is under the keys in force (true) or under those before (false); none when it does not verify: its SCI names the host, its key
set is accepted, its packet number lies in the replay window. PRESUMED: log entry 106. -/
def HostRec.verifies (h : HostRec) (x : MacSec) : Option Bool :=
  if !x.icvOk || decide (x.sci.toNat / 2 ^ 16 ≠ h.mac.toNat) then none
  else if x.an = h.keySet % 4 then (if h.rxNext ≤ x.pn + replayWindow then some true else none)
  else if h.oldKeys.isSome ∧ x.an = (h.keySet + 3) % 4 then (if h.rxOldNext ≤ x.pn + replayWindow then some false else none)
  else none

/-- A protected frame has been received: the packet numbers move on, and unprotected frames are no longer accepted. -/
def HostRec.received (h : HostRec) (x : MacSec) (current : Bool) : HostRec :=
  if current then { h with rxNext := max h.rxNext (x.pn + 1), plainOk := false }
  else { h with rxOldNext := max h.rxOldNext (x.pn + 1), plainOk := false }

/-- The host on a logical port with a MAC address. -/
def hostByMac (s : State) (port : Nat) (mac : BitVec 48) : Option (Nat × HostRec) :=
  s.hosts.find? (fun p => p.2.port == port && p.2.mac == mac && p.2.linked)

/-- A frame of an attached host passes when it verifies, or is unprotected while such frames are accepted or `exempt`; else it is dropped and
counted. -/
def protect (s : State) (slot : Nat) (h : HostRec) (f : FrameInfo) (exempt : Bool) : State × Bool :=
  match f.sec with
  | none => if exempt || h.plainOk then (s, true) else (dropFrame s h.port, false)
  | some x =>
    match h.verifies x with
    | some current => (s.setHost slot (h.received x current), true)
    | none => (dropFrame s h.port, false)

/-- A frame on a port that no host slot is named for. -/
def portFrame (s : State) (port : Nat) (f : FrameInfo) (exempt : Bool) (k : State → State) : State :=
  if !(portUp s port) then s else
  let p := arrive s port f
  if !p.2 then p.1 else
  match hostByMac p.1 port f.mac with
  | none => if f.sec.isSome then dropFrame p.1 port else k p.1
  | some (slot, h) =>
    let q := protect p.1 slot h f exempt
    if q.2 then k q.1 else q.1

/-- A frame of a host: room, protection, congestion mark, then what it asks. `held`: it counts during a hold as well. -/
def hostFrame (s : State) (slot : Nat) (f : FrameInfo) (held : Bool) (k : State → HostRec → State) : State :=
  match s.host? slot with
  | none => s
  | some h =>
    if !(portUp s h.port) || !(h.linked || (held && h.phase == .hold)) || f.mac != h.mac then s else
    let p := arrive s h.port f
    if !p.2 then p.1 else
    let q := protect p.1 slot h f false
    if !q.2 then q.1 else
    let s := if f.ce && f.cnpDue then q.1.toHost slot none none (.cnp slot) else q.1
    match s.host? slot with
    | none => s
    | some h => k s h

/-! ### The order of sending (R331) -/

/-- Packets of 4 KiB that a message takes. -/
def Out.packets (o : Out) : Nat :=
  match o with
  | .hostWrite _ _ _ d | .readResp _ d => max 1 (ceilDiv d.length 4096)
  | _ => 1

/-- The context whose turn it is, from a number on, of those with traffic waiting. -/
def nextSender (cur : Nat) (l : List TxItem) : Option Nat :=
  argMin (fun c => (c + 256 - cur) % 256) (dedup (l.filterMap (·.ctx)))

/-- Deficit round robin over the contexts' queue pairs: a context sends while its credit covers its oldest message, and gets its weight in
credits of one packet each when its turn ends. PRESUMED: log entry 106. -/
def drrOrder (weight : Nat → Nat) : Nat → Nat → NMap Nat → List TxItem → List TxItem
  | 0, _, _, l => l
  | n + 1, cur, credit, l =>
    match nextSender cur l with
    | none => l
    | some c =>
      match l.find? (fun x => x.ctx == some c) with
      | none => l
      | some x =>
        let k := NMap.getD credit c 0
        if x.out.packets ≤ k then x :: drrOrder weight n c (NMap.set credit c (k - x.out.packets)) (l.erase x)
        else drrOrder weight n ((c + 1) % 256) (NMap.set credit c (k + max 1 (weight c))) l

/-- Dispatch weight of a context (R118, R331). -/
def sendWeight (s : State) (cn : Nat) : Nat := ((s.ctx? cn).map (·.weight)).getD 1

/-- The order in which waiting traffic leaves: firmware control traffic, then the contexts' queue pairs. -/
def sendOrder (s : State) (l : List TxItem) : List TxItem :=
  let rest := l.filter (fun x => x.ctx.isSome)
  l.filter (fun x => x.ctx.isNone) ++ drrOrder (sendWeight s) ((sumBy (fun x => x.out.packets) rest + 1) * 257) 0 [] rest

/-- What waits at a port in a priority that is no longer paused is sent. -/
def drainPort (s : State) (port : Nat) : State :=
  let l := (portRec s port).tx
  let paused (x : TxItem) : Bool := portPaused s port (x.prio s)
  (sendOrder s (l.filter (fun x => !(paused x)))).foldl (fun s x => s.emit x.out) (modPort s port (fun p => { p with tx := l.filter paused }))

/-! ### Attach messages (R334, R335) -/

/-- Segments of a body: OFF and SLEN. -/
def segmentsOf (n : Nat) : List (Nat × Nat) := (rangeFrom 0 (ceilDiv n 1024)).map (fun i => (1024 * i, min 1024 (n - 1024 * i)))

/-- The 32 bytes of a segment header. -/
def segmentHeader (type sid mseq mlen off slen : Nat) : Bytes :=
  [0x5A, 0x41, 0x54, 0x54, BitVec.ofNat 8 type, 1, 0, 0] ++ toBytes 8 sid ++ toBytes 4 mseq ++ toBytes 4 mlen ++ toBytes 4 off ++ toBytes 2 slen ++ [0, 0]

/-- The datagrams of a message; an empty body takes one segment of no bytes. -/
def datagrams (type sid mseq : Nat) (body : Bytes) : List Bytes :=
  if body.isEmpty then [segmentHeader type sid mseq 0 0 0]
  else (segmentsOf body.length).map (fun g => segmentHeader type sid mseq body.length g.1 g.2 ++ (body.drop g.1).take g.2)

/-- Every byte of the body has arrived. -/
def msgComplete (m : MsgHead) : Bool :=
  (rangeFrom 0 m.mlen).all (fun i => m.segs.any (fun g => decide (g.1 ≤ i) && decide (i < g.1 + g.2)))

/-- The header's form: version, reserved bytes, the length its type gives, segments of 1 to 1,024 bytes inside the body. -/
def msgWellFormed (m : MsgHead) (len : Nat) : Bool :=
  m.aver == 1 && m.rsv == 0 && m.mlen == len &&
    m.segs.all (fun g => decide (g.2 ≤ 1024) && decide (g.1 + g.2 ≤ m.mlen) && (decide (1 ≤ g.2) || m.mlen == 0))

/-- Firmware sends datagrams by a logical port. -/
def sendSegs (s : State) (port : Nat) (slot : Option Nat) (l : List Bytes) : State :=
  s.sendItem port { slot := slot, ctx := none, roce := false, record := none, out := .message port l }

/-- A message of a host's session, with its own next message number (R334). -/
def sendMessage (s : State) (slot type : Nat) (body : Bytes) : State :=
  match s.host? slot with
  | none => s
  | some h => (sendSegs s h.port (some slot) (datagrams type h.sid h.outSeq body)).setHost slot { h with outSeq := h.outSeq + 1 }

/-- A message that answers one of the host's: it is stored for its repeats. -/
def answer (s : State) (slot mseq type : Nat) (body : Bytes) : State :=
  match s.host? slot with
  | none => s
  | some h =>
    let segs := datagrams type h.sid h.outSeq body
    (sendSegs s h.port (some slot) segs).setHost slot { h with outSeq := h.outSeq + 1, replies := NMap.set h.replies mseq (some segs) }

/-- Type numbers of R335. -/
def tyReq : Nat := 0x10
def tyChal : Nat := 0x11
def tyAuth : Nat := 0x12
def tyAck : Nat := 0x13
def tyRekey : Nat := 0x20
def tyRegister : Nat := 0x30
def tyRegAck : Nat := 0x31
def tyCtxCreate : Nat := 0x32
def tyCtxAck : Nat := 0x33
def tyCtxDestroy : Nat := 0x34
def tyCtxDone : Nat := 0x35
def tyDetach : Nat := 0x40
def tyDetachAck : Nat := 0x41
def tyKeepalive : Nat := 0x50
def tyRefuse : Nat := 0x7F

/-- REFUSE in a host's session. -/
def refuseHost (s : State) (slot mseq reason : Nat) : State := answer s slot mseq tyRefuse [BitVec.ofNat 8 reason]

/-- A message of an attached host: complete, of good form, inside MACsec, and not yet processed. A repeat gets the stored reply, or nothing
while the module works on the original (R334, R335). -/
def takeMessage (slot : Nat) (m : MsgHead) (len : Nat) (f : FrameInfo) (k : State → HostRec → State) (s : State) (h : HostRec) : State :=
  if !(msgComplete m) then s else
  match NMap.get? h.replies m.mseq with
  | some (some l) => sendSegs s h.port (some slot) l
  | some none => s
  | none =>
    if f.sec.isNone || m.sid != h.sid || !(msgWellFormed m len) then refuseHost s slot m.mseq 0x0A else
    let h' : HostRec := { h with replies := NMap.set h.replies m.mseq none }
    k (s.setHost slot h') h'

/-- The same from its frame on. -/
def hostMessage (s : State) (slot : Nat) (m : MsgHead) (len : Nat) (f : FrameInfo) (k : State → HostRec → State) : State :=
  hostFrame s slot f false (takeMessage slot m len f k)

end Sys2Proof.Machine
end

