-- ==== Sys2Proof/Machine/Attach.lean ====
section
/-!
DEFINITION. Attachment of hosts: the key exchange, registration, loss and hold, detach (R334 to R347, R415, R462).
-/

namespace Sys2Proof.Machine

/-! ### Shared operations -/

/-- Context numbers of a host slot. -/
def ctxsOf (s : State) (slot : Nat) : List Nat := (s.ctxs.filter (fun p => p.2.slot == slot)).map (·.1)

/-- The slot of contexts whose attachment is gone. DESIGN CHOICE: log entry 68. -/
def noSlot : Nat := 255

/-- The slot is free and its queue pairs are gone. -/
def freeHost (s : State) (slot : Nat) : State :=
  dropTx { s with hosts := NMap.erase s.hosts slot } (fun x => x.slot == some slot && x.roce)

/-- First 8 bytes of a key digest. -/
def digest8 (h : BitVec 512) : Nat := field h.toNat 63 0

/-- An attachment in the log (R421). -/
def logHost (s : State) (kind slot cause : Nat) (h : HostRec) : State := s.logMgmt kind h.port slot cause (digest8 h.hkdig)

/-- Every context of a host goes into Drydown. -/
def drydownAll (s : State) (slot : Nat) : State := (ctxsOf s slot).foldl beginDrydown s

/-- DETACH_ACK; it answers the DETACH, when there was one. -/
def sendDetachAck (s : State) (slot : Nat) (h : HostRec) : State :=
  match h.detachSeq with
  | some n => answer s slot n tyDetachAck []
  | none => sendMessage s slot tyDetachAck []

/-- A detaching host with no context left: DETACH_ACK, or the slot at once when the host is gone (R347, R462). -/
def detachDone (s : State) (slot : Nat) : State :=
  match s.host? slot with
  | none => s
  | some h =>
    if !(ctxsOf s slot).isEmpty then s else
    match h.phase with
    | .detaching _ => logHost (sendDetachAck (s.setHost slot { h with phase := .detached }) slot h) 0x44 slot 0 h
    | .drying => freeHost s slot
    | _ => s

/-! ### Losing a host (R344, R345, R462) -/

/-- A context of a lost host: paused, its epoch aborted as for a replay, its page transfers undone. -/
def pauseCtx (s : State) (cn : Nat) : State := abortEpoch (kvHalt (s.modCtx cn (fun c => { c with pauseHold := true })) cn) cn false

/-- A completion record that had not been sent is held again. -/
def unsendRec (s : State) (x : TxItem) : State :=
  match x.ctx, x.record with
  | some cn, some r => s.modCtx cn (fun c => { c with heldRecs := r :: c.heldRecs, cqTail := c.cqTail - 1 })
  | _, _ => s

/-- What waited for a host that is lost: its completion records are held, the rest is gone (R345). -/
def unsend (s : State) (slot port : Nat) : State :=
  dropTx (((portRec s port).tx.filter (fun x => x.slot == some slot)).reverse.foldl unsendRec s) (fun x => x.slot == some slot)

/-- The attachment of a slot is lost. -/
def hostLost (s : State) (slot : Nat) : State :=
  match s.host? slot with
  | none => s
  | some h =>
    let s := unsend s slot h.port
    match h.phase with
    | .attached | .registered => (ctxsOf s slot).foldl pauseCtx (logHost (s.setHost slot { h with phase := .hold }) 0x45 slot 0 h)
    | .detaching _ => detachDone (drydownAll (s.setHost slot { h with phase := .drying }) slot) slot
    | .detached => freeHost s slot
    | .hold | .drying => s

/-- The hold ends: the slot is free, and the contexts, now of no host, go into Drydown (R346). DESIGN CHOICE: log entry 68. -/
def endHold (s : State) (slot : Nat) (h : HostRec) : State :=
  let s := logHost (drydownAll s slot) 0x46 slot 0 h
  freeHost ((ctxsOf s slot).foldl (fun s cn => s.modCtx cn (fun c => { c with slot := noSlot })) s) slot

/-- The hold period is over; a drain still running goes on as immediate (R346, R347). -/
def execHoldPeriodEnd (slot : Nat) (s : State) : Res :=
  match s.host? slot with
  | none => .next s
  | some h =>
    match h.phase with
    | .hold => .next (endHold s slot h)
    | .detaching false => .next (detachDone (drydownAll (s.setHost slot { h with phase := .detaching true }) slot) slot)
    | _ => .next s

/-- No authenticated frame for three keepalive intervals. -/
def execKeepaliveTimeout (slot : Nat) (s : State) : Res := .next (hostLost s slot)

/-! ### Keys and the bodies of the key exchange (R336, R337) -/

/-- SHA3-512 as the 64 bytes it is hashed and signed as. -/
def digestBytes (d : BitVec 512) : Bytes := toBytes 64 d.toNat

/-- A 32-byte piece and a 12-byte piece of the derived bytes. -/
def cut32 (b : Bytes) (at_ : Nat) : BitVec 256 := BitVec.ofNat 256 (ofBytes ((b.drop at_).take 32))
def cut12 (b : Bytes) (at_ : Nat) : BitVec 96 := BitVec.ofNat 96 (ofBytes ((b.drop at_).take 12))

/-- The keys that both ends derive from the shared secret and T. -/
def deriveKeys (secret : Bytes) (t : BitVec 512) : KeySet :=
  let b := Config.shake256 (secret ++ digestBytes t)
  { hostSak := cut32 b 0, moduleSak := cut32 b 32, kconf := cut32 b 64, hostSalt := cut12 b 96, moduleSalt := cut12 b 108 }

/-- SSCI of the two ends. -/
def ssciModule : Nat := 1
def ssciHost : Nat := 2

/-- SHA3-512(KCONF ‖ n ‖ T): HCONF with 1, DCONF with 2. -/
def confirm (kconf : BitVec 256) (n : Byte) (t : BitVec 512) : BitVec 512 := Config.sha3 (toBytes 32 kconf.toNat ++ [n] ++ digestBytes t)

/-- What a side signs in its ATTACH_AUTH: SHA3-512(T ‖ the other's signature). -/
def authDigest (t : BitVec 512) (sig : Bytes) : BitVec 512 := Config.sha3 (digestBytes t ++ sig)

/-- The first 40 bytes of a request: versions, ENC, reserved, nonce. -/
def reqFields (avmin avmax umax enc rsv : Nat) (nonce : BitVec 256) : Bytes :=
  toBytes 1 avmin ++ toBytes 1 avmax ++ toBytes 1 umax ++ toBytes 1 enc ++ toBytes 4 rsv ++ toBytes 32 nonce.toNat

/-- The ATTACH_REQ body. -/
def reqBody (m : AttachReq) : Bytes :=
  reqFields m.avmin m.avmax m.umax m.enc m.rsv m.hnonce ++ fixLen 2592 m.hpub ++ fixLen 1568 m.hek

/-- The first 40 bytes of a challenge: AVER, UVER, reserved, RLEN, nonce. -/
def chalFields (rlen : Nat) (nonce : BitVec 256) : Bytes := [1, 0x10, 0, 0] ++ toBytes 4 rlen ++ toBytes 32 nonce.toNat

/-- The tenancy entry that admits a host key. -/
def tenantOf (s : State) (hkdig : BitVec 512) : Option Nat :=
  (rangeFrom 0 16).find? (fun k => teValid (tenantBits s k) && decide (field (tenantBits s k).toNat 511 0 = hkdig.toNat))

/-- The ATTACH_CHAL body up to DSIG. -/
def chalBody (s : State) (m : AttachReq) : Bytes :=
  chalFields 5184 (Config.nonce s.freeIx) ++ identityKey ++ fixLen 1568 (Config.kemEncaps (fixLen 1568 m.hek) s.freeIx).1 ++
    report s m.hnonce (tenantOf s m.hkdig)

/-- T of an attach. -/
def attachT (s : State) (m : AttachReq) : BitVec 512 := Config.sha3 (reqBody m ++ chalBody s m)

/-- The ATTACH_ACK body. -/
def ackBody (slot : Nat) (resumed : Bool) (hold kaint : Nat) (dconf : BitVec 512) : Bytes :=
  [0] ++ toBytes 1 slot ++ toBytes 1 (b2n resumed) ++ [0] ++ toBytes 4 hold ++ toBytes 4 kaint ++ toBytes 4 0 ++ digestBytes dconf

/-! ### Keepalives and REKEY (R335, R337, R338, R344) -/

/-- A KEEPALIVE of the host: an authenticated frame. -/
def execKeepalive (slot : Nat) (m : MsgHead) (f : FrameInfo) (s : State) : Res :=
  .next (hostFrame s slot f false (fun s h =>
    if msgComplete m && (f.sec.isNone || m.sid != h.sid || !(msgWellFormed m 0)) then refuseHost s slot m.mseq 0x0A else s))

/-- The module's own KEEPALIVE, once per interval. -/
def execKeepaliveSend (slot : Nat) (s : State) : Res :=
  match s.host? slot with
  | some h => .next (if h.linked then sendMessage s slot tyKeepalive [] else s)
  | none => .next s

/-- Length of a REKEY body: a key-exchange body less HPUB, DPUB and the report. -/
def rekeyLen (b : RekeyMsg) : Nat :=
  match b with
  | .req .. => 1608
  | .chal .. => 6235
  | .auth .. => 4691
  | .ack .. => 80

/-- New keys are in force; frames under the old ones are accepted for 1 s. The change is logged. -/
def installKeys (s : State) (slot : Nat) (h : HostRec) (k : KeySet) : State :=
  logHost (s.setHost slot { h with keySet := h.keySet + 1, keys := k, oldKeys := some h.keys, rekey := none, rxNext := 1, rxOldNext := h.rxNext })
    0x4D slot 0 h

/-- A rekey ends without new keys. -/
def refuseRekey (s : State) (slot : Nat) (h : HostRec) (mseq reason : Nat) : State :=
  refuseHost (s.setHost slot { h with rekey := none }) slot mseq reason

/-- A request opens an exchange: the module answers as to an ATTACH_REQ. It takes the place of one under way. -/
def rekeyReq (s : State) (slot : Nat) (h : HostRec) (mseq : Nat) (req ek : Bytes) : State :=
  let enc := Config.kemEncaps (fixLen 1568 ek) s.freeIx
  let chal := chalFields 0 (Config.nonce s.freeIx) ++ fixLen 1568 enc.1
  let t := Config.sha3 (req ++ chal)
  let h' : HostRec := { h with rekey := some { started := false, req := req, draw := s.freeIx, fixed := some (t, deriveKeys enc.2 t) } }
  answer (s.tick.setHost slot h') slot mseq tyRekey (chal ++ signDigest t)

/-- One body of the exchange. DESIGN CHOICE: log entry 107. -/
def rekeyStep (s : State) (slot : Nat) (h : HostRec) (mseq : Nat) (b : RekeyMsg) : State :=
  match b, h.rekey with
  | .req avmin avmax umax enc rsv nonce ek, _ =>
    if rsv ≠ 0 ∨ enc / 2 ≠ 0 then refuseRekey s slot h mseq 0x0A
    else if 1 < avmin ∨ avmax < 1 then refuseRekey s slot h mseq 0x01
    else rekeyReq s slot h mseq (reqFields avmin avmax umax enc rsv nonce ++ fixLen 1568 ek) ek
  | .chal nonce ct sig sigOk, some { started := true, req := req, draw := n, fixed := none } =>
    if !sigOk then refuseRekey s slot h mseq 0x07 else
    let t := Config.sha3 (req ++ chalFields 0 nonce ++ fixLen 1568 ct)
    let k := deriveKeys (Config.kemDecaps n ct) t
    answer (s.setHost slot { h with rekey := some { started := true, req := req, draw := n, fixed := some (t, k) } }) slot mseq tyRekey
      (signDigest (authDigest t (fixLen 4627 sig)) ++ digestBytes (confirm k.kconf 1 t))
  | .auth sigOk conf, some { started := false, fixed := some (t, k), .. } =>
    if !sigOk || conf != confirm k.kconf 1 t then refuseRekey s slot h mseq 0x07
    else
      let s := answer s slot mseq tyRekey (ackBody slot h.resumed h.hold h.kaint (confirm k.kconf 2 t))
      (match s.host? slot with
       | some h => installKeys s slot h k
       | none => s)
  | .ack result conf, some { started := true, fixed := some (t, k), .. } =>
    if result ≠ 0 ∨ conf ≠ confirm k.kconf 2 t then refuseRekey s slot h mseq 0x07 else installKeys s slot h k
  | _, _ => refuseRekey s slot h mseq 0x0A

/-- A received REKEY. DESIGN CHOICE: log entry 107. -/
def execRekey (slot : Nat) (m : MsgHead) (b : RekeyMsg) (f : FrameInfo) (s : State) : Res :=
  .next (hostMessage s slot m (rekeyLen b) f (fun s h => rekeyStep s slot h m.mseq b))

/-- The module starts an exchange of its own: its request, with an encapsulation key of its own. DESIGN CHOICE: log entry 107. -/
def execRekeyStart (slot : Nat) (s : State) : Res :=
  match s.host? slot with
  | none => .next s
  | some h =>
    if !h.linked || h.rekey.isSome then .next s else
    let req := reqFields 1 1 0x10 (b2n h.enc) 0 (Config.nonce s.freeIx) ++ fixLen 1568 (Config.kemKey s.freeIx)
    .next (sendMessage (s.tick.setHost slot { h with rekey := some { started := true, req := req, draw := s.freeIx, fixed := none } }) slot tyRekey req)

/-- One second after the switch, frames under the old keys are no longer accepted. -/
def execOldKeyExpiry (slot : Nat) (s : State) : Res :=
  match s.host? slot with
  | none => .next s
  | some h => .next (s.setHost slot { h with oldKeys := none })

/-- One second after ATTACH_ACK, unprotected frames of the session are no longer accepted (R338). -/
def execUnprotectedFrameWindowEnd (slot : Nat) (s : State) : Res :=
  .next { s with hosts := NMap.modify s.hosts slot (fun h => { h with plainOk := false }) }

/-! ### Attach (R338 to R340, R345, R346) -/

/-- The slot an identity holds. -/
def slotOf (s : State) (hkdig : BitVec 512) : Option (Nat × HostRec) := s.hosts.find? (fun p => p.2.hkdig == hkdig)

/-- Slots taken: those of hosts, and those of attaches that wait for a Drydown (R339, R346). DESIGN CHOICE: log entry 68. -/
def takenSlots (s : State) : List Nat := s.hosts.map (·.1) ++ s.sessions.filterMap (·.waiting)

/-- A slot for the identity: its own in a hold, else the lowest free one. DESIGN CHOICE: log entry 68. -/
def slotFor (s : State) (hkdig : BitVec 512) : Option Nat :=
  match slotOf s hkdig with
  | some (k, _) => some k
  | none => (rangeFrom 0 16).find? (fun k => !((takenSlots s).contains k))

def wantsEnc (m : AttachReq) : Bool := bitAt m.enc 0

/-- ENC against the tenancy entry (R3, R340, R415). -/
def encRefused (s : State) (k : Nat) (m : AttachReq) : Bool :=
  let e := teField (tenantBits s k) 514 513
  if wantsEnc m then e == 0 else e == 2

/-- The module takes attaches (R340). -/
def attachOpen (s : State) : Bool := s.power.boot == .ready && !s.colyr.debugOpen

/-- The reason step 2 of R338 refuses with, 0 for none. -/
def reqReason (s : State) (m : AttachReq) : Nat :=
  if m.rsv ≠ 0 ∨ m.enc / 2 ≠ 0 ∨ msgWellFormed m.head 4200 = false then 0x0A
  else if 1 < m.avmin ∨ m.avmax < 1 then 0x01
  else if m.umax < 0x10 then 0x02
  else if !(attachOpen s) then 0x08
  else if 4 ≤ s.sessions.length then 0x09
  else if (slotFor s m.hkdig).isNone then 0x05
  else if wantsEnc m && decide (s.order = .half) then 0x06
  else match tenantOf s m.hkdig with
    | none => 0x03
    | some k => if encRefused s k m then 0x06 else 0

/-- REFUSE of a session that no host holds; `mseq`: the module's own message number in it. -/
def sendRefuse (s : State) (port sid mseq reason : Nat) : State := sendSegs s port none (datagrams tyRefuse sid mseq [BitVec.ofNat 8 reason])

/-- A refused attach. -/
def refuseAttach (s : State) (port sid mseq reason : Nat) (hkdig : BitVec 512) : State :=
  (sendRefuse { s with sessions := s.sessions.filter (fun x => x.sid != sid) } port sid mseq reason).logMgmt 0x43 port 31 reason (digest8 hkdig)

/-- A host whose session a message belongs to and that has stored what it answered. -/
def storedReply (s : State) (sid mseq : Nat) : Option (Nat × HostRec × List Bytes) :=
  match s.hosts.find? (fun p => p.2.sid == sid) with
  | some (k, h) => (match NMap.get? h.replies mseq with
    | some (some l) => some (k, h, l)
    | _ => none)
  | none => none

/-- The session that an ATTACH_REQ opens, and its challenge. -/
def newSession (s : State) (m : AttachReq) (mac : BitVec 48) : Session :=
  let t := attachT s m
  { sid := m.head.sid, req := m, mac := mac, dnonce := Config.nonce s.freeIx, t := t,
    keys := deriveKeys (Config.kemEncaps (fixLen 1568 m.hek) s.freeIx).2 t,
    reply := datagrams tyChal m.head.sid 0 (chalBody s m ++ signDigest t), authSeq := 0, waiting := none }

/-- An attach datagram belongs to a session that no host has completed. -/
def unfinished (s : State) (sid : Nat) : Bool := s.hosts.all (fun p => p.2.sid != sid || p.2.phase == .attached)

/-- Step 2 and 3 of R338; a repeated message gets its stored reply (R334). -/
def execAttachReq (m : AttachReq) (f : FrameInfo) (s : State) : Res :=
  .next (portFrame s m.port f (unfinished s m.head.sid) (fun s =>
    if !(msgComplete m.head) then s else
    match storedReply s m.head.sid m.head.mseq with
    | some (k, h, l) => sendSegs s h.port (some k) l
    | none =>
      match s.sessions.find? (fun x => x.sid == m.head.sid) with
      | some x =>
        if x.waiting.isSome then s
        else if x.req = m then sendSegs s m.port none x.reply
        else refuseAttach s m.port m.head.sid 1 0x0A m.hkdig
      | none =>
        let r := reqReason s m
        if r ≠ 0 then refuseAttach s m.port m.head.sid 0 r m.hkdig else
        let x := newSession s m f.mac
        sendSegs ({ s with sessions := s.sessions ++ [x] } : State).tick m.port none x.reply))

/-- The host slot is taken and ATTACH_ACK sent. An identity in its hold resumes (R338 step 5, R345). -/
def acceptHost (s : State) (x : Session) (slot tenant : Nat) : State :=
  let resumed := (slotOf s x.req.hkdig).isSome
  let ack := datagrams tyAck x.sid 1 (ackBody slot resumed (netHold s) (netKaint s) (confirm x.keys.kconf 2 x.t))
  let h : HostRec :=
    { hkdig := x.req.hkdig, tenant := tenant, port := x.req.port, mac := x.mac, sid := x.sid, umax := x.req.umax, enc := wantsEnc x.req,
      phase := .attached, resumed := resumed, hold := netHold s, kaint := netKaint s, reg := none, keySet := 0, keys := x.keys, oldKeys := none,
      rekey := none, rxNext := 1, rxOldNext := 1, outSeq := 2, replies := NMap.set (NMap.set [] x.req.head.mseq (some x.reply)) x.authSeq (some ack),
      detachSeq := none, plainOk := true, qps := [] }
  let s : State := { s with sessions := s.sessions.filter (fun y => y.sid != x.sid) }
  logHost (sendSegs (s.setHost slot h) h.port (some slot) ack) 0x42 slot 0 h

/-- A Drydown of the identity's contexts still runs after its hold (R346). -/
def drydownRuns (s : State) (tenant : Nat) : Bool := s.ctxs.any (fun p => p.2.slot == noSlot && p.2.tenant == tenant)

/-- Another session of the identity already waits. -/
def waitsBefore (s : State) (x : Session) : Bool := s.sessions.any (fun y => y.waiting.isSome && y.sid != x.sid && y.req.hkdig == x.req.hkdig)

/-- A session changed in place. -/
def modSession (s : State) (sid : Nat) (g : Session → Session) : State :=
  { s with sessions := s.sessions.map (fun y => if y.sid = sid then g y else y) }

/-- Step 5 of R338 once the signatures are known: the slot is taken, and the host accepted unless a Drydown of its identity still runs. -/
def attachStep5 (s : State) (x : Session) : State :=
  let no (r : Nat) : State := refuseAttach s x.req.port x.sid 1 r x.req.hkdig
  if !(attachOpen s) then no 0x08 else
  match tenantOf s x.req.hkdig with
  | none => no 0x03
  | some k =>
    if encRefused s k x.req then no 0x06
    else if ((slotOf s x.req.hkdig).map (fun p => p.2.phase != .hold)).getD false || waitsBefore s x then no 0x04
    else match slotFor s x.req.hkdig with
      | none => no 0x05
      | some slot =>
        if drydownRuns s k then modSession s x.sid (fun y => { y with authSeq := x.authSeq, waiting := some slot })
        else acceptHost s x slot k

/-- A waiting attach goes on once no Drydown of its identity runs, in the slot it has taken (R346). -/
def resumeSession (s : State) (x : Session) : State :=
  match x.waiting, tenantOf s x.req.hkdig with
  | some slot, some k => if drydownRuns s k then s else acceptHost s x slot k
  | some _, none => refuseAttach s x.req.port x.sid 1 0x03 x.req.hkdig
  | none, _ => s

/-- ATTACH_AUTH (R338 step 5). A repeat after ATTACH_ACK gets the ACK again; one outside any session is out of sequence. -/
def execAttachAuth (port : Nat) (m : MsgHead) (sigOk : Bool) (hconf : BitVec 512) (f : FrameInfo) (s : State) : Res :=
  .next (portFrame s port f (unfinished s m.sid) (fun s =>
    if !(msgComplete m) then s else
    match storedReply s m.sid m.mseq with
    | some (k, h, l) => sendSegs s h.port (some k) l
    | none =>
      match s.sessions.find? (fun x => x.sid == m.sid) with
      | some x =>
        if x.waiting.isSome then s
        else if !(msgWellFormed m 4691) then refuseAttach s x.req.port m.sid 1 0x0A x.req.hkdig
        else if !sigOk || hconf != confirm x.keys.kconf 1 x.t then refuseAttach s x.req.port m.sid 1 0x07 x.req.hkdig
        else attachStep5 s { x with authSeq := m.mseq }
      | none => sendRefuse s port m.sid 0 0x0A))

/-- A session waits too long for the host's next message, REGISTER included (R338). DEDUCED: log entry 70. -/
def execAttachSessionTimeout (sid : Nat) (s : State) : Res :=
  let s' : State := { s with sessions := s.sessions.filter (fun x => x.sid != sid || x.waiting.isSome) }
  match s.hosts.find? (fun p => p.2.sid == sid && p.2.phase == .attached) with
  | some p => .next (if (ctxsOf s p.1).isEmpty then freeHost s' p.1 else hostLost s' p.1)
  | none => .next s'

/-- Message types of R335. -/
def attachTypes : List Nat :=
  [tyReq, tyChal, tyAuth, tyAck, tyRekey, tyRegister, tyRegAck, tyCtxCreate, tyCtxAck, tyCtxDestroy, tyCtxDone, tyDetach, tyDetachAck, tyKeepalive,
   tyRefuse]

/-- A reserved type is answered with REFUSE 0x0A (R335). -/
def execReservedAttachMessage (port : Nat) (m : MsgHead) (type : Nat) (f : FrameInfo) (s : State) : Res :=
  if attachTypes.contains type then .next s
  else .next (portFrame s port f (unfinished s m.sid) (fun s =>
    if msgComplete m then (sendRefuse s port m.sid 0 0x0A).logMgmt 0x43 port 31 0x0A 0 else s))

/-! ### Registration (R341, R345) -/

/-- Numbers the module picks: queue pair, PSN, keys. -/
def freshQp (s : State) : Nat := Config.freeNat s.freeIx 10 % 2 ^ 24
def freshPsn (s : State) : Nat := Config.freeNat s.freeIx 11 % 2 ^ 24
def freshRkva (s : State) : Nat := Config.freeNat s.freeIx 12 % 2 ^ 32
def freshRkcp (s : State) : Nat := Config.freeNat s.freeIx 13 % 2 ^ 32
/-- The key pairs the security block generates for a context, by number; each is its context's alone (R294). -/
def freshFarKey (s : State) : Nat := 2 * s.freeIx
def freshSwapKey (s : State) : Nat := 2 * s.freeIx + 1

def QPair.fresh (n psn hqpn hpsn : Nat) : QPair := { qpn := n, psn := psn, hqpn := hqpn, hpsn := hpsn, rate := 2 ^ 32, retries := 0 }

/-- Windows and swap region are valid (R340, R341). -/
def regOk (m : RegisterMsg) : Bool :=
  decide (m.wins.length ≤ 16) && m.wins.all (fun w => decide (w.index < 16) && decide (0 < w.len)) &&
    dedup (m.wins.map (·.index)) == m.wins.map (·.index) && m.swapLen % 4096 == 0

def hostReg (m : RegisterMsg) : HostReg :=
  { evt := m.evt, hqpn := m.hqpn % 2 ^ 24, hpsn := m.hpsn, swapVa := m.swapVa, swapLen := m.swapLen, swapKey := m.swapKey, wins := m.wins }

/-- A resumed context gets a new queue pair and keys. -/
def requeue (s : State) (slot cn : Nat) : State :=
  match s.ctx? cn with
  | none => s
  | some c =>
    (({ s with hosts := NMap.modify s.hosts slot (fun h => { h with qps := h.qps ++ [QPair.fresh (freshQp s) (freshPsn s) c.hqpn c.hpsn] }) } : State).setCtx cn
      { c with qpn := freshQp s, psn := freshPsn s, rkva := freshRkva s, rkcp := freshRkcp s }).tick

/-- The CTX_ACK body, which a record of REG_ACK has as well (R341, R342). -/
def ctxAckBody (result cn qpn psn rkva rkcp : Nat) : Bytes :=
  toBytes 1 result ++ toBytes 1 cn ++ [0, 0] ++ toBytes 4 qpn ++ toBytes 4 psn ++ toBytes 4 rkva ++ toBytes 4 rkcp

/-- What REG_ACK says of a context. -/
def resumeRecord (s : State) (cn : Nat) : Bytes :=
  match s.ctx? cn with
  | some c => ctxAckBody 0 cn c.qpn c.psn c.rkva c.rkcp
  | none => []

/-- The REG_ACK body. -/
def regAckBody (result qpn psn : Nat) (ctxs : List Bytes) : Bytes :=
  toBytes 1 result ++ [0, 0, 0] ++ toBytes 4 qpn ++ toBytes 4 psn ++ toBytes 4 ctxs.length ++ ctxs.flatten

/-- A context goes on after REG_ACK: held completions first, then its epoch. -/
def resumeCtx (reg : HostReg) (s : State) (cn : Nat) : State :=
  releaseRecs (s.modCtx cn (fun c => { c with reg := some reg, pauseHold := false })) cn

/-- The first REGISTER of an attachment. -/
def firstRegister (s : State) (slot mseq : Nat) (h : HostRec) (m : RegisterMsg) : State :=
  let q := freshQp s
  let p := freshPsn s
  let s := (s.setHost slot { h with phase := .registered, plainOk := false, reg := some (hostReg m),
                                    qps := [QPair.fresh q p (m.hqpn % 2 ^ 24) m.hpsn] }).tick
  let l := ctxsOf s slot
  let s := l.foldl (fun s cn => requeue s slot cn) s
  l.foldl (resumeCtx (hostReg m)) (answer s slot mseq tyRegAck (regAckBody 0 q p (l.map (resumeRecord s))))

/-- REGISTER. A later one takes effect at each context's next boundary. DEDUCED: log entry 70. -/
def registerHost (slot mseq : Nat) (b : RegisterMsg) (s : State) (h : HostRec) : State :=
  match h.phase with
  | .attached | .registered =>
    if b.rsv ≠ 0 then refuseHost s slot mseq 0x0A
    else if !(regOk b) then answer s slot mseq tyRegAck (regAckBody 0x0C 0 0 [])
    else if h.phase = .attached then firstRegister s slot mseq h b
    else answer (s.setHost slot { h with reg := some (hostReg b) }) slot mseq tyRegAck
      (regAckBody 0 ((h.qps.head?.map (·.qpn)).getD 0) ((h.qps.head?.map (·.psn)).getD 0) [])
  | .detaching _ | .detached | .hold | .drying => refuseHost s slot mseq 0x0A

def execRegister (slot : Nat) (m : MsgHead) (b : RegisterMsg) (f : FrameInfo) (s : State) : Res :=
  .next (hostMessage s slot m (40 + 24 * b.wins.length) f (registerHost slot m.mseq b))

/-! ### Detach (R347) -/

/-- A context leaves its hold, with the registration it has. DEDUCED: log entry 69. -/
def leaveHold (s : State) (cn : Nat) : State := releaseRecs (s.modCtx cn (fun c => { c with pauseHold := false })) cn

/-- DETACH. In a hold it ends the hold: a drain runs what was fetched to its boundaries. DEDUCED: log entry 69. -/
def detachHost (slot mseq mode : Nat) (s : State) (h : HostRec) : State :=
  match h.phase with
  | .attached | .registered | .hold =>
    if 1 < mode then refuseHost s slot mseq 0x0A else
    let s := s.setHost slot { h with phase := .detaching (mode == 1), detachSeq := some mseq }
    detachDone (if mode = 1 then drydownAll s slot
      else (ctxsOf s slot).foldl (fun s cn => drainDetach (if h.phase = .hold then leaveHold s cn else s) cn) s) slot
  | .detaching _ | .detached | .drying => refuseHost s slot mseq 0x0A

/-- A repeated DETACH gets its ACK again and frees the slot at once; any other is taken as a message of the host. DEDUCED: log entry 69. -/
def execDetach (slot : Nat) (m : MsgHead) (mode : Nat) (f : FrameInfo) (s : State) : Res :=
  .next (hostFrame s slot f true (fun s h =>
    let s' := takeMessage slot m 1 f (detachHost slot m.mseq mode) s h
    if h.phase = .detached ∧ h.detachSeq = some m.mseq ∧ msgComplete m = true then freeHost s' slot else s'))

/-- One second after DETACH_ACK the slot is free. -/
def execDetachRelease (slot : Nat) (s : State) : Res :=
  match s.host? slot with
  | none => .next s
  | some h => .next (if h.phase = .detached then freeHost s slot else s)

end Sys2Proof.Machine
end

