-- ==== Sys2Proof/Machine/Ctxs.lean ====
section
/-!
DEFINITION. Creation and end of contexts: CTX_CREATE, CTX_DESTROY, the completion of a Drydown and what waits for it (R286, R288, R342, R343, R391 to R393, R415, R416).
-/

namespace Sys2Proof.Machine

/-! ### CTX_CREATE (R343, R415) -/

/-- Shares of a tenancy entry. -/
def entryShares (t : TenantBits) : Shares :=
  { nfloor := teField t 607 598, ncap := teField t 617 608, ffloor := teField t 627 618, fcap := teField t 637 628,
    gfloor := teField t 647 638, gcap := teField t 657 648 }

/-- The sums of R288 with one more context's shares fit. -/
def floorsFit (l : List Shares) : Bool :=
  decide (sumBy (·.nfloor) l ≤ 1008) && decide (sumBy (fun (x : Shares) => x.ffloor + x.gfloor) l ≤ 1008)

/-- Near pages a tenant has mapped. -/
def tenantNear (s : State) (k : Nat) : Nat :=
  sumBy (fun (p : Nat × Ctx) => if p.2.tenant = k then (p.2.pages.filter (fun e => !(isFar e.2.phys))).length else 0) s.ctxs

/-- CTX_CREATE is refused with reason 0x0B (R340, R415). -/
def quotaRefused (s : State) (k : Nat) : Bool :=
  let t := tenantBits s k
  decide (teField t 526 518 ≤ (s.ctxs.filter (fun p => p.2.tenant == k)).length) || decide (teField t 576 558 < tenantNear s k + 1) ||
    !(floorsFit (entryShares t :: s.ctxs.map (fun p => p.2.shares))) || (takePage s false (dieOrder 0)).isNone

/-- Images of bank 0 at creation, slot by slot (R208). -/
def slotImages : List Nat := [0, 3, 4, 5, 6, 7, 9, 10]

def newTabs : List TabSlot :=
  slotImages.map (fun i => { active := 0, bank0 := Bank.loaded (some i) none, bank1 := .empty })

/-- Contents of page 0: scale codes 0x7F, and the built-in images in bank 0 of every slot (R58, R210, R343). -/
def initPage0 (m : Memory) (phys : Nat) : Memory :=
  let m := Memory.setBlock m phys pageSize ((rangeFrom 0 4096).map (fun i => (phys + 8 * i + 4, 0x7F)))
  ((rangeFrom 0 8).zip slotImages).foldl (fun m p =>
    Memory.setBytes m (phys + bankVa p.1 0) ((rangeFrom 0 7232).map (builtinImg p.2))) m

/-- A context's scratchpad share reads as zero when it is given (R286). -/
def eraseShare (m : Memory) (cn : Nat) : Memory := Memory.erase m (winKey cn 0) (2 ^ 40)

/-- Settings of a new context; its map is the identity until exclusions and shares move units. -/
def newCtx (slot : Nat) (h : HostRec) (t : TenantBits) (m : CtxCreateMsg) (page0 qpn psn rkva rkcp farKey swapKey : Nat) : Ctx :=
  { slot := slot, tenant := h.tenant, active := true, pauseHold := false, pausePoison := false, pausePages := false, faulted := false,
    drydown := false, dberr := false, cqfull := false, epochNo := 0, cqCfg := BitVec.ofNat 64 (4 * 2 ^ 4), cqTail := 0, cqHead := 0,
    heldRecs := [], nextSeq := 1, sqs := List.replicate 4 SubQueue.fresh, lastQ := 3, templates := [], launch := none, epoch := none,
    apend := none, taken := [], stat := m.stat, enc := h.enc, umax := h.umax, spshare := teField t 557 550, pceil := teField t 517 516,
    weight := teField t 534 527, tslotq := teField t 549 535, shares := entryShares t, shadowNear := teField t 576 558 / 8,
    shadowFar := teField t 597 577 / 8, place := rangeFrom 0 24, placeUnits := [], backing := [],
    pages := [(0, { phys := page0, ro := false, moveTo := none })], shadows := [], regions := [], tabs := newTabs, slotFmt := [],
    slotFmtBase := [], kv := { n := 0, pages := [], free := [], waiting := [] }, seqs := [],
    comp := { pages := [], top := 0, charge := 0, tensors := [], foul := [] }, streams := [], streamsBase := [], boundPast := [], boundNext := [], poisoned := [],
    reg := h.reg, qpn := qpn, psn := psn, hqpn := m.hqpn % 2 ^ 24, hpsn := m.hpsn, rkva := rkva, rkcp := rkcp, farKey := farKey, swapCipherKey := swapKey, ctxDone := none, stopped := false }

/-- A logical unit whose physical unit has no room for the share moves as an excluded one does (R281, R388). DEDUCED: log entry 80. -/
def fitUnit (cn : Nat) (s : State) (x : Nat × Nat) : State :=
  match s.ctx? cn with
  | none => s
  | some c =>
    let p := physUnit c x.1 x.2
    if p.2 = backedCode ∨ allocated s p.1 p.2 ≤ 128 then s else
    placeUnit cn s x c p.2 p.1

/-- The new context enters the module, and CTX_ACK names it. -/
def createCtx (s : State) (slot mseq cn : Nat) (h : HostRec) (m : CtxCreateMsg) : State :=
  match takePage s false (dieOrder 0) with
  | none => s
  | some (s, p) =>
    let c := newCtx slot h (tenantBits s h.tenant) m p (freshQp s) (freshPsn s) (freshRkva s) (freshRkcp s) (freshFarKey s) (freshSwapKey s)
    let s := ({ s with mem := initPage0 (eraseShare s.mem cn) p } : State).setCtx cn c
    let s := s.setHost slot { h with qps := h.qps ++ [QPair.fresh c.qpn c.psn c.hqpn c.hpsn] }
    answer (logicalUnits.foldl (fitUnit cn) (replan s.tick cn)) slot mseq tyCtxAck (ctxAckBody 0 cn c.qpn c.psn c.rkva c.rkcp)

/-- A CTX_CREATE (R342). DEDUCED: log entry 70. -/
def createHost (slot mseq : Nat) (m : CtxCreateMsg) (s : State) (h : HostRec) : State :=
  let no (r : Nat) : State := answer s slot mseq tyCtxAck (ctxAckBody r 0 0 0 0 0)
  match h.phase with
  | .registered =>
    if m.rsv ≠ 0 ∨ (m.stat ≠ 1 ∧ m.stat ≠ 2) then no 0x0A
    else if quotaRefused s h.tenant then no 0x0B
    else match NMap.lowestFree s.ctxs 0 256 with
      | none => no 0x0B
      | some cn => createCtx s slot mseq cn h m
  | .attached | .detaching _ | .detached | .hold | .drying => no 0x0A

def execCtxCreate (slot : Nat) (m : MsgHead) (b : CtxCreateMsg) (f : FrameInfo) (s : State) : Res :=
  .next (hostMessage s slot m 12 f (createHost slot m.mseq b))

/-! ### The end of a context -/

/-- CTX_DESTROY begins the Drydown; a second one is answered by the one CTX_DONE (R342, R393). -/
def destroyHost (slot mseq ctx : Nat) (s : State) (_ : HostRec) : State :=
  match s.ctx? ctx with
  | none => answer s slot mseq tyCtxDone [0x0D]
  | some c =>
    if c.slot ≠ slot then answer s slot mseq tyCtxDone [0x0D]
    else if c.drydown then s
    else beginDrydown (s.setCtx ctx { c with ctxDone := some mseq }) ctx

def execCtxDestroy (slot : Nat) (m : MsgHead) (ctx : Nat) (f : FrameInfo) (s : State) : Res :=
  .next (hostMessage s slot m 1 f (destroyHost slot m.mseq ctx))

/-- Answer of a Colyr command (R409). -/
def respond (s : State) (cmd tag status : Nat) (data : Bytes) : State := s.emit (.colyr (cmd ||| 0x80) tag status data)

/-- A table written to flash replaces the older copy, with a count above the other's (R417). -/
def Colyr.putTable (c : Colyr) (l : List TenantBits) : Colyr :=
  let x : TenantCopy := { count := c.tenInUse.count + 1, valid := true, entries := l }
  { c with tenFlash := if c.firstInUse then (c.tenFlash.1, x) else (x, c.tenFlash.2) }

/-- One entry of the tenancy table written or deleted (R416, R417), and the change in the log. -/
def putTenant (s : State) (k : Nat) (t : TenantBits) (kind key : Nat) : State :=
  ({ s with colyr := s.colyr.putTable (setNth s.colyr.tenants k t) } : State).logMgmt kind 31 k 0 key

/-- The first 8 bytes of an entry's key digest. -/
def entryKey (t : TenantBits) : Nat := field t.toNat 63 0

/-- TENANT_DELETE: the entry is as if it had never been written. DEDUCED: log entry 76. -/
def deleteEntry (s : State) (k : Nat) : State := putTenant s k tenantReset 0x48 (entryKey (tenantBits s k))

/-- A forced deletion goes through once no context of the entry is left (R416). -/
def finishDelete (s : State) : State :=
  match s.colyr.deleting with
  | none => s
  | some (tag, k) =>
    if s.ctxs.any (fun p => p.2.tenant == k) then s else
    respond (deleteEntry { s with colyr := { s.colyr with deleting := none } } k) 0x08 tag 0 []

/-- Attaches that waited for the Drydown of their identity go on (R346). DESIGN CHOICE: log entry 68. -/
def resumeAttach (s : State) : State := s.sessions.foldl resumeSession s

/-- Nothing of the context is outstanding: the Drydown Squall has arrived, its tasks have stopped, its pushes have landed. -/
def quiet (s : State) (cn : Nat) : Bool :=
  s.squalls.all (fun q => !(q.kind == 4 && q.ctx == cn)) && s.units.all (fun p => p.2.ctx != cn || p.2.phase == .stopping) &&
    s.fabric.all (fun f => f.ctx != cn)

/-- Pages, shadows and move targets of a context. -/
def ownedPages (c : Ctx) : List Nat :=
  c.pages.map (fun e => e.2.phys) ++ c.pages.filterMap (fun e => e.2.moveTo) ++ c.shadows.map (fun e => e.2.phys) ++ c.backing

/-- Everything the context held is released; its number is free (R391 step 9). -/
def releaseCtx (s : State) (cn : Nat) (c : Ctx) : State :=
  let s := dropUnits s (fun k => match NMap.get? s.units k with
    | some r => r.ctx == cn
    | none => false)
  let s := (ownedPages c).foldl releasePage s
  { s with
    mem := eraseShare s.mem cn
    ctxs := NMap.erase s.ctxs cn
    squalls := s.squalls.filter (fun q => q.kind == 2 || q.ctx != cn)
    swap := s.swap.filter (fun x => x.1.1 != cn)
    drr := s.drr.map (fun d => (d.1, { d.2 with credit := NMap.erase d.2.credit cn }))
    hosts := NMap.modify s.hosts c.slot (fun h => { h with qps := h.qps.filter (fun q => q.qpn != c.qpn) }) }

/-- A Drydown ends (R391 step 8). DEDUCED: log entry 87. -/
def execDrydownComplete (ctx : Nat) (s : State) : Res :=
  match s.ctx? ctx with
  | none => .next s
  | some c =>
    if !c.drydown || !(quiet s ctx) then .next s else
    let s := releaseCtx s ctx c
    let s := s.logRec 0x2D (coordDie c) 7 0 ctx ((c.epoch.map (·.attempt)).getD 0) (stepOf c) 0 0xFF 0
    let s := match s.host? c.slot with
      | some h => if h.linked then c.ctxDone.elim s (fun n => answer s c.slot n tyCtxDone [0]) else s
      | none => s
    .next (resumeAttach (finishDelete (startMoves (detachDone s c.slot))))

end Sys2Proof.Machine
end

