-- ==== Sys2Proof/Machine/Ports.lean ====
section
/-!
DEFINITION. Logical ports: links, discovery, flow control, RDMA of hosts, beacons, and the restart of single islands (R124, R284, R326 to R333, R376, R390, R423).
-/

namespace Sys2Proof.Machine

/-! ### Links (R326, R344) -/

/-- The SerDes reference of a logical port is present (R442). -/
def portClock (s : State) (port : Nat) : Bool := if hostPort port < 4 then s.power.sdsW else s.power.sdsE

/-- A logical port comes up; an idle port trains in the mode that Colyr has set. -/
def execLinkUp (port : Nat) (s : State) : Res :=
  let s' := takeMode s (hostPort port)
  if hostPortsRun s && hostPortAlive s (hostPort port) && portInMode s' port && portClock s port then .next (modPort s' port (fun p => { p with up := true })) else .next s

/-- Hosts attached through a logical port. -/
def hostsOn (s : State) (port : Nat) : List Nat := (s.hosts.filter (fun h => h.2.port == port)).map (·.1)

/-- A logical port loses link: its hosts are lost, and nothing waits there any more. -/
def dropLink (s : State) (port : Nat) : State :=
  modPort ((hostsOn s port).foldl hostLost (modPort s port (fun p => { p with up := false }))) port
    (fun p => { p with paused := List.replicate 8 false, tx := [] })

def execLinkDown (port : Nat) (s : State) : Res := .next (if (portRec s port).up then dropLink s port else s)

/-- Every logical port of a host port. -/
def dropHostPort (s : State) (hp : Nat) : State :=
  (rangeFrom (4 * hp) 4).foldl (fun s p => if (portRec s p).up then dropLink s p else s) s

/-! ### Discovery (R327) -/

/-- A frame of the port's own services leaves it. -/
def sendOwn (s : State) (port : Nat) (o : Out) : State := s.sendItem port { slot := none, ctx := none, roce := false, record := none, out := o }

/-- An LLDP frame: chassis ID, port ID, system name and TTL. -/
def execLldpTransmit (port : Nat) (s : State) : Res :=
  .next (if portUp s port then
    sendOwn s port (.lldp port (Config.lldpText 0 port) (Config.lldpText 1 port) (Config.lldpText 2 port) Config.lldpTtl) else s)

def execLldpReceive (port : Nat) (frame : Bytes) (f : FrameInfo) (s : State) : Res :=
  .next (portFrame s port f true (fun s => modPort s port (fun p => { p with lldpPeer := frame })))

/-- The static IPv4 address of a port; zero means none. In recovery a port has its link-local address alone (R403). -/
def ipv4Of (s : State) (port : Nat) : BitVec 32 :=
  if s.power.boot = .recovery then 0 else (NMap.getD s.colyr.ipv4 port 0).setWidth 32

def ipv6Of (s : State) (port : Nat) : BitVec 128 :=
  if s.power.boot = .recovery then 0
  else BitVec.ofNat 128 ((NMap.getD s.colyr.ipv6 (2 * port) 0).toNat * 2 ^ 64 + (NMap.getD s.colyr.ipv6 (2 * port + 1) 0).toNat)

/-- The link-local address formed from the port's MAC address. -/
def linkLocal (port : Nat) : BitVec 128 :=
  let m := (Config.macAddress port).toNat
  BitVec.ofNat 128 (0xFE80 * 2 ^ 112 + (m / 2 ^ 24 ^^^ 0x020000) * 2 ^ 40 + 0xFFFE * 2 ^ 24 + m % 2 ^ 24)

def execArpRequest (port : Nat) (target : BitVec 32) (f : FrameInfo) (s : State) : Res :=
  .next (portFrame s port f false (fun s =>
    if target != 0 && target == ipv4Of s port then sendOwn s port (.arpReply port target) else s))

def execNeighbourSolicitation (port : Nat) (target : BitVec 128) (f : FrameInfo) (s : State) : Res :=
  .next (portFrame s port f false (fun s =>
    if target == linkLocal port || (target != 0 && target == ipv6Of s port) then sendOwn s port (.neighbourAdvert port target) else s))

/-! ### Priority flow control (R327, R328) -/

/-- A priority is paused, or resumes with what waits in it (R331). -/
def setPause (s : State) (port prio : Nat) (on : Bool) : State :=
  drainPort (modPort s port (fun p => { p with paused := setNth p.paused prio on })) port

/-- A received PFC frame pauses or resumes the module's transmission on a priority. -/
def execPfcFrame (port prio quanta : Nat) (s : State) : Res :=
  .next (if portUp s port then setPause s port prio (decide (0 < quanta)) else s)

def execPfcPauseExpiry (port prio : Nat) (s : State) : Res := .next (setPause s port prio false)

/-- Occupancy falls below B / 4. -/
def execPfcXon (port occupancy : Nat) (s : State) : Res :=
  if !(portUp s port) || decide (portBuffer s port / 4 ≤ occupancy) then .next s
  else if (portRec s port).xoff then
    .next ((modPort s port (fun p => { p with occupancy := occupancy, xoff := false })).emit (.pfc port (netPrio s) 0))
  else .next (modPort s port (fun p => { p with occupancy := occupancy }))

/-- The pause is repeated while occupancy stays at or above B / 4. -/
def execPfcRepeat (port : Nat) (s : State) : Res :=
  .next (if portUp s port && (portRec s port).xoff && decide (portBuffer s port / 4 ≤ (portRec s port).occupancy) then
    s.emit (.pfc port (netPrio s) 0xFFFF) else s)

/-! ### RDMA by a host (R124, R284, R330, R390) -/

/-- A refused access under a context's keys is answered and logged; the manual gives the record no layout (R330). DESIGN CHOICE: log entry 73. -/
def nakAccess (s : State) (slot : Nat) (ctx : Option Nat) (h : HostRec) : State :=
  (s.toHost slot ctx none (.nakAccess slot)).log (24 + hostPort h.port / 2) 7 (hostPort h.port % 2) (Config.freeNat s.freeIx 6)

/-- Virtual pages an access touches. -/
def accessPages (addr n : Nat) : List Nat := rangeFrom (addr / pageSize) ((addr + n - 1) / pageSize + 1 - addr / pageSize)

/-- The access lies in mapped pages of the host-mapped region, writable ones for a write. -/
def accessOk (c : Ctx) (addr n : Nat) (write : Bool) : Bool :=
  decide (0 < n) && decide (addr + n ≤ winLo) && (accessPages addr n).all (fun vp => match NMap.get? c.pages vp with
    | some e => !(write && e.ro)
    | none => false)

/-- An UNMAP of the page is pending. -/
def unmapPending (c : Ctx) (vp : Nat) : Bool :=
  ((c.apend.map (·.items)).getD [] ++ c.taken.flatMap (·.items)).any (fun i =>
    iType i == 6 && xOp i == 2 && decide (xVpage i ≤ vp) && decide (vp < xVpage i + xCount i))

/-- A write to the page is unpredictable within it: step state of an open epoch, or an UNMAP pending. While a context is paused for lost
lines its epoch is aborted and the host rewrites them (R390). DESIGN CHOICE: log entry 71. -/
def unstablePage (c : Ctx) (vp : Nat) : Bool := (c.epoch.isSome && !c.pausePoison && (stepState c vp || NMap.has c.shadows vp)) || unmapPending c vp

/-- Every byte of a page becomes a free value. DESIGN CHOICE: log entry 71. -/
def freePage (s : State) (cn vp : Nat) : State :=
  (fwWrite s cn (vp * pageSize) ((rangeFrom 0 pageSize).map (Config.freeByte s.freeIx))).tick

/-- Lines a write covers whole. DEDUCED: log entry 84. -/
def wholeLine (addr n l : Nat) : Bool := decide (addr ≤ 64 * l) && decide (64 * l + 64 ≤ addr + n)

/-- The bytes of a host write as its page keeps them: the scale table has fields that a write does not set (R58). -/
def hostBytes (s : State) (c : Ctx) (addr : Nat) (data : Bytes) : Bytes :=
  ((rangeFrom addr data.length).zip data).map (fun p =>
    storedByte p.1 (((physCopies c p.1).head?.map (Memory.get s.mem)).getD 0) p.2)

/-- A host write to context memory: the bytes, what they make unpredictable (R213, R240, R312), the lines it makes good, and the end of a
pause for poisoned lines; any write to a line clears its first failure (R366). DEDUCED: log entry 84. -/
def hostWrite (s : State) (cn addr : Nat) (data : Bytes) : State :=
  match s.ctx? cn with
  | none => s
  | some c =>
    let s := clearBadLines (foulBytes (fwWrite s cn addr (hostBytes s c addr data)) cn addr data.length) cn addr data.length
    let s := ((accessPages addr data.length).filter (unstablePage c)).foldl (fun s vp => freePage s cn vp) s
    s.modCtx cn (fun c =>
      let left := c.poisoned.filter (fun l => !(wholeLine addr data.length l))
      { c with poisoned := left, pausePoison := c.pausePoison && !left.isEmpty })

/-- Where the open records of an epoch and their entries lie: address and bytes (R309, R312). -/
def openRecords (s : State) (cn : Nat) (c : Ctx) : List (Nat × Nat) :=
  ((c.epoch.map (fun e => e.openUnits)).getD []).flatMap (fun p =>
    match NMap.get? c.comp.tensors p.1 with
    | none => []
    | some va =>
      let x := CIndex.ofHeader p.1 va 0
      (entryVa x p.2.1, 64) ::
        (match readEntry s cn c x p.2.1 with
         | .ok e => (entrySlots e).getLast?.toList.filterMap (fun y => (lineVa c y.line).toOption.map (fun a => (a, lineSize * y.nlines)))
         | .error _ => []))

/-- Committed contents (R124); records of an open epoch and pages of a pending UNMAP read as free values (R282, R312). -/
def committedBytes (s : State) (cn : Nat) (c : Ctx) (addr n : Nat) : Bytes :=
  let recs := openRecords s cn c
  (rangeFrom addr n).map (fun a => match NMap.get? c.pages (a / pageSize) with
    | some e =>
      if unmapPending c (a / pageSize) || recs.any (fun r => decide (r.1 ≤ a) && decide (a < r.1 + r.2)) then Config.freeByte s.freeIx a
      else Memory.get s.mem (e.phys + a % pageSize)
    | none => 0)

/-- The access touches a poisoned line. -/
def touchesPoison (c : Ctx) (addr n : Nat) : Bool := c.poisoned.any (fun l => decide (64 * l < addr + n) && decide (addr < 64 * l + 64))

/-- A context whose keys a host may use. DEDUCED: log entry 72. -/
def keyedCtx (s : State) (slot cn : Nat) : Option Ctx :=
  match s.ctx? cn with
  | some c => if c.slot = slot ∧ c.drydown = false then some c else none
  | none => none

/-- A 32-bit half of a control-page register is written; `old` gives the other half. -/
def ctrlWord (s : State) (cn addr v : Nat) : State :=
  match s.ctx? cn with
  | none => s
  | some c =>
    let off := addr / 8 * 8
    let hi := addr % 8 = 4
    let whole : Word64 := BitVec.ofNat 64 (if hi then setField (ctrlRead c off) 63 32 v else setField (ctrlRead c off) 31 0 v)
    if off = 0 then (if !hi ∧ bitAt v 5 then s.setCtx cn { c with dberr := false } else s)
    else if off = 0x010 then releaseRecs (s.setCtx cn (writeCqCfg c whole)) cn
    else if off = 0x018 then (if hi then releaseRecs (s.setCtx cn { c with cqHead := BitVec.ofNat 32 v }) cn else s)
    else if 0x040 ≤ off ∧ off < 0x080 then
      let q := (off - 0x40) / 16
      if off % 16 = 0 then s.setCtx cn { c with sqs := setNth c.sqs q (writeSqCfg (getSq c q) whole) }
      else if hi then s else s.setCtx cn (ringDoorbell c q (BitVec.ofNat 32 v))
    else s

/-- A write of whole aligned 8-byte registers; a single aligned 4-byte half writes that half. -/
def ctrlReg (s : State) (cn off v : Nat) : State :=
  match s.ctx? cn with
  | none => s
  | some c =>
    if off = 0x010 then releaseRecs (s.setCtx cn (writeCqCfg c (BitVec.ofNat 64 v))) cn
    else if 0x040 ≤ off ∧ off < 0x080 ∧ off % 16 = 0 then
      s.setCtx cn { c with sqs := setNth c.sqs ((off - 0x40) / 16) (writeSqCfg (getSq c ((off - 0x40) / 16)) (BitVec.ofNat 64 v)) }
    else ctrlWord (ctrlWord s cn off (v % 2 ^ 32)) cn (off + 4) (v / 2 ^ 32 % 2 ^ 32)

/-- A write to the control page, register by register. DEDUCED: log entry 72. -/
def ctrlBytes : Nat → State → Nat → Nat → Bytes → State
  | 0, s, _, _, _ => s
  | n + 1, s, cn, off, d =>
    if d.isEmpty then s
    else if off % 8 = 0 ∧ 8 ≤ d.length then ctrlBytes n (ctrlReg s cn off (ofBytes (d.take 8))) cn (off + 8) (d.drop 8)
    else ctrlBytes n (ctrlWord s cn off (ofBytes (d.take 4))) cn (off + 4) (d.drop 4)

/-- An access to the control page that the model takes: whole aligned 4-byte words inside it. DEDUCED: log entry 72. -/
def ctrlOk (addr n : Nat) : Bool := decide (0 < n) && decide (addr % 4 = 0) && decide (n % 4 = 0) && decide (addr + n ≤ 4096)

/-- Queue pairs exist once REG_ACK is sent. -/
def HostRec.hasQp (h : HostRec) : Bool :=
  match h.phase with
  | .registered | .detaching _ | .detached => true
  | _ => false

/-- The queue pair of an access: its context's, or the control pair. -/
def keyCtx (k : RKey) : Option Nat :=
  match k with
  | .ctxMem cn | .ctrlPage cn => some cn
  | .hostWindow => none

/-- A message of 1 byte to 2 GiB (R330). -/
def messageFits (n : Nat) : Bool := decide (1 ≤ n) && decide (n ≤ 2 ^ 31)

/-- RDMA READs of a queue pair whose responses wait to be sent. -/
def readsWaiting (s : State) (h : HostRec) (slot : Nat) (ctx : Option Nat) : Nat :=
  ((portRec s h.port).tx.filter (fun x => x.slot == some slot && x.ctx == ctx && (match x.out with
    | .readResp _ _ => true
    | _ => false))).length

/-- What a host RDMA WRITE does. DESIGN CHOICE: log entry 73. -/
def rdmaWrite (slot : Nat) (key : RKey) (addr : Nat) (data : Bytes) (s : State) (h : HostRec) : State :=
  let reply (s : State) (o : Out) : State := s.toHost slot (keyCtx key) none o
  if !h.hasQp then s
  else if !(messageFits data.length) then reply s (.nakInvalid slot) else
  match key with
  | .ctxMem cn =>
    (match keyedCtx s slot cn with
     | some c => if accessOk c addr data.length true then reply (hostWrite s cn addr data) (.writeAck slot) else nakAccess s slot (some cn) h
     | none => nakAccess s slot (some cn) h)
  | .ctrlPage cn =>
    (match keyedCtx s slot cn with
     | some _ => if ctrlOk addr data.length then reply (ctrlBytes data.length s cn addr data) (.writeAck slot) else nakAccess s slot (some cn) h
     | none => nakAccess s slot (some cn) h)
  | .hostWindow => reply s (.nakAccess slot)

/-- A host RDMA WRITE. -/
def execRdmaWrite (slot : Nat) (key : RKey) (addr : Nat) (data : Bytes) (f : FrameInfo) (s : State) : Res :=
  .next (hostFrame s slot f false (rdmaWrite slot key addr data))

/-! ### The host window (R423) -/

/-- Input power at the last sample. DESIGN CHOICE: log entry 49. -/
def lastMw (s : State) : Nat := (s.power.lastSample.map (·.inputMw)).getD 0
/-- Coolant inlet temperature at the last sample. DESIGN CHOICE: log entry 49. -/
def lastInlet (s : State) : Nat := (s.power.lastSample.map (·.inletMc)).getD 0

/-- A 64-bit word of the host window. -/
def windowWord (s : State) (slot : Nat) (h : HostRec) (off : Nat) : Nat :=
  if off = 0x000 then field idDigest.toNat 63 0
  else if off = 0x008 then orderReg s
  else if off = 0x010 then s.fw.runVer.toNat
  else if off = 0x018 then fwSvn s + s.fw.fuses * 2 ^ 32
  else if off = 0x020 then slot + b2n h.enc * 2 ^ 4 + (ctxsOf s slot).length * 2 ^ 5
  else if 0x040 ≤ off ∧ off < 0x0C0 then field (tenantBits s h.tenant).toNat (8 * (off - 0x40) + 63) (8 * (off - 0x40))
  else if off = 0x100 then (ratio32 (lastMw s) 1000).toNat + (ratio32 (effCapMw s) 1000).toNat * 2 ^ 32
  else if off = 0x108 then (ratio32 (lastInlet s) 1000).toNat + throttle s * 2 ^ 32
  else if off = 0x110 then exclReg s
  else 0

def windowOk (addr n : Nat) : Bool := decide (0 < n) && decide (addr % 8 = 0) && decide (n % 8 = 0) && decide (addr + n ≤ 4096)

def windowBytes (s : State) (slot : Nat) (h : HostRec) (addr n : Nat) : Bytes :=
  (rangeFrom 0 (n / 8)).flatMap (fun i => toBytes 8 (windowWord s slot h (addr + 8 * i)))

/-- Bytes of the control page. -/
def ctrlPageBytes (c : Ctx) (addr n : Nat) : Bytes :=
  (rangeFrom addr n).map (fun a => BitVec.ofNat 8 (ctrlRead c (a / 8 * 8) / 2 ^ (8 * (a % 8))))

/-- What a host RDMA READ does; a queue pair has at most 64 outstanding (R330). DESIGN CHOICE: log entry 73. -/
def rdmaRead (slot : Nat) (key : RKey) (addr len : Nat) (s : State) (h : HostRec) : State :=
  let reply (s : State) (o : Out) : State := s.toHost slot (keyCtx key) none o
  if !h.hasQp then s
  else if !(messageFits len) || decide (64 ≤ readsWaiting s h slot (keyCtx key)) then reply s (.nakInvalid slot) else
  match key with
  | .ctxMem cn =>
    (match keyedCtx s slot cn with
     | some c =>
       if !(accessOk c addr len false) then nakAccess s slot (some cn) h
       else if touchesPoison c addr len then reply s (.nakAccess slot)
       else (reply s (.readResp slot (committedBytes s cn c addr len))).tick
     | none => nakAccess s slot (some cn) h)
  | .ctrlPage cn =>
    (match keyedCtx s slot cn with
     | some c => if ctrlOk addr len then reply s (.readResp slot (ctrlPageBytes c addr len)) else nakAccess s slot (some cn) h
     | none => nakAccess s slot (some cn) h)
  | .hostWindow => if windowOk addr len then reply s (.readResp slot (windowBytes s slot h addr len)) else reply s (.nakAccess slot)

/-- A host RDMA READ. -/
def execRdmaRead (slot : Nat) (key : RKey) (addr len : Nat) (f : FrameInfo) (s : State) : Res :=
  .next (hostFrame s slot f false (rdmaRead slot key addr len))

/-- A SEND is answered with an invalid-request NAK (R330). -/
def execSend (slot : Nat) (f : FrameInfo) (s : State) : Res :=
  .next (hostFrame s slot f false (fun s h => if h.hasQp then s.toHost slot none none (.nakInvalid slot) else s))

/-! ### Congestion and retries (R327, R330, R344) -/

def modQp (s : State) (slot qp : Nat) (f : QPair → QPair) : State :=
  { s with hosts := NMap.modify s.hosts slot (fun h => { h with qps := h.qps.map (fun q => if q.qpn = qp then f q else q) }) }

/-- A CNP halves the send rate, at most once per 50 µs. -/
def execCnpReceive (slot qp : Nat) (spaced : Bool) (s : State) : Res := .next (if spaced then modQp s slot qp (fun q => { q with rate := q.rate / 2 }) else s)

/-- 55 µs without a CNP raise it by 1/32 of the line rate. -/
def execRateIncrease (slot qp : Nat) (s : State) : Res := .next (modQp s slot qp (fun q => { q with rate := min (2 ^ 32) (q.rate + 2 ^ 27) }))

/-- The queue pair of a host. -/
def qpOf (s : State) (slot qp : Nat) : Option QPair := (s.host? slot).bind (fun h => h.qps.find? (fun q => q.qpn == qp))

/-- The context a queue pair of a host is for. -/
def qpCtx (s : State) (slot qp : Nat) : Option Nat := (s.ctxs.find? (fun p => p.2.slot == slot && p.2.qpn == qp)).map (·.1)

/-- An acknowledgement timeout: a retransmission, or after 7 the loss of the host. Whether acknowledgements have come since the last
timeout is open. DESIGN CHOICE: log entry 8. -/
def execAckTimeout (slot qp : Nat) (s : State) : Res :=
  match qpOf s slot qp with
  | none => .next s
  | some q =>
    let used := if Config.freeBool s.freeIx 8 then 0 else q.retries
    if 7 ≤ used then .next (hostLost s.tick slot)
    else .next ((modQp s.tick slot qp (fun q => { q with retries := used + 1 })).toHost slot (qpCtx s slot qp) none (.retransmit slot qp))

/-! ### Beacons (R332, R333) -/

def freeSlots (s : State) : Nat := 16 - (takenSlots s).length

def beaconState (s : State) : Nat :=
  match s.power.boot with
  | .recovery => 2
  | .ready => if freeSlots s = 0 then 3 else 0
  | _ => 1

/-- The payload of a beacon (R333). DEDUCED: log entry 74. -/
def beaconPayload (s : State) (port : Nat) (bseq : Word64) : Bytes :=
  [0x5A, 0x42, 0x52, 0x5A, 1, 1] ++ toBytes 2 128 ++ toBytes 8 bseq.toNat ++ toBytes 16 Config.serial.toNat ++ toBytes 1 (orderCode s.order) ++
    toBytes 1 port ++ toBytes 1 (beaconState s) ++ toBytes 1 (freeSlots s) ++ [1, 1, 1, 0x10] ++ toBytes 8 0 ++
    toBytes 64 idDigest.toNat ++ toBytes 2 47231 ++ toBytes 14 0

/-- A beacon leaves a logical port with link up. DEDUCED: log entry 74. -/
def execBeacon (port : Nat) (s : State) : Res :=
  if !(portUp s port) then .next s else
  let n := (portRec s port).bseq + 1
  let body := beaconPayload s port n
  let s := sendOwn (modPort s port (fun p => { p with bseq := n })) port (.beacon port false body)
  .next (if ipv4Of s port ≠ 0 then sendOwn s port (.beacon port true body) else s)

/-! ### Restart of one island (R376, R387) -/

/-- The island's code of R420. -/
def islandCode : IslandKind → Nat
  | .nearCtl => 3 | .farCtl => 4 | .router => 5 | .ioCtl => 6 | .hostPort => 7 | .video => 8 | .encEngine => 9

/-- The island exists and is not excluded (R19, R21, R376). -/
def islandExists (s : State) (k : IslandKind) (die idx : Nat) : Bool :=
  islandFitted s (islandCode k) die idx && !(s.exclIslands.contains (islKey (islandCode k) die idx)) &&
    !(k == .video && unitExcluded s { die := die, kind := .video, idx := idx })

/-- The context's encrypted traffic passes an I/O die's engine: it has far pages in its quadrant, or page sets on their way (R19, R294). -/
def encTraffic (s : State) (io cn : Nat) : Bool :=
  match s.ctx? cn with
  | none => false
  | some c => c.enc && (c.pages.any (fun e => isFar e.2.phys && quadrant (pageDie e.2.phys) == io) || kvBusy s cn c)

/-- Failed restarts within the window, this one counted; whether the one before has left the window is open. DESIGN CHOICE: log entry 66. -/
def restartFailed (s : State) (key : Nat) : State :=
  let n := if Config.freeBool s.freeIx 9 then 0 else NMap.getD s.restarts key 0
  { s with restarts := NMap.set s.restarts key (n + 1), freeIx := s.freeIx + 1 }

/-- What becomes of an island that is persistent; an encryption engine, a host port or an I/O-die control group is out of service until module
reset, for which the manual gives no notice code. DEDUCED: log entry 99. -/
def islandPersistent (s : State) (k : IslandKind) (die idx : Nat) : State :=
  match k with
  | .nearCtl => evacuate s false die
  | .farCtl => evacuate s true die
  | .router => excludeDie s die
  | .video => excludeUnit s { die := die, kind := .video, idx := idx }
  | .encEngine | .hostPort | .ioCtl => logExclusion { s with exclIslands := islKey (islandCode k) die idx :: s.exclIslands } die 7 idx 0

/-- What the island held is lost, and the epochs it belonged to are replayed. DEDUCED: log entry 99. -/
def islandLost (s : State) (k : IslandKind) (die idx : Nat) : State :=
  match k with
  | .nearCtl => replayLost s.tick die 2 (fun cn => lostWith s [] 300 cn)
  | .farCtl => replayLost s.tick die 2 (fun cn => lostWith s [] 300 cn)
  | .router =>
    let lost := s.fabric.filter (fun f => (routeDies s f.src f.dst).contains die)
    let s' : State := { s with fabric := s.fabric.filter (fun f => !((routeDies s f.src f.dst).contains die)) }
    replayLost s'.tick die 2 (fun cn => lostWith s lost 300 cn)
  | .encEngine => replayLost s.tick die 2 (fun cn => lostWith s [] 300 cn && encTraffic s die cn)
  | .video =>
    let u : UnitId := { die := die, kind := .video, idx := idx }
    (match s.run? u with
     | some r => replayLost (s.freeUnit u) die 2 (fun cn => cn == r.ctx)
     | none => s)
  | .hostPort => dropHostPort s ((die - 24) * 2 + idx)
  | .ioCtl => s

/-- An island outside the compute units restarts alone; a second failure makes it persistent. -/
def execIslandRestart (k : IslandKind) (die idx : Nat) (ok : Bool) (s : State) : Res :=
  if !(islandExists s k die idx) then .next s else
  let s := s.logRec 0x26 die (if k = .video then 3 else 7) (idx % 16) 0xFF 0 0 2 0xFF 0
  let s := islandLost s k die idx
  let key := islKey (islandCode k) die idx
  if ok then .next { s with islandsDown := s.islandsDown.filter (· != key) } else
  let s := restartFailed s key
  .next (if 2 ≤ NMap.getD s.restarts key 0 then islandPersistent s k die idx else s)

end Sys2Proof.Machine
end

