-- ==== Sys2Proof/Machine/Video.lean ====
section
/-!
DEFINITION. Frame tasks on the video engines: OPEN, ENCODE, DECODE, CLOSE, the colour conversion and the result record (R349, R350 to R355, R357, R361 to R363).
-/

namespace Sys2Proof.Machine

/-! ### Colour conversion (R354): every operation rounds to FP32 with RNE -/

def add32 (a b : Bits32) : Bits32 := (fadd .rne a b).1
def sub32 (a b : Bits32) : Bits32 := (fsub .rne a b).1
def mul32 (a b : Bits32) : Bits32 := (fmul .rne a b).1

/-- FP32 of a natural number. -/
def nat32 (n : Nat) : Bits32 := ratio32 n 1

/-- kr and kb of a matrix. -/
def krOf (mtx : Nat) : Bits32 := if mtx = 0 then ratio32 2126 10000 else if mtx = 1 then ratio32 2627 10000 else ratio32 299 1000
def kbOf (mtx : Nat) : Bits32 := if mtx = 0 then ratio32 722 10000 else if mtx = 1 then ratio32 593 10000 else ratio32 114 1000
def kgOf (mtx : Nat) : Bits32 := sub32 (sub32 one32 (krOf mtx)) (kbOf mtx)

/-- 1 / (2 (1 - k)) rounded once, for an FP32 k below 1. -/
def halfInverse (k : Bits32) : Bits32 :=
  match fp k with
  | .fin _ m e => ratio32 (2 ^ e.natAbs) (2 * (2 ^ e.natAbs - m))
  | _ => nan32

/-- kcb and kcr of a matrix. DEDUCED: log entry 78. -/
def kcbOf (mtx : Nat) : Bits32 := halfInverse (kbOf mtx)
/-- See kcbOf. DEDUCED: log entry 78. -/
def kcrOf (mtx : Nat) : Bits32 := halfInverse (krOf mtx)

/-- NaN becomes 0, the rest is clamped to [0, 1]. -/
def clamp01 (x : Bits32) : Bits32 :=
  if isNan32 x ∨ (fp x).lt (.fin false 0 0) then 0 else if (FV.fin false 1 0).lt (fp x) then one32 else x

/-- One channel as the conversion takes it. DEDUCED: log entry 95. -/
def channelIn (f : Fmt) (symmetric : Bool) (bits : Nat) : Bits32 :=
  if f = .uint8 then clamp01 (mul32 (nat32 bits) (ratio32 1 255))
  else
    let c := widen f bits
    clamp01 (if symmetric then mul32 (add32 c one32) (ratio32 1 2) else c)

/-- y, cb and cr of one pixel. -/
def toYcc (mtx : Nat) (ycc : Bool) (c0 c1 c2 : Bits32) : Bits32 × Bits32 × Bits32 :=
  if ycc then (c0, sub32 c1 (ratio32 1 2), sub32 c2 (ratio32 1 2))
  else
    let y := add32 (add32 (mul32 (krOf mtx) c0) (mul32 (kgOf mtx) c1)) (mul32 (kbOf mtx) c2)
    (y, mul32 (sub32 c2 y) (kcbOf mtx), mul32 (sub32 c0 y) (kcrOf mtx))

/-- Chroma of a 2 × 2 block. -/
def chromaMean (a b c d : Bits32) : Bits32 := mul32 (add32 (add32 a b) (add32 c d)) (ratio32 1 4)

/-- round() and the clamp of a code. -/
def codeOf (n : Nat) (x : Bits32) : Nat := min (2 ^ n - 1) (nearestInt (fp x)).toNat

def lumaCode (full : Bool) (n : Nat) (y : Bits32) : Nat :=
  codeOf n (if full then mul32 y (nat32 (2 ^ n - 1)) else mul32 (add32 (nat32 16) (mul32 (nat32 219) y)) (nat32 (2 ^ (n - 8))))

def chromaCode (full : Bool) (n : Nat) (c : Bits32) : Nat :=
  codeOf n (if full then add32 (nat32 (2 ^ (n - 1))) (mul32 c (nat32 (2 ^ n - 1)))
    else mul32 (add32 (nat32 128) (mul32 (nat32 224) c)) (nat32 (2 ^ (n - 8))))

/-- One pixel of the picture tensor. -/
def readPixel (s : State) (cn : Nat) (c : Ctx) (t : TD) (st : Stream) (f x y : Nat) : X (Bits32 × Bits32 × Bits32) :=
  match readElem s cn c t [0, x, y], readElem s cn c t [1, x, y], readElem s cn c t [2, x, y] with
  | .ok a, .ok b, .ok d =>
    let k := channelIn t.fmt (feInmap f == 1)
    .ok (toYcc st.mtx (feInsp f == 1) (k a) (k b) (k d))
  | .error e, _, _ => .error e
  | _, .error e, _ => .error e
  | _, _, .error e => .error e

/-- Codes of a picture: Y, then Cb, then Cr, each in raster order. -/
def pictureCodes (s : State) (cn : Nat) (c : Ctx) (t : TD) (st : Stream) (f : Nat) : X (List Nat) :=
  let n := if st.depth = 0 then 8 else 10
  let full := st.range == 1
  let pix (x y : Nat) := readPixel s cn c t st f x y
  match mapE (fun y => mapE (fun x => pix x y) (rangeFrom 0 st.width)) (rangeFrom 0 st.height) with
  | .error e => .error e
  | .ok rows =>
    let get (x y : Nat) : Bits32 × Bits32 × Bits32 := nth (0, 0, 0) (nth [] rows y) x
    let blocks := (rangeFrom 0 (st.height / 2)).flatMap (fun y => (rangeFrom 0 (st.width / 2)).map (fun x => (2 * x, 2 * y)))
    let mean (k : Bits32 × Bits32 × Bits32 → Bits32) : List Nat :=
      blocks.map (fun p => chromaCode full n (chromaMean (k (get p.1 p.2)) (k (get (p.1 + 1) p.2)) (k (get p.1 (p.2 + 1))) (k (get (p.1 + 1) (p.2 + 1)))))
    .ok (rows.flatMap (fun r => r.map (fun p => lumaCode full n p.1)) ++ mean (fun p => p.2.1) ++ mean (fun p => p.2.2))

/-! A decode applies the inverse in the same style, the steps of the encode taken backwards. DEDUCED: log entry 78. -/

/-- y of a luma code. DEDUCED: log entry 78. -/
def lumaValue (full : Bool) (n code : Nat) : Bits32 :=
  if full then mul32 (nat32 code) (ratio32 1 (2 ^ n - 1))
  else mul32 (sub32 (mul32 (nat32 code) (ratio32 1 (2 ^ (n - 8)))) (nat32 16)) (ratio32 1 219)

/-- cb or cr of a chroma code. DEDUCED: log entry 78. -/
def chromaValue (full : Bool) (n code : Nat) : Bits32 :=
  if full then mul32 (sub32 (nat32 code) (nat32 (2 ^ (n - 1)))) (ratio32 1 (2 ^ n - 1))
  else mul32 (sub32 (mul32 (nat32 code) (ratio32 1 (2 ^ (n - 8)))) (nat32 128)) (ratio32 1 224)

/-- 1 / k rounded once, for an FP32 k below 1. -/
def inverse32 (k : Bits32) : Bits32 :=
  match fp k with
  | .fin _ m e => ratio32 (2 ^ e.natAbs) m
  | _ => nan32

/-- 2 (1 - k). -/
def doubleRest (k : Bits32) : Bits32 := mul32 (nat32 2) (sub32 one32 k)

/-- The channels of a pixel: the inverse matrix, or Y′CbCr with the chroma offset put back. DEDUCED: log entry 78. -/
def fromYcc (mtx : Nat) (ycc : Bool) (y cb cr : Bits32) : List Bits32 :=
  if ycc then [y, add32 cb (ratio32 1 2), add32 cr (ratio32 1 2)]
  else
    let c0 := add32 y (mul32 cr (doubleRest (krOf mtx)))
    let c2 := add32 y (mul32 cb (doubleRest (kbOf mtx)))
    [c0, mul32 (sub32 (sub32 y (mul32 (krOf mtx) c0)) (mul32 (kbOf mtx) c2)) (inverse32 (kgOf mtx)), c2]

/-- A decoded channel as the tensor holds it. -/
def channelOut (f : Fmt) (symmetric : Bool) (x : Bits32) : Nat :=
  let c := clamp01 x
  if f = .uint8 then min 255 (nearestInt (fp (mul32 c (nat32 255)))).toNat
  else (narrow f .rne (if symmetric then sub32 (mul32 c (nat32 2)) one32 else c)).1

/-- The element writes of a decoded picture; a chroma sample covers its 2 × 2 block. -/
def pictureItems (t : TD) (st : Stream) (f : Nat) (ten : Bool) (Y Cb Cr : List Nat) : List WItem :=
  (tuples t.exts).map (fun ix =>
    let ch := nth 0 ix 0
    let x := nth 0 ix 1
    let y := nth 0 ix 2
    let cpos := y / 2 * (st.width / 2) + x / 2
    let full := st.range == 1
    let n := if ten then 10 else 8
    let v := fromYcc st.mtx (fdOutsp f == 1) (lumaValue full n (nth 0 Y (y * st.width + x))) (chromaValue full n (nth 0 Cb cpos))
      (chromaValue full n (nth 0 Cr cpos))
    .ok (elemWrite t ix (channelOut t.fmt (fdOutmap f == 1) (nth 0 v ch))))

/-! ### The frame task (R350, R352) -/

/-- Fields of a result record. DESIGN CHOICE: log entry 77. -/
structure FrameResult where
  rstat : Nat
  ptype : Nat
  avgq : Nat
  bytes : Nat
  frameNo : Nat
  order : Nat
deriving DecidableEq, Repr

def FrameResult.bits (r : FrameResult) : Nat :=
  r.rstat + r.ptype * 2 ^ 8 + r.avgq % 2 ^ 16 * 2 ^ 16 + r.bytes % 2 ^ 32 * 2 ^ 32 + r.frameNo % 2 ^ 32 * 2 ^ 64 + r.order % 2 ^ 32 * 2 ^ 96

/-- A result without a picture; the manual gives AVGQ, FRAMENO and ORDER no value there, and a replay gives the same ones (R27).
DESIGN CHOICE: log entry 77. -/
def noPicture (st : Stream) (rstat bytes : Nat) : FrameResult :=
  { rstat := rstat, ptype := 2, avgq := Config.openResult st.hist 20, bytes := bytes, frameNo := Config.openResult st.hist 21,
    order := Config.openResult st.hist 22 }

/-- The end of a frame task: its result record, then the unit stops. -/
def frameDone (s : State) (u : UnitId) (r : Run) (f : Nat) (res : FrameResult) : State :=
  match taskWrite s r.ctx (frRes f) (toBytes 32 res.bits) with
  | .error e => unitFault s u r e (pcIndex r)
  | .ok s => s.tick.setRun u { r with phase := .halting }

/-- The frame task of a unit when it asks for an operation. -/
def frameEvent (u : UnitId) (op : Nat) (s : State) (k : State → Run → Ctx → Nat → State) : Res :=
  match s.run? u with
  | none => .next s
  | some r =>
    if r.phase ≠ .frame ∨ islandDown s 8 u.die u.idx then .next s else
    match s.ctx? r.ctx with
    | none => .next s
    | some c => if frOp (frameRecord s r c) = op then .next (k s r c (frameRecord s r c)) else .next s

/-- The shadows of a state region just written need no copy: nothing of the old page is left. -/
def wholeRegion (cn : Nat) (st : Stream) (s : State) : State :=
  let inside (vp : Nat) : Bool := decide (st.sbase / pageSize ≤ vp) && decide (vp < st.sbase / pageSize + st.spages)
  s.tick.modCtx cn (fun c => { c with shadows := c.shadows.map (fun p => (p.1, if inside p.1 then { p.2 with copying := false } else p.2)) })

/-- The engine writes the state region: shadowed whole, its contents the engine's own (R353). DESIGN CHOICE: log entry 77. -/
def writeRegion (s : State) (cn : Nat) (st : Stream) : X State :=
  Except.map (wholeRegion cn st) (countedWrite s cn st.sbase ((rangeFrom 0 (pageSize * st.spages)).map (Config.regionByte st.hist)))

def putStream (s : State) (cn k : Nat) (st : Stream) : State := s.modCtx cn (fun c => { c with streams := NMap.set c.streams k st })

/-! ### OPEN and CLOSE (R353, R363) -/

/-- What the codec knows of a stream at its OPEN: the fields its operation uses (R350, R363). -/
def openHist (f : Nat) : Word64 :=
  Config.codecNext 0 ([foCodec f, foDir f, if foDir f = 0 then foDepth f else 0, foMatrix f, foRange f, foTrc f, foWidth f, foHeight f, foFpsn f,
    foFpsd f, foSbase f, foSpages f] ++ (if foDir f = 0 then [foRc f] else []))

/-- The stream an OPEN record describes. -/
def newStream (engine f : Nat) : Stream :=
  { engine := engine, codec := foCodec f, dir := foDir f, depth := foDepth f, mtx := foMatrix f, range := foRange f, trc := foTrc f,
    width := foWidth f, height := foHeight f, fpsn := foFpsn f, fpsd := foFpsd f, sbase := foSbase f, spages := foSpages f,
    rc := BitVec.ofNat 128 (foRc f), frameNo := 0, sinceKey := 0, hist := openHist f, lost := false, keyDue := false, bound := [] }

/-- The stream is open, with the requests that an aborted attempt had bound to it (R357). -/
def openStream (s : State) (cn k : Nat) (st : Stream) : State :=
  s.modCtx cn (fun c =>
    { c with streams := NMap.set c.streams k { st with bound := ((NMap.getD c.boundNext k []).head?).getD [] },
             boundNext := NMap.modify c.boundNext k List.tail })

/-- The stream is closed; what was bound to it is unbound, and is kept for a replay of this epoch alone (R357, R363). -/
def closeStream (s : State) (cn k : Nat) : State :=
  s.modCtx cn (fun c =>
    match NMap.get? c.streams k with
    | none => c
    | some st => { c with streams := NMap.erase c.streams k, boundPast := NMap.set c.boundPast k (NMap.getD c.boundPast k [] ++ [st.bound]) })

/-- OPEN. -/
def execVideoOpen (u : UnitId) (s : State) : Res :=
  frameEvent u 1 s (fun s r _ f =>
    match openEngine s with
    | none => frameDone s u r f (noPicture (newStream 0 f) 3 0)
    | some e =>
      let st := newStream e f
      match writeRegion s r.ctx st with
      | .error x => unitFault s u r x (pcIndex r)
      | .ok s => frameDone (openStream s r.ctx (frStream f) st) u r f (noPicture st 0 0))

/-- CLOSE: the engine slot is free; requests still bound are dropped without completion. -/
def execVideoClose (u : UnitId) (s : State) : Res :=
  frameEvent u 4 s (fun s r c f =>
    match NMap.get? c.streams (frStream f) with
    | none => unitFault s u r .illegalDescriptor (pcIndex r)
    | some st => frameDone (closeStream s r.ctx (frStream f)) u r f (noPicture st 0 0))

/-! ### ENCODE (R354, R355, R357, R361) -/

/-- The picture is a key picture (R355). -/
def keyPicture (st : Stream) (f : Nat) : Bool :=
  let ki := (RcValue.parse st.rc.toNat).keyint
  st.frameNo == 0 || frFkey f || st.keyDue || (ki != 0 && decide (ki ≤ st.sinceKey))

/-- The stream after a picture. -/
def afterPicture (st : Stream) (key : Bool) (codes : List Nat) : Stream :=
  { st with frameNo := st.frameNo + 1, sinceKey := if key then 1 else st.sinceKey + 1, keyDue := false,
            hist := Config.codecNext st.hist (codes ++ [b2n key, st.rc.toNat]) }

/-- A window range of a host. -/
def hostRange (c : Ctx) (w off n : Nat) : X Window :=
  match hostWindow c w with
  | some x => if off + n ≤ x.len then .ok x else .error .partition
  | none => .error .partition

/-- The headers of a key picture: the lowest level at MAXBR, the colour description, the range, and the chroma position 0 of AV1 or 1 of
HEVC (R349). -/
def pictureHeaders (st : Stream) : Bytes :=
  let level := Config.videoLevel [st.codec, st.depth, st.width, st.height, st.fpsn, st.fpsd, (RcValue.parse st.rc.toNat).maxbr]
  Config.codecHeaders [st.codec, st.depth, level, st.mtx, st.trc, st.range, st.codec, st.width, st.height]

/-- The bitstream of one picture, never more than the capacity R351 asks for (R349, R361, R363). -/
def pictureBits (st : Stream) (key : Bool) (codes : List Nat) : Bytes :=
  ((if key then pictureHeaders st else []) ++ Config.encodeBits st.hist codes st.rc key).take (capNeed st)

/-- AVGQ of a coded picture: QP in constant-quantiser mode, else what rate control used, from QMIN to QMAX (R352, R356). -/
def pictureQuant (st : Stream) (key : Bool) (codes : List Nat) : Nat :=
  let rc := RcValue.parse st.rc.toNat
  if rc.mode = 2 then rc.qp else max rc.qmin (min rc.qmax (Config.meanQuant st.hist codes st.rc key))

/-- The result record of a coded picture; ORDER belongs to DECODE. DESIGN CHOICE: log entry 77. -/
def pictureResult (st : Stream) (key : Bool) (codes : List Nat) : FrameResult :=
  { rstat := 0, ptype := if key then 0 else 1, avgq := pictureQuant st key codes, bytes := (pictureBits st key codes).length,
    frameNo := st.frameNo, order := Config.openResult st.hist 22 }

/-- The bitstream leaves, and the stream moves on. -/
def encodePicture (s : State) (u : UnitId) (r : Run) (c : Ctx) (f : Nat) (st : Stream) (codes : List Nat) : State :=
  let key := keyPicture st f
  let bits := pictureBits st key codes
  match hostRange c (feHwin f) (feOff f) bits.length, writeRegion s r.ctx (afterPicture st key codes) with
  | .error x, _ => unitFault s u r x (pcIndex r)
  | _, .error x => unitFault s u r x (pcIndex r)
  | .ok w, .ok s =>
    let s := (putStream s r.ctx (frStream f) (afterPicture st key codes)).toHost c.slot (some r.ctx) none
      (.hostWrite c.slot w.rkey (w.va + feOff f) bits)
    frameDone s u r f (pictureResult st key codes)

/-- ENCODE. It waits while its port may not send (R327, R361). -/
def execEncode (u : UnitId) (s : State) : Res :=
  frameEvent u 2 s (fun s r c f =>
    if hostPaused s c.slot then s else
    match NMap.get? c.streams (frStream f), tslot r.T 0 with
    | some st, .ok t =>
      (match pictureCodes s r.ctx c t st f with
       | .error x => unitFault s u r x (pcIndex r)
       | .ok codes => encodePicture s u r c f st codes)
    | none, _ => unitFault s u r .illegalDescriptor (pcIndex r)
    | _, .error x => unitFault s u r x (pcIndex r))

/-! ### DECODE (R362) -/

/-- The bytes of the unit. -/
def unitBytes (s : State) (cn : Nat) (c : Ctx) (f : Nat) (hostData : Bytes) : X Bytes :=
  if fdBsrc f = 1 then
    match hostRange c (feHwin f) (feOff f) (feCap f) with
    | .ok _ => .ok (fixLen (feCap f) hostData)
    | .error e => .error e
  else readBytes s cn c (feOff f) (feCap f)

def natsOf (b : Bytes) : List Nat := b.map (·.toNat)

/-- The stream after a unit. `lost`: a reference is missing from here on; a key picture ends that. DEDUCED: log entry 78. -/
def afterUnit (st : Stream) (b : Bytes) (lost : Bool) : Stream :=
  { st with frameNo := st.frameNo + 1, lost := lost, hist := Config.codecNext st.hist (natsOf b) }

/-- What one unit gives: the stream after it, its result, and the element writes of the picture. DESIGN CHOICE: log entry 77. -/
def decodeStep (t : TD) (st : Stream) (f : Nat) (b : Bytes) : Stream × FrameResult × List WItem :=
  let bad := afterUnit st b true
  match Config.decodeUnit st.hist b with
  | none => (bad, { noPicture bad 1 (Config.openResult bad.hist 23) with frameNo := st.frameNo }, [])
  | some (shown, inter, ten, order, Y, Cb, Cr) =>
    if inter && st.lost && Config.refersLost st.hist b then (bad, { noPicture bad 2 b.length with frameNo := st.frameNo }, [])
    else
      let st' := afterUnit st b (st.lost && inter)
      if !shown then (st', { noPicture st' 0 b.length with frameNo := st.frameNo }, [])
      else
        (st', { rstat := 0, ptype := b2n inter, avgq := Config.unitQuant st.hist b, bytes := b.length, frameNo := st.frameNo, order := order },
          pictureItems t st f ten Y Cb Cr)

/-- DECODE. DESIGN CHOICE: log entry 12. -/
def execDecode (u : UnitId) (hostData : Bytes) (s : State) : Res :=
  frameEvent u 3 s (fun s r c f =>
    match NMap.get? c.streams (frStream f), tslot r.T 0, unitBytes s r.ctx c f hostData with
    | some st, .ok t, .ok b =>
      let p := decodeStep t st f b
      (match writeRegion s r.ctx p.1 with
       | .error x => unitFault s u r x (pcIndex r)
       | .ok s =>
         match runWrites s r.ctx t false p.2.2 with
         | (s, some x) => unitFault s u r x (pcIndex r)
         | (s, none) => frameDone (putStream s r.ctx (frStream f) p.1) u r f p.2.1)
    | none, _, _ => unitFault s u r .illegalDescriptor (pcIndex r)
    | _, .error x, _ => unitFault s u r x (pcIndex r)
    | _, _, .error x => unitFault s u r x (pcIndex r))

end Sys2Proof.Machine
end

