-- ==== Sys2Proof/Machine/Module.lean ====
section
/-!
DEFINITION. Module-scope Accord: the checks of its items, the staging, and the module boundary (R129, R132, R288, R416, R418, R440, R441, R464).
-/

namespace Sys2Proof.Machine

/-! ### Item layouts and form (R288, R440, R441) -/

def mCap (i : ItemBits) : Nat := iv i 15 0
def mPower (i : ItemBits) : Nat := iv i 15 0

/-- Shares of an item 0x0100. -/
def mShares (i : ItemBits) : Shares :=
  { nfloor := iv i 9 0, ncap := iv i 19 10, ffloor := iv i 29 20, fcap := iv i 39 30, gfloor := iv i 49 40, gcap := iv i 59 50 }

/-- No cap below its floor, no share above 1,008. -/
def sharesOk (x : Shares) : Bool :=
  decide (x.nfloor ≤ x.ncap) && decide (x.ffloor ≤ x.fcap) && decide (x.gfloor ≤ x.gcap) && decide (x.ncap ≤ 1008) && decide (x.fcap ≤ 1008) &&
    decide (x.gcap ≤ 1008)

/-- Type, target, value of one item; a type outside module scope has reason 0x02 (R418). -/
def moduleForm (i : ItemBits) : Nat :=
  match iType i with
  | 0x100 => firstReason [refuseIf (decide (255 < iTarget i)) 3, refuseIf (!(sharesOk (mShares i))) 4]
  | 0x101 => firstReason [refuseIf (iTarget i != 0) 3, refuseIf (decide (mCap i < 3000) || decide (9300 < mCap i)) 4]
  | 0x102 => firstReason [refuseIf (decide (15 < iTarget i)) 3, refuseIf (decide (8300 < mPower i)) 4]
  | _ => 2

/-! ### Checks at the commit instant -/

def findItem (l : List ItemBits) (type target : Nat) : Option ItemBits := l.find? (fun i => iType i == type && iTarget i == target)

/-- Shares of every context with the request applied. -/
def sharesAfter (s : State) (l : List ItemBits) : List Shares :=
  s.ctxs.map (fun p => ((findItem l 0x100 p.1).map mShares).getD p.2.shares)

/-- The module cap with the request applied, in watts. -/
def capAfter (s : State) (l : List ItemBits) : Nat := ((findItem l 0x101 0).map mCap).getD s.power.cap

/-- The sum of PWSHARE over the valid entries with the request applied. -/
def powerAfter (s : State) (l : List ItemBits) : Nat :=
  sumBy (fun k => if teValid (tenantBits s k) then ((findItem l 0x102 k).map mPower).getD (teField (tenantBits s k) 673 658) else 0) (rangeFrom 0 16)

/-- The reason one item is refused against the others and the state. -/
def moduleItem (s : State) (l : List ItemBits) (k : Nat) (i : ItemBits) : Nat :=
  let dup := refuseIf (clash l k i) 5
  match iType i with
  | 0x100 => firstReason [dup, refuseIf (s.ctx? (iTarget i)).isNone 3, refuseIf (!(floorsFit (sharesAfter s l))) 8]
  | 0x101 => firstReason [dup, refuseIf (decide (mCap i < 1000 + powerAfter s l)) 8]
  | 0x102 => firstReason [dup, refuseIf (!(teValid (tenantBits s (iTarget i)))) 3, refuseIf (decide (capAfter s l < 1000 + powerAfter s l)) 8]
  | _ => 2

def moduleCheck (s : State) (l : List ItemBits) : Nat :=
  firstReason (((rangeFrom 0 l.length).zip l).map (fun p => moduleItem s l p.1 p.2))

/-! ### Effects -/

/-- Bits [hi:lo] of a tenancy entry replaced. -/
def teSet (t : TenantBits) (hi lo v : Nat) : TenantBits := BitVec.ofNat 1024 (setField t.toNat hi lo v)

/-- One module-scope item at the module boundary (R421). DEDUCED: log entry 47. -/
def applyModule (s : State) (i : ItemBits) : State :=
  match iType i with
  | 0x100 => s.modCtx (iTarget i) (fun c => { c with shares := mShares i })
  | 0x101 => { s with power := { s.power with cap := mCap i } }
  | 0x102 =>
    let t := teSet (tenantBits s (iTarget i)) 673 658 (mPower i)
    putTenant s (iTarget i) t 0x47 (entryKey t)
  | _ => s

/-! ### Staging (R418) -/

/-- A request whose form is right waits for the module boundary; the contexts it names start no further task. DEDUCED: log entry 44. -/
def stageModule (s : State) (tag : Nat) (l : List ItemBits) (entry : Option (Nat × TenantBits)) : State :=
  let names := (l.filter (fun i => iType i == 0x100)).map iTarget
  { s with colyr := { s.colyr with modReq := some (tag, l, entry) },
           ctxs := s.ctxs.map (fun p => (p.1, if names.contains p.1 then { p.2 with stopped := true } else p.2)) }

/-- The end of a request: the response and the log carry the reason (R130, R418). DEDUCED: log entry 46. -/
def endModule (s : State) (cmd tag reason : Nat) : State :=
  respond (s.logMgmt 0x4C 31 31 reason 0) cmd tag (if reason = 0 then 0 else 9) (toBytes 1 reason)

/-- The reason a command's request is refused on arrival (R464). -/
def moduleArrival (s : State) (l : List ItemBits) : Nat :=
  firstReason (refuseIf (l.isEmpty || decide (16 < l.length)) 0x0C :: refuseIf s.colyr.modReq.isSome 9 :: l.map moduleForm)

/-! ### The module boundary (R132) -/

/-- The tasks of the contexts that the request names have completed. DEDUCED: log entry 44. -/
def moduleReady (s : State) : Bool :=
  s.units.all (fun p => match s.ctx? p.2.ctx with
    | some c => !c.stopped
    | none => true)

/-- All items apply or none; dispatch goes on, and the command is answered. -/
def execModuleBoundary (s : State) : Res :=
  match s.colyr.modReq with
  | none => .next s
  | some (tag, l, entry) =>
    if !(moduleReady s) then .next s else
    let s : State := { s with colyr := { s.colyr with modReq := none }, ctxs := s.ctxs.map (fun p => (p.1, { p.2 with stopped := false })) }
    let r := moduleCheck s l
    match entry with
    | none => .next (endModule (if r = 0 then l.foldl applyModule s else s) 0x09 tag r)
    | some (k, t) =>
      if r = 0 then
        let s := (l.filter (fun i => iType i != 0x102)).foldl applyModule s
        .next (endModule (putTenant s k t 0x47 (entryKey t)) 0x07 tag 0)
      else .next (endModule s 0x07 tag r)

end Sys2Proof.Machine
end

