-- ==== Sys2Proof/Machine/Colyr.lean ====
section
/-!
DEFINITION. The Colyr commands (R402, R406, R407, R410 to R422).
-/

namespace Sys2Proof.Machine

/-! ### When a command runs (R403, R412, R416) -/

/-- The released firmware runs. -/
def fwRuns (s : State) : Bool :=
  match s.power.boot with
  | .rails | .nearTrain | .farTrain | .selfTest | .ready => true
  | _ => false

/-- One command: executed by firmware; in recovery the boot ROM executes those it offers and refuses the rest with status 0x08; none
while a forced deletion waits. DEDUCED: log entry 45. -/
def colyrDo (s : State) (cmd tag : Nat) (rom : Bool) (k : State → State) : Res :=
  if s.colyr.deleting.isSome then .next s
  else if fwRuns s || (s.power.boot == .recovery && rom) then .next (k s)
  else if s.power.boot = .recovery then .next (respond s cmd tag 8 [])
  else .next s

/-! ### Inventory and registers (R413, R414) -/

def execGetInventory (tag : Nat) (s : State) : Res := colyrDo s 0x01 tag true (fun s => respond s 0x01 tag 0 (inventory s))

def execReadReg (tag offset : Nat) (s : State) : Res :=
  colyrDo s 0x02 tag false (fun s => match readColyr s offset with
    | some v => respond s 0x02 tag 0 (toBytes 8 v)
    | none => respond s 0x02 tag 3 [])

def execWriteReg (tag offset : Nat) (value : Word64) (s : State) : Res :=
  colyrDo s 0x03 tag false (fun s => match readColyr s offset with
    | some _ => respond (writeColyr s offset value) 0x03 tag 0 []
    | none => respond s 0x03 tag 3 [])

/-! ### Log and sensors (R420, R422) -/

/-- The stamp of R420 in 16 bytes. -/
def stampBytes (dseq : Nat) (lcyc : Nat) (die isl idx : Nat) : Bytes := toBytes 8 dseq ++ toBytes 6 lcyc ++ toBytes 2 (die + isl * 2 ^ 5 + idx * 2 ^ 9)

def entryBytes (e : LogEntry) : Bytes := toBytes 16 e.record.toNat ++ stampBytes e.dseq.toNat e.lcyc.toNat e.sdie e.isl e.idx

/-- Index of the oldest entry kept. -/
def logOldest (s : State) : Nat := s.colyr.logNext - s.colyr.log.length

/-- LOG_READ (R411, R420). DEDUCED: log entry 50. -/
def execLogRead (tag index count : Nat) (s : State) : Res :=
  colyrDo s 0x04 tag false (fun s =>
    if index < logOldest s then respond s 0x04 tag 5 (toBytes 8 (logOldest s))
    else respond s 0x04 tag 0 (((s.colyr.log.drop (index - logOldest s)).take (min 32 count)).flatMap entryBytes))

/-- The sensors of a sample: kind, location, value in thousandths. DESIGN CHOICE: log entry 49. -/
def sensorList (s : State) (x : Samples) : List (Nat × Nat × Nat) :=
  (rangeFrom 0 24).flatMap (fun d =>
    [(0x01, d, nth 0 x.diePower d), (0x02, d, nth 0 x.junction d), (0x03, d, nth 0 x.nearT d)] ++
      (if stackFitted s.order d then [(0x04, d, nth 0 x.farT d)] else []) ++ [(0x14, d, 1000 * nth 0 s.power.level d)]) ++
    [(0x01, 0x80, x.inputMw), (0x10, 0x80, x.inputMv), (0x11, 0x80, x.inputMa), (0x12, 0x80, x.inletMc), (0x13, 0x80, x.outletMc)]

/-- One sensor's record is emitted by its die, whose sequence number rises by one (R26, R422). DESIGN CHOICE: log entry 49. -/
def takeSensor (s : State) (x : Nat × Nat × Nat) : State :=
  let die := if x.2.1 < 24 then x.2.1 else 24
  let seq := nth 0 s.dseq die
  let r : SensorRec := { kind := x.1, loc := x.2.1, value := x.2.2, dseq := seq, lcyc := Config.localCycle s.freeIx, die := die }
  { s with dseq := setNth s.dseq die (seq + 1), freeIx := s.freeIx + 1, power := { s.power with sensors := s.power.sensors ++ [r] } }

/-- The records of a sample take the place of the last one's. -/
def takeSensors (s : State) (x : Samples) : State := (sensorList s x).foldl takeSensor { s with power := { s.power with sensors := [] } }

/-- A sensor record (R422). -/
def sensorBytes (r : SensorRec) : Bytes :=
  toBytes 4 (r.kind + r.loc * 2 ^ 8) ++ toBytes 4 (ratio32 r.value 1000).toNat ++ toBytes 8 0 ++
    stampBytes r.dseq.toNat r.lcyc.toNat r.die (if r.die < 24 then 2 else 0xA) 0

/-- SENSOR_READ: the records of the last sample (R411, R422). DESIGN CHOICE: log entry 49. -/
def execSensorRead (tag index count : Nat) (s : State) : Res :=
  colyrDo s 0x05 tag false (fun s => respond s 0x05 tag 0 (((s.power.sensors.drop index).take (min 32 count)).flatMap sensorBytes))

/-! ### The tenancy table (R415 to R417) -/

def execTenantRead (tag index : Nat) (s : State) : Res :=
  colyrDo s 0x06 tag false (fun s => if 15 < index then respond s 0x06 tag 3 [] else respond s 0x06 tag 0 (toBytes 128 (tenantBits s index).toNat))

/-- A host of the entry is attached or in its hold period. -/
def entryHost (s : State) (k : Nat) : Option (Nat × HostRec) :=
  s.hosts.find? (fun p => p.2.tenant == k && (match p.2.phase with
    | .detached | .drying => false
    | _ => true))

/-- Fields within their ranges. -/
def entryRanges (t : TenantBits) : Bool :=
  decide (teField t 526 518 ≤ 256) && decide (1 ≤ teField t 534 527) && decide (1 ≤ teField t 549 535) && decide (teField t 549 535 ≤ 16384) &&
    decide (1 ≤ teField t 557 550) && decide (teField t 557 550 ≤ 128) && decide (teField t 576 558 ≤ 393024) && decide (teField t 597 577 ≤ 1179648) &&
    decide (teField t 673 658 ≤ 8300) && sharesOk (entryShares t)

/-- Another valid entry holds the same HKDIG. -/
def entryTwin (s : State) (k : Nat) (t : TenantBits) : Bool :=
  teValid t && (rangeFrom 0 16).any (fun j => j != k && teValid (tenantBits s j) && teField (tenantBits s j) 511 0 == teField t 511 0)

/-- Status of a write before R416, 0 when it may go on (R411, R415). DEDUCED: log entry 48. -/
def entryStatus (s : State) (k : Nat) (t : TenantBits) : Nat :=
  if 15 < k then 3
  else if teField t 514 513 = 3 ∨ teField t 517 516 = 3 then 2
  else if !(entryRanges t) || entryTwin s k t || (teField t 514 513 == 2 && s.order == .half) then 3 else 0

/-- VALUE of an item 0x0100 with an entry's shares. -/
def sharesValue (t : TenantBits) : Nat :=
  let x := entryShares t
  x.nfloor + x.ncap * 2 ^ 10 + x.ffloor * 2 ^ 20 + x.fcap * 2 ^ 30 + x.gfloor * 2 ^ 40 + x.gcap * 2 ^ 50

def mkItem (type target value : Nat) : ItemBits := BitVec.ofNat 256 (type + target * 2 ^ 32 + value * 2 ^ 64)

/-- The request that a write to the entry of a present host stages (R416). DEDUCED: log entry 48. -/
def entryItems (s : State) (k : Nat) (t : TenantBits) : List ItemBits :=
  (s.ctxs.filter (fun p => p.2.tenant == k)).map (fun p => mkItem 0x100 p.1 (sharesValue t)) ++ [mkItem 0x102 k (teField t 673 658)]

/-- The reserved bits of an entry read as zero (R14). DEDUCED: log entry 48. -/
def entryClean (t : TenantBits) : TenantBits := BitVec.ofNat 1024 (teField t 673 0)

def writeEntry (s : State) (tag k : Nat) (entry : TenantBits) : State :=
  let t := entryClean entry
  let st := entryStatus s k t
  if st ≠ 0 then respond s 0x07 tag st []
  else match entryHost s k with
    | none => respond (putTenant s k t 0x47 (entryKey t)) 0x07 tag 0 []
    | some _ =>
      if teField t 512 0 ≠ teField (tenantBits s k) 512 0 then respond s 0x07 tag 4 []
      else if s.colyr.modReq.isSome then endModule s 0x07 tag 9
      else stageModule s tag (entryItems s k t) (some (k, t))

/-- TENANT_WRITE (R411, R415, R416). DEDUCED: log entry 47. DEDUCED: log entry 48. -/
def execTenantWrite (tag index : Nat) (entry : TenantBits) (s : State) : Res := colyrDo s 0x07 tag false (fun s => writeEntry s tag index entry)

/-- A present host is made to go: an immediate DETACH, or the end of its hold (R346, R347). -/
def forceOut (s : State) (slot : Nat) (h : HostRec) : State :=
  match h.phase with
  | .hold => endHold s slot h
  | .attached | .registered | .detaching false => detachDone (drydownAll (s.setHost slot { h with phase := .detaching true }) slot) slot
  | _ => s

def execTenantDelete (tag index : Nat) (force : Bool) (s : State) : Res :=
  colyrDo s 0x08 tag false (fun s =>
    if 15 < index then respond s 0x08 tag 3 []
    else match entryHost s index with
      | none => respond (deleteEntry s index) 0x08 tag 0 []
      | some (slot, h) =>
        if !force then respond s 0x08 tag 4 []
        else
          let s' := forceOut s slot h
          finishDelete { s' with colyr := { s'.colyr with deleting := some (tag, index) } })

/-! ### ACCORD and ATTEST (R406, R418) -/

def execColyrAccord (tag : Nat) (items : List ItemBits) (s : State) : Res :=
  colyrDo s 0x09 tag false (fun s =>
    let r := moduleArrival s items
    if r = 0 then stageModule s tag items none else endModule s 0x09 tag r)

def execAttest (tag : Nat) (nonce : BitVec 256) (s : State) : Res :=
  colyrDo s 0x0A tag false (fun s =>
    let r := report s nonce none
    respond s 0x0A tag 0 (r ++ signDigest (Config.sha3 r)))

/-! ### Firmware and fuses (R398, R402, R403, R419) -/

/-- An update has begun and has not ended. -/
def updating (s : State) : Bool := s.fw.updLen.isSome || fwWriting s

def execFwBegin (tag length : Nat) (s : State) : Res :=
  colyrDo s 0x0B tag true (fun s =>
    if updating s || s.recSession.isSome || s.colyr.debugOpen then respond s 0x0B tag 4 []
    else if length = 0 ∨ bodyAt + 2 ^ 27 < length then respond s 0x0B tag 3 []
    else
      let s' : State := { s with fw := { s.fw with updLen := some length, staged := [], updStep := 0, updStatus := 0 } }
      respond s' 0x0B tag 0 [])

def execFwData (tag offset : Nat) (data : Bytes) (s : State) : Res :=
  colyrDo s 0x0C tag true (fun s => match s.fw.updLen with
    | none => respond s 0x0C tag 4 []
    | some n =>
      if fwWriting s then respond s 0x0C tag 4 []
      else if data.isEmpty || decide (4096 < data.length) then respond s 0x0C tag 2 []
      else if n < offset + data.length then respond s 0x0C tag 3 []
      else
        let s' : State := { s with fw := { s.fw with staged := Memory.setBytes s.fw.staged offset data } }
        respond s' 0x0C tag 0 [])

/-- The boot ROM's own commit: the same checks and order, then a module reset (R403). DEDUCED: log entry 54. -/
def romCommit (s : State) (tag : Nat) : State :=
  let s := fwStart s
  if s.fw.updStep ≠ 3 then respond s 0x0D tag s.fw.updStatus []
  else moduleReset (respond (fwDone s) 0x0D tag 0 []) .rom false (freeCause s)

/-- FW_COMMIT: the update begins, or the boot ROM in recovery takes the image (R403, R419). DEDUCED: log entry 51. -/
def execFwCommit (tag : Nat) (sigOk : Bool) (s : State) : Res :=
  colyrDo s 0x0D tag true (fun s =>
    if s.fw.updLen.isNone || fwWriting s then respond s 0x0D tag 4 [] else
    let s : State := { s with fw := { s.fw with sigOk := sigOk } }
    if s.power.boot = .recovery then romCommit s tag
    else
      let s := (maintAsk s actFWU 0 false).1
      respond s 0x0D tag s.fw.updStatus [])

def execFwStatus (tag : Nat) (s : State) : Res :=
  colyrDo s 0x0E tag true (fun s => respond s 0x0E tag 0 (toBytes 1 s.fw.updStep ++ toBytes 1 s.fw.updStatus))

def execFuseSvn (tag v : Nat) (s : State) : Res :=
  colyrDo s 0x0F tag false (fun s =>
    if updating s then respond s 0x0F tag 4 []
    else if s.fw.runSvn < v ∨ v ≤ s.fw.fuses then respond s 0x0F tag 3 []
    else
      let s' : State := { s with fw := { s.fw with fuses := v } }
      respond (s'.logMgmt 0x4A 31 31 v 0) 0x0F tag 0 [])

/-! ### Maintenance, Sillage, resets, Drydown (R375, R381, R391, R394, R396, R398) -/

/-- MAINT_REQ; an FWU asked for here runs its checks on whatever is staged, with a verdict on its signature that no operand gives.
DEDUCED: log entry 51. -/
def execMaintReq (tag act target : Nat) (s : State) : Res :=
  colyrDo s 0x10 tag false (fun s =>
    let s : State := if act = actFWU ∧ fwWriting s = false then { s with fw := { s.fw with sigOk := Config.freeBool s.freeIx 22 } } else s
    let p := maintAsk s act target false
    respond p.1 0x10 tag 0 (toBytes 1 p.2))

def execSillageRead (tag die offset len : Nat) (s : State) : Res :=
  colyrDo s 0x11 tag false (fun s =>
    if 4096 < len then respond s 0x11 tag 2 []
    else if 23 < die ∨ 2 * pageSize < offset + len then respond s 0x11 tag 3 []
    else respond s 0x11 tag 0 (Memory.getBytes s.mem (nearBase die + offset) len))

def execResetComputePart (tag : Nat) (s : State) : Res :=
  colyrDo s 0x12 tag false (fun s => respond (partReset s (freeCause s)) 0x12 tag 0 [])

/-- RESET of the module waits for the end of a flash write. DEDUCED: log entry 52. -/
def execResetModule (tag : Nat) (s : State) : Res :=
  colyrDo s 0x12 tag false (fun s =>
    let s' := respond s 0x12 tag 0 []
    if fwWriting s then { s' with fw := { s'.fw with deferredReset := true } } else moduleReset s' .rom true (freeCause s))

/-- DRYDOWN of a context (R391, R411). DEDUCED: log entry 87. -/
def execDrydown (tag ctx : Nat) (s : State) : Res :=
  colyrDo s 0x13 tag false (fun s => match s.ctx? ctx with
    | none => respond s 0x13 tag 3 []
    | some _ => respond (beginDrydown s ctx) 0x13 tag 0 [])

/-! ### The debug lock (R407) -/

/-- A host is attached or in its hold period. -/
def hostPresent (s : State) : Bool := s.hosts.any (fun p => match p.2.phase with
  | .detached | .drying => false
  | _ => true)

/-- DEBUG_UNLOCK by a signed token (R407). DEDUCED: log entry 52. -/
def execDebugUnlock (tag : Nat) (serial : BitVec 128) (nonce : BitVec 256) (sigOk : Bool) (s : State) : Res :=
  colyrDo s 0x14 tag false (fun s =>
    if hostPresent s || !s.ctxs.isEmpty || nonce != s.colyr.nonce then respond s 0x14 tag 4 []
    else if !sigOk || serial != Config.serial then respond s 0x14 tag 6 []
    else
      let s' : State := { s with colyr := { s.colyr with debugOpen := true } }
      respond (s'.logMgmt 0x4B 31 31 0 0) 0x14 tag 0 [])

/-- A reserved CMD. DEDUCED: log entry 52. -/
def execUnknownCommand (tag cmd : Nat) (s : State) : Res :=
  if 1 ≤ cmd ∧ cmd ≤ 0x14 then .next s else colyrDo s cmd tag false (fun s => respond s cmd tag 1 [])

end Sys2Proof.Machine
end

