-- ==== Sys2Proof/Machine/Mctp.lean ====
section
/-!
DEFINITION. The MCTP control messages that Colyr accepts (R409) and the recovery over UDP (R403).
-/

namespace Sys2Proof.Machine

/-! ### Messages byte for byte (R403, R409) -/

/-- A recovery datagram of the module: MAGIC, TYPE, STATUS, LEN 0, OFF. -/
def recoveryBytes (type status off : Nat) : Bytes :=
  [0x5A, 0x52, 0x43, 0x56] ++ toBytes 1 type ++ toBytes 1 status ++ toBytes 2 0 ++ toBytes 8 off

/-- The bytes of what Colyr and the boot ROM send: a recovery datagram, or the body of a vendor-defined message. -/
def Out.wire : Out → Option Bytes
  | .recoveryAck _ _ off => some (recoveryBytes 0x81 0 off)
  | .recoveryResult _ _ status => some (recoveryBytes 0x82 status 0)
  | .colyr cmd tag status data => some (toBytes 1 cmd ++ toBytes 1 tag ++ toBytes 1 status ++ [0] ++ data)
  | _ => none

/-! ### MCTP control; message layouts PRESUMED from DMTF MCTP, which the manual names without restating them -/

/-- Firmware, or the boot ROM in recovery, answers on the management interfaces. -/
def mctpRuns (s : State) : Bool := fwRuns s || s.power.boot == .recovery

def mctpDo (s : State) (k : State) : Res := .next (if mctpRuns s then k else s)

/-- Set Endpoint ID: operations 0 and 1 set it; identifiers 0 and 255 are not endpoints. -/
def execSetEndpointId (op eid : Nat) (s : State) : Res :=
  mctpDo s (if op ≤ 1 ∧ 1 ≤ eid ∧ eid ≤ 254 then
    ({ s with colyr := { s.colyr with eid := eid } } : State).emit (.mctp 1 [0, 0, BitVec.ofNat 8 eid, 0])
  else s.emit (.mctp 1 [2]))

def execGetEndpointId (s : State) : Res := mctpDo s (s.emit (.mctp 2 [0, BitVec.ofNat 8 s.colyr.eid, 0, 0]))

def execGetMctpVersionSupport (msgType : Nat) (s : State) : Res := mctpDo s (s.emit (.mctp 4 (Config.mctpVersions msgType)))

/-- The one message type beside control: vendor-defined by enterprise number. -/
def execGetMessageTypeSupport (s : State) : Res := mctpDo s (s.emit (.mctp 5 [0, 1, 0x7F]))

/-- The enterprise number; its version field is the vendor's. -/
def execGetVendorDefinedMessageSupport (selector : Nat) (s : State) : Res :=
  mctpDo s (if selector = 0 then
    s.tick.emit (.mctp 6 ([0, 0xFF, 1] ++ (toBytes 4 Config.enterprise.toNat).reverse ++ toBytes 2 (Config.freeNat s.freeIx 24)))
  else s.emit (.mctp 6 [2]))

/-! ### Recovery over UDP (R403) -/

/-- The boot ROM listens on a logical port. -/
def recPort (s : State) (port : Nat) : Bool := s.power.boot == .recovery && portUp s port

/-- The session has reached an offset: once the signature block is whole it is checked, and from then the body is written as it comes. -/
def recStep (s : State) (r : RecSession) (sigOk : Bool) : State :=
  let ack (s : State) : State := s.emit (.recoveryAck r.port r.source r.expect)
  let write (s : State) : State := { s with recSession := some { r with sigOk := true }, fw := { s.fw with flash := imgBody r.image } }
  if r.sigOk then ack (write s)
  else if r.expect < bodyAt then ack { s with recSession := some r }
  else
    let k := sigCheck s.fw r.image sigOk
    if k = 0 then ack (write s) else ({ s with recSession := none } : State).emit (.recoveryResult r.port r.source (checkStatus k))

/-- The session that a DATA finds or opens. -/
def recFind (s : State) (port source : Nat) : RecSession :=
  match s.recSession with
  | some r => { r with port := port }
  | none => { port := port, source := source, expect := 0, sigOk := false, image := [] }

/-- DATA. DEDUCED: log entry 53. -/
def execRecoveryData (port : Nat) (source : Nat) (off : Nat) (data : Bytes) (sigOk : Bool) (s : State) : Res :=
  if !(recPort s port) then .next s else
  let r := recFind s port source
  if r.source ≠ source ∨ updating s = true then .next (s.emit (.recoveryResult port source 4))
  else if data.isEmpty || decide (1024 < data.length) then .next (s.emit (.recoveryResult port source 2))
  else if off ≠ r.expect then .next (s.emit (.recoveryAck port source r.expect))
  else if bodyAt + 2 ^ 27 < off + data.length then .next (s.emit (.recoveryResult port source 3))
  else .next (recStep s { r with expect := off + data.length, image := Memory.setBytes r.image off data } sigOk)

/-- DONE: the digest decides; the signature block is written last, and the module resets. DEDUCED: log entry 53. -/
def recFinish (s : State) (r : RecSession) : State :=
  let result (k : Nat) : State := ({ s with recSession := none } : State).emit (.recoveryResult r.port r.source k)
  if !r.sigOk || !(bodyCheck r.image) then result 6
  else
    let s' := result 0
    moduleReset { s' with fw := { s'.fw with flash := r.image } } .rom false (freeCause s)

/-- The last message of a recovery transfer (R403). DEDUCED: log entry 53. -/
def execRecoveryDone (port : Nat) (source : Nat) (length : Nat) (s : State) : Res :=
  if !(recPort s port) then .next s else
  match s.recSession with
  | none => .next (s.emit (.recoveryResult port source 4))
  | some r =>
    if r.source ≠ source then .next (s.emit (.recoveryResult port source 4))
    else if length ≠ r.expect then .next (s.emit (.recoveryAck port source r.expect))
    else .next (recFinish s { r with port := port })

/-- Ten seconds without DATA. -/
def execRecoveryTimeout (s : State) : Res := .next { s with recSession := none }

end Sys2Proof.Machine
end

