-- ==== Sys2Proof/Machine/Boot.lean ====
section
/-!
DEFINITION. The boot, the compute hold, loss of power, reference clocks and control pins (R401, R407, R424 to R434, R442, R443, R446, R451, R452).
-/

namespace Sys2Proof.Machine

/-! ### Loss of the module and cold boot (R28, R430 to R432) -/

/-- Everything that power keeps is gone: both tiers, the Sillage regions, the event log (R420, R431). DEDUCED: log entry 55. -/
def loseModule (s : State) (stage : BootStage) (powered : Bool) : State :=
  let t := afterReset s stage
  { t with
    mem := []
    fw := { t.fw with boots := s.fw.boots }
    power := { t.power with railsUp := powered && s.power.railsUp }
    colyr := if powered then t.colyr else { t.colyr with log := [], logNext := 0 } }

/-- The stage at which a reset that is no longer held begins. DEDUCED: log entry 55. -/
def firstStage (s : State) : BootStage := if s.power.resetLow || !s.power.refclk then .inReset else .rom

/-- The input reaches 50 V: a cold boot, up to the running boot ROM. DEDUCED: log entry 55. -/
def execPowerUp (s : State) : Res :=
  if s.power.boot ≠ .off then .next s else
  let s' := afterReset { s with power := { s.power with thermtrip := false, railsUp := false, low := false } } (firstStage s)
  .next (({ s' with mem := [], colyr := { s'.colyr with log := [], logNext := 0 } } : State).logRec 0x29 24 7 0 0xFF 0 0 (freeCause s) 0xFF 0)

/-- The input falls below 42 V. -/
def execInputShutdown (s : State) : Res := .next (loseModule s .off false)

/-- The input rises above 63 V: the converters stop as well. -/
def execInputOvervoltage (s : State) : Res := .next (loseModule s .off false)

/-- Trip: core and DRAM rails go, THERMTRIP# latches (R446). DEDUCED: log entry 55. -/
def execThermalTrip (die : Nat) (s : State) : Res :=
  if 24 ≤ die ∨ s.power.boot = .off then .next s else
  let t := loseModule s .off false
  .next { t with power := { t.power with thermtrip := true }, colyr := { t.colyr with log := s.colyr.log, logNext := s.colyr.logNext } }

/-! ### The boot (R400, R401, R430) -/

/-- The boot ROM has checked the image in flash: firmware is released, or recovery begins. -/
def execBootVerify (sigOk : Bool) (s : State) : Res :=
  if s.power.boot ≠ .rom then .next s else
  let k := imgCheck s.fw s.fw.flash sigOk
  let go (st : BootStage) : State := { s with power := { s.power with boot := st } }
  if k ≠ 0 then .next ((go .recovery).logMgmt 0x41 31 31 k 0)
  else
    let s' := go (if s.power.railsUp then .nearTrain else .rails)
    let f := s.fw.flash
    .next (({ s' with fw := { s'.fw with runBlock := imgSig f, runSvn := imgSvn f, runVer := imgVer f } } : State).logMgmt 0x40 31 31 0 (imgVer f).toNat)

/-- The next step of the boot is over; a hold stops it where it stands (R434). -/
def bootStep (s : State) (at_ next : BootStage) (k : State → State) : Res :=
  if s.power.boot = at_ ∧ s.power.hold = false then .next (k { s with power := { s.power with boot := next } }) else .next s

def execRailsInRegulation (s : State) : Res :=
  bootStep s .rails .nearTrain (fun s => { s with power := { s.power with railsUp := true } })

/-- Near training and the near via test, with the symbols that fail: die, channel, symbol (R270, R272). -/
def execNearTrainingDone (failing : List (Nat × Nat × Nat)) (s : State) : Res :=
  bootStep s .nearTrain .farTrain (fun s =>
    (failing.filter (fun x => decide (x.1 < 24) && decide (x.2.1 < 128) && decide (x.2.2 < 72))).foldl
      (fun s x => checkChannel (declareDead s x.1 x.2.1 x.2.2) x.1 x.2.1) s)

/-- Far training of the stacks, with the lanes that fail: stack, 36 × channel + lane (R276). -/
def execFarTrainingDone (deadLanes : List (Nat × Nat)) (s : State) : Res :=
  bootStep s .farTrain .selfTest (fun s =>
    (deadLanes.filter (fun x => stackFitted s.order x.1)).foldl (fun s x => lanesFound s x.1 [x.2]) s)

/-- Self-tests, identity and tenancy table: the module is ready for attach (R387, R430). -/
def execBootComplete (failed : List UnitId) (ctrlFailed : List Nat) (s : State) : Res :=
  bootStep s .selfTest .ready (fun s =>
    let s : State := { s with power := { s.power with pwrgd := true } }
    (ctrlFailed.filter (fun x => decide (x < 24))).foldl excludeDie ((failed.filter (fun u => u.exists_ s.order)).foldl excludeUnit s))

/-! ### The compute hold (R429, R432 to R434) -/

/-- Entry: at work every compute die sends a Squall and the compute part is reset; during a boot the later steps stop. -/
def enterHold (s : State) (locked : Bool) : State :=
  let p := { s.power with hold := true, low := s.power.low || !locked, holdLocked := s.power.holdLocked || locked, pwrgd := false }
  if s.power.boot = .off then s
  else if s.power.hold then { s with power := p }
  else if s.power.boot = .ready then partReset { s with power := p } (freeCause s)
  else { s with power := p }

def execComputeHold (s : State) : Res := .next (enterHold s false)

/-- Release; the compute units complete their reset at RESET_COMPLETE. -/
def execComputeHoldRelease (s : State) : Res :=
  if !s.power.low then .next s
  else .next { s with power := { s.power with low := false, hold := s.power.holdLocked, pwrgd := s.power.boot == .ready && !s.power.holdLocked } }

/-- A log entry of firmware for which the manual gives no KIND. DESIGN CHOICE: log entry 56. -/
def logFree (s : State) (die : Nat) : State := s.log die (if die < 24 then 2 else 0xA) 0 (Config.freeNat s.freeIx 25)

/-- One more intermediate converter has failed. DEDUCED: log entry 58. -/
def execConverterFailure (n : Nat) (s : State) : Res :=
  if 8 ≤ n ∨ 8 ≤ s.power.convLost ∨ fwRuns s = false then .next s else
  let s := logFree { s with power := { s.power with convLost := s.power.convLost + 1 } } 24
  .next (if effCapMw s < 3000000 then enterHold s true else s)

/-! ### Reference clocks (R442, R443) -/

/-- REFCLK absent: every island loses lock, the module is held in reset. -/
def execRefclkLoss (s : State) : Res :=
  if !s.power.refclk then .next s else
  let s : State := { s with power := { s.power with refclk := false } }
  if s.power.boot = .off then .next s else .next (logFree (loseModule s .inReset true) 24)

/-- REFCLK present again: a module reset. -/
def execRefclkReturn (s : State) : Res :=
  if s.power.refclk then .next s else
  let s : State := { s with power := { s.power with refclk := true } }
  if s.power.boot = .off then .next s else .next (moduleReset s (firstStage s) false (freeCause s))

/-- A SerDes reference serves HP0 to HP3 (west) or HP4 to HP7 (east). -/
def setSds (s : State) (east v : Bool) : State :=
  { s with power := if east then { s.power with sdsE := v } else { s.power with sdsW := v } }

def execSdsclkLoss (east : Bool) (s : State) : Res := .next ((rangeFrom (if east then 4 else 0) 4).foldl dropHostPort (setSds s east false))

/-- The ports train again and come up at LINK_UP. -/
def execSdsclkReturn (east : Bool) (s : State) : Res := .next (setSds s east true)

/-! ### Pins (R451, R452) -/

/-- RESET# low: a module reset, held while the pin stays low. -/
def execResetPin (s : State) : Res :=
  if s.power.resetLow then .next s else
  let s : State := { s with power := { s.power with resetLow := true, flashOut := s.power.flashSelHigh } }
  .next (if s.power.boot = .off then s else moduleReset s .inReset true (freeCause s))

/-- RESET# high: the boot ROM starts, and the flash is back on IO0. -/
def execResetPinRelease (s : State) : Res :=
  if !s.power.resetLow then .next s else
  let s : State := { s with power := { s.power with resetLow := false, flashOut := false } }
  .next (if s.power.boot = .inReset then { s with power := { s.power with boot := firstStage s } } else s)

def execFlashSel (level : Bool) (s : State) : Res :=
  .next { s with power := { s.power with flashSelHigh := level, flashOut := s.power.resetLow && level } }

/-- ALERT# is asserted (R433, R443, R445, R451). -/
def alert (s : State) : Bool := s.power.hold || !s.power.refclk || decide (0 < throttle s) || s.power.coolantWarn

/-- An instruction on the JTAG port (R407). DESIGN CHOICE: log entry 59. -/
def execJtagInstruction (ir : Nat) (s : State) : Res := .next (s.emit (.jtag ir (debugState s == 0 && !(Config.jtagMandatory ir))))

end Sys2Proof.Machine
end

