-- ==== Sys2Proof/Machine/Cvt.lean ====
section
/-!
DEFINITION. The CVT class (R53, R56, R57, R85, R162, R163).
-/

namespace Sys2Proof.Machine

def cTD (w : InstrWord) : Nat := InstrWordBits w 21 16
def cTS (w : InstrWord) : Nat := InstrWordBits w 27 22
def cRM (w : InstrWord) : Nat := InstrWordBits w 29 28
def cAMAX (w : InstrWord) : Bool := bitAt w.toNat 30
def cSCL (w : InstrWord) : Nat := InstrWordBits w 33 32
def cSLOT (w : InstrWord) : Nat := InstrWordBits w 45 34
def cMARG (w : InstrWord) : Nat := InstrWordBits w 48 46

/-- A source element of a conversion: index, exact value, its FP32 form for amax, flags of its reading. An unscaled element converts from
its exact value, a scaled one from its FP32 rounding (R53, R163). -/
structure CvtIn where
  ix : List Nat
  exact : FV
  wide : Bits32
  flags : Flags
deriving DecidableEq, Repr

def cvtIn (s : State) (cn : Nat) (c : Ctx) (t : TD) (ix : List Nat) : X CvtIn :=
  match readScaled s cn c t ix with
  | .error e => .error e
  | .ok (b, k) =>
    let x := input32 t b k
    .ok { ix := ix, exact := if t.sblk = 0 then decodeF t.fmt b else fp x.1, wide := x.1, flags := x.2 }

/-- Convert with the exact scaling by 2^k and one rounding. -/
def cvtOut (d : TD) (rm : RM) (k : Int) (x : CvtIn) : (Nat × Bytes) × Flags :=
  let p := roundF d.fmt rm (x.exact.scale k)
  (elemWrite d x.ix p.1, x.flags ||| p.2)

/-- Two elements lie in one block of 32 along dimension 0 (R57, R162). -/
def sameBlock (a b : List Nat) : Bool := nth 0 a 0 / 32 == nth 0 b 0 / 32 && a.drop 1 == b.drop 1

/-- The blocks of a list of elements in index order: first element and amax. -/
def blockAmaxes (l : List CvtIn) (ix : List Nat) : Bits32 := amaxOf ((l.filter (fun x => sameBlock x.ix ix)).map (·.wide))

/-- One element with the scale of its block: its write, the block's code when the element is the block's first, flags. -/
def cvtBlock (d : TD) (rm : RM) (marg : Nat) (l : List CvtIn) (x : CvtIn) : List ((Nat × Bytes) × Flags) :=
  let a := blockAmaxes l x.ix
  let e := scaleCode a d.fmt marg
  let y := cvtOut d rm (127 - (e : Int)) x
  if nth 0 x.ix 0 % 32 = 0 then [y, ((d.codeAddr x.ix, toBytes 1 e), amaxFlag a)] else [y]

/-- CVT. SCL = 0b11 is refused whatever the predicate (R66, R85); an empty source moves no data (R89). A source of another shape is read at
TD's tuples, and SCL other than 0b10 may write a block-scaled TD. DESIGN CHOICE: log entry 103. -/
def execCvt (u : UnitId) (s : State) : Res :=
  issue s u clCVT 0x00 (fun _ w => cSCL w != 3) (fun s _ c r w =>
    let rm := RM.ofCode (cRM w)
    tryX s (tslot r.T (cTD w)) fun d =>
    tryX s (vecSource s r.ctx c r.T (cTS w)) fun t =>
    check s (rmOk (cRM w) d.fmt && d.cmp == 0 && (cSCL w != 2 || d.sblk == 1)) .illegalInstruction fun _ =>
    if d.count = 0 ∨ t.count = 0 then .go s r else
    tryX s (mapE (cvtIn s r.ctx c t) (tuples d.exts)) fun l =>
    tryX s (if cSCL w = 1 then readScode s r.ctx c (cSLOT w) else .ok 127) fun e =>
    let out := if cSCL w = 2 then l.flatMap (cvtBlock d rm (cMARG w) l) else l.map (cvtOut d rm (127 - (e : Int)))
    let a := amaxOf (l.map (·.wide))
    let ws : List WItem := out.map (fun p => .ok p.1)
    let fl := orFlags (out.map (·.2)) ||| (if cAMAX w then amaxFlag a else 0)
    match runWrites s r.ctx d false ws with
    | (s', some f) => .stop s' f
    | (s', none) =>
      if cAMAX w then
        tryX s' (gatherAmax s' r.ctx (cSLOT w) a d.fmt) fun s'' =>
        finishWrites (s'', none) r.ctx (ws ++ [.ok (scaleSlotVa (cSLOT w), toBytes 4 0)]) (r.raise fl)
      else finishWrites (s', none) r.ctx ws (r.raise fl))

end Sys2Proof.Machine
end

