-- ==== Sys2Proof/Machine/Power.lean ====
section
/-!
DEFINITION. Sensors, the cap loop, throttling, the fast limiter, DVFS and the dispatch ramp (R21, R422, R426, R435 to R439, R445).
-/

namespace Sys2Proof.Machine

/-! ### Thermal levels (R445), in thousandths of a degree -/

/-- Entry values of a level: junction, near stack, far stack. -/
def entryAt : Nat → Nat × Nat × Nat
  | 1 => (97000, 88000, 80000)
  | 2 => (101000, 91000, 82000)
  | _ => (104000, 94000, 84000)

/-- The sensors of a die; a die without a far stack has none for it (R2). -/
def heat (o : Order) (x : Samples) (die : Nat) : Nat × Nat × Nat :=
  (nth 0 x.junction die, nth 0 x.nearT die, if stackFitted o die then nth 0 x.farT die else 0)

/-- A sensor meets the entry value of a level. -/
def meets (h : Nat × Nat × Nat) (l : Nat) : Bool :=
  decide ((entryAt l).1 ≤ h.1) || decide ((entryAt l).2.1 ≤ h.2.1) || decide ((entryAt l).2.2 ≤ h.2.2)

/-- The highest level whose entry condition a sensor meets. -/
def heatLevel (h : Nat × Nat × Nat) : Nat := if meets h 3 then 3 else if meets h 2 then 2 else if meets h 1 then 1 else 0

/-- Every sensor is at least 4 K below the entry value of a level. -/
def coolBelow (h : Nat × Nat × Nat) (l : Nat) : Bool :=
  decide (h.1 + 4000 ≤ (entryAt l).1) && decide (h.2.1 + 4000 ≤ (entryAt l).2.1) && decide (h.2.2 + 4000 ≤ (entryAt l).2.2)

/-- Clock in MHz and core voltage in mV of a throttle level (R436). -/
def dvfsPoint : Nat → Nat × Nat
  | 0 => (2100, 800)
  | 1 => (1800, 720)
  | 2 => (1400, 630)
  | _ => (1000, 550)

/-- Clock that the clusters and pipelines of a die run at. -/
def dieClock (s : State) (die : Nat) : Nat := (dvfsPoint (nth 0 s.power.level die)).1

/-- The level that cap loop, thermal throttling and fast limiter demand of a die (R436). -/
def demand (p : Power) (die : Nat) : Nat := max (nth 0 p.capLevel die) (max (nth 0 p.thermLevel die) (nth 0 p.fastLevel die))

/-! ### The cap loop (R437, R438), sums over the intervals kept -/

/-- Tenants that are attached and have a context. -/
def powerTenants (s : State) : List Nat :=
  (rangeFrom 0 16).filter (fun k => s.hosts.any (fun h => h.2.tenant == k && h.2.linked) && s.ctxs.any (fun c => c.2.tenant == k))

def pwshareMw (s : State) (k : Nat) : Nat := 1000 * teField (tenantBits s k) 673 658

/-- Power that islands counted for the tasks of a tenant in one interval, before it is referred to the input (R435). -/
def attributed (s : State) (x : Samples) (k : Nat) : Nat :=
  sumBy (fun p => if (s.ctx? p.2.1).any (fun c => c.tenant == k) then p.2.2 else 0) (x.energy.filter (fun p => p.1.kind != .video))

/-- A sum over n intervals, referred to the input by 1 / 0.935, is above n times the allowance PWSHARE + U / A (R435, R438). -/
def overAllowance (s : State) (l : List Nat) (k n sum : Nat) : Bool :=
  let u : Int := (effCapMw s : Int) - 1000000 - (sumBy (pwshareMw s) l : Nat)
  decide (935 * (n : Int) * ((l.length : Int) * (pwshareMw s k : Int) + u) < 1000 * (l.length : Int) * (sum : Int))

/-- Sum of a tenant's attributed power over the intervals kept. -/
def tenantSum (p : Power) (k : Nat) : Nat := sumBy (fun l => nth 0 l k) p.tenantHist

/-- The die with the highest power; which of equals is open. DEDUCED: log entry 57. -/
def hottest (s : State) (x : Samples) : Nat :=
  let top := (rangeFrom 0 24).foldl (fun a d => max a (nth 0 x.diePower d)) 0
  let l := (rangeFrom 0 24).filter (fun d => nth 0 x.diePower d == top)
  nth 0 l (Config.freeNat s.freeIx 26 % l.length)

/-- Step 1: the average is above the cap. -/
def capDown (s : State) (x : Samples) : State :=
  let l := powerTenants s
  let above := l.filter (fun k => overAllowance s l k s.power.history.length (tenantSum s.power k))
  if above.isEmpty then
    let d := hottest s x
    { s with power := { s.power with capLevel := setNth s.power.capLevel d (min 3 (demand s.power d + 1)) }, freeIx := s.freeIx + 1 }
  else { s with power := { s.power with tenantHold := above.foldl (fun a k => insertNat k a) s.power.tenantHold } }

/-- Step 2: a tenant at or below its allowance, or no longer counted, is released. DEDUCED: log entry 57. -/
def capRelease (s : State) : State :=
  let l := powerTenants s
  { s with power := { s.power with tenantHold := s.power.tenantHold.filter (fun k =>
      l.contains k && overAllowance s l k s.power.history.length (tenantSum s.power k)) } }

/-- Level that the cap loop and the fast limiter hold a die at. -/
def loopLevel (p : Power) (d : Nat) : Nat := max (nth 0 p.capLevel d) (nth 0 p.fastLevel d)

/-- Step 3: after 16 intervals below 95 % the die at the highest level, the lowest number on a tie, steps up. DEDUCED: log entry 57. -/
def capUp (s : State) : State :=
  match argMin (fun d => 3 - loopLevel s.power d) (rangeFrom 0 24) with
  | none => s
  | some d =>
    let v := loopLevel s.power d - 1
    { s with power := { s.power with capLevel := setNth s.power.capLevel d (min v (nth 0 s.power.capLevel d)),
                                     fastLevel := setNth s.power.fastLevel d (min v (nth 0 s.power.fastLevel d)) } }

/-- One interval of the cap loop. DEDUCED: log entry 57. -/
def capLoop (s : State) (x : Samples) : State :=
  let p := s.power
  let hist := (x.inputMw :: p.history).take 8
  let sum := hist.foldl (· + ·) 0
  let cap := effCapMw s
  let low := decide (100 * sum < 95 * (hist.length * cap))
  let s := capRelease { s with power := { p with history := hist, tenantHist := ((rangeFrom 0 16).map (attributed s x) :: p.tenantHist).take 8, belowCount := if low then p.belowCount + 1 else 0 } }
  if hist.length * cap < sum then capDown s x
  else if 16 ≤ s.power.belowCount then capUp s
  else s

/-! ### The events -/

/-- A sample of every sensor: thermal entry, coolant warnings, then the cap loop. -/
def execSensorSample (x : Samples) (s : State) : Res :=
  if fwRuns s = false then .next s else
  let therm := (rangeFrom 0 24).map (fun d => max (nth 0 s.power.thermLevel d) (heatLevel (heat s.order x d)))
  let warn := decide (40000 < x.inletMc) || decide (x.inletMc + 20000 < x.outletMc)
  let s' : State := { s with power := { s.power with lastSample := some x, thermLevel := therm, coolantWarn := warn } }
  let s' := if warn && !s.power.coolantWarn then logFree s' 24 else s'
  .next (capLoop (takeSensors s' x) x)

/-- A die leaves a thermal level, one step. -/
def execThermalLevelExit (die : Nat) (s : State) : Res :=
  match s.power.lastSample with
  | none => .next s
  | some x =>
    let l := nth 0 s.power.thermLevel die
    if l = 0 ∨ coolBelow (heat s.order x die) l = false then .next s
    else .next { s with power := { s.power with thermLevel := setNth s.power.thermLevel die (l - 1) } }

/-- The fast limiter of the converters: every die one level down, logged (R439). -/
def execFastLimiter (s : State) : Res :=
  if s.power.boot = .off then .next s else
  let p := s.power
  .next (logFree { s with power := { p with fastLevel := (rangeFrom 0 24).map (fun d => min 3 (demand p d + 1)) } } 24)

/-- A die completes a step of one level toward its demand (R436); each change is logged (R445). -/
def execDvfsStep (die : Nat) (s : State) : Res :=
  let l := nth 0 s.power.level die
  let d := demand s.power die
  if 24 ≤ die ∨ l = d then .next s
  else .next (logFree { s with power := { s.power with level := setNth s.power.level die (if l < d then l + 1 else l - 1) } } die)

/-- Dispatch is released on one more stage of dies (R426). DESIGN CHOICE: log entry 33. -/
def execDispatchRampStage (s : State) : Res :=
  .next (if s.power.boot = .ready then { s with power := { s.power with rampStage := s.power.rampStage + 1 } } else s)

end Sys2Proof.Machine
end

