-- ==== Sys2Proof/Machine/Dispatch.lean ====
section
/-!
DEFINITION. One arm per row of spec/opcode_table.json: the meaning of each command.
-/

namespace Sys2Proof.Machine

def exec (i : Instr) (s : State) : Host.Outcome State Fault Refusal :=
  match i with
  | .nop u => Sys2Proof.Machine.execNop u s
  | .halt u => Sys2Proof.Machine.execHalt u s
  | .br u => Sys2Proof.Machine.execBr u s
  | .loop u => Sys2Proof.Machine.execLoop u s
  | .wait u => Sys2Proof.Machine.execWait u s
  | .waitResume u => Sys2Proof.Machine.execWaitResume u s
  | .signal u => Sys2Proof.Machine.execSignal u s
  | .salu u => Sys2Proof.Machine.execSalu u s
  | .sli u => Sys2Proof.Machine.execSli u s
  | .scmp u => Sys2Proof.Machine.execScmp u s
  | .rdsr u => Sys2Proof.Machine.execRdsr u s
  | .wrsr u => Sys2Proof.Machine.execWrsr u s
  | .lds u => Sys2Proof.Machine.execLds u s
  | .sts u => Sys2Proof.Machine.execSts u s
  | .aset u => Sys2Proof.Machine.execAset u s
  | .aget u => Sys2Proof.Machine.execAget u s
  | .tbase u => Sys2Proof.Machine.execTbase u s
  | .chload u => Sys2Proof.Machine.execChload u s
  | .wcfa u => Sys2Proof.Machine.execWcfa u s
  | .tokset u => Sys2Proof.Machine.execTokset u s
  | .tokwait u => Sys2Proof.Machine.execTokwait u s
  | .tokwaitResume u => Sys2Proof.Machine.execTokwaitResume u s
  | .bnd u => Sys2Proof.Machine.execBnd u s
  | .copy u => Sys2Proof.Machine.execCopy u s
  | .fill u => Sys2Proof.Machine.execFill u s
  | .hostrd u => Sys2Proof.Machine.execHostrd u s
  | .hostwr u => Sys2Proof.Machine.execHostwr u s
  | .gather u => Sys2Proof.Machine.execGather u s
  | .moveDone u hostData ok => Sys2Proof.Machine.execMoveDone u hostData ok s
  | .mm u detect => Sys2Proof.Machine.execMm u detect s
  | .conv u detect => Sys2Proof.Machine.execConv u detect s
  | .mmaDrain u mismatch => Sys2Proof.Machine.execMmaDrain u mismatch s
  | .prologueTokenResume u => Sys2Proof.Machine.execPrologueTokenResume u s
  | .vecAdd u => Sys2Proof.Machine.execVecAdd u s
  | .vecSub u => Sys2Proof.Machine.execVecSub u s
  | .vecMul u => Sys2Proof.Machine.execVecMul u s
  | .vecFma u => Sys2Proof.Machine.execVecFma u s
  | .vecMin u => Sys2Proof.Machine.execVecMin u s
  | .vecMax u => Sys2Proof.Machine.execVecMax u s
  | .vecAbs u => Sys2Proof.Machine.execVecAbs u s
  | .vecNeg u => Sys2Proof.Machine.execVecNeg u s
  | .rsum u => Sys2Proof.Machine.execRsum u s
  | .rmax u => Sys2Proof.Machine.execRmax u s
  | .rmin u => Sys2Proof.Machine.execRmin u s
  | .vecStats u => Sys2Proof.Machine.execVecStats u s
  | .vecArgmax u => Sys2Proof.Machine.execVecArgmax u s
  | .maxpool u => Sys2Proof.Machine.execMaxpool u s
  | .avgpool u => Sys2Proof.Machine.execAvgpool u s
  | .rand u => Sys2Proof.Machine.execRand u s
  | .lookup u => Sys2Proof.Machine.execLookup u s
  | .load u => Sys2Proof.Machine.execLoad u s
  | .cvt u => Sys2Proof.Machine.execCvt u s
  | .attend u detect => Sys2Proof.Machine.execAttend u detect s
  | .attendPassEnd u mismatch => Sys2Proof.Machine.execAttendPassEnd u mismatch s
  | .kvappend u => Sys2Proof.Machine.execKvappend u s
  | .kvappendDone u mismatch => Sys2Proof.Machine.execKvappendDone u mismatch s
  | .push u => Sys2Proof.Machine.execPush u s
  | .pushDelivery src dst => Sys2Proof.Machine.execPushDelivery src dst s
  | .shadowCopyDone ctx vpage => Sys2Proof.Machine.execShadowCopyDone ctx vpage s
  | .sqDoorbell ctx q tail => Sys2Proof.Machine.execSqDoorbell ctx q tail s
  | .cqHeadWrite ctx head => Sys2Proof.Machine.execCqHeadWrite ctx head s
  | .cqCfgWrite ctx value => Sys2Proof.Machine.execCqCfgWrite ctx value s
  | .sqCfgWrite ctx q value => Sys2Proof.Machine.execSqCfgWrite ctx q value s
  | .registerWrite ctx offset value => Sys2Proof.Machine.execRegisterWrite ctx offset value s
  | .submit ctx q => Sys2Proof.Machine.execSubmit ctx q s
  | .tload ctx q => Sys2Proof.Machine.execTload ctx q s
  | .tfree ctx q => Sys2Proof.Machine.execTfree ctx q s
  | .templateRelease ctx tid => Sys2Proof.Machine.execTemplateRelease ctx tid s
  | .launch ctx q => Sys2Proof.Machine.execLaunch ctx q s
  | .accord ctx q => Sys2Proof.Machine.execAccord ctx q s
  | .reservedPacket ctx q => Sys2Proof.Machine.execReservedPacket ctx q s
  | .iterationAdmit ctx => Sys2Proof.Machine.execIterationAdmit ctx s
  | .taskAdmit ctx => Sys2Proof.Machine.execTaskAdmit ctx s
  | .taskDispatch die kind => Sys2Proof.Machine.execTaskDispatch die kind s
  | .dispatchNeighbour ctx task => Sys2Proof.Machine.execDispatchNeighbour ctx task s
  | .taskComplete u acked => Sys2Proof.Machine.execTaskComplete u acked s
  | .boundaryCommit ctx => Sys2Proof.Machine.execBoundaryCommit ctx s
  | .moduleBoundary => Sys2Proof.Machine.execModuleBoundary s
  | .leafFree ctx seq => Sys2Proof.Machine.execLeafFree ctx seq s
  | .kvSlotGrant ctx => Sys2Proof.Machine.execKvSlotGrant ctx s
  | .pageSetSwapped ctx seq page => Sys2Proof.Machine.execPageSetSwapped ctx seq page s
  | .pageSetResident ctx seq page ok => Sys2Proof.Machine.execPageSetResident ctx seq page ok s
  | .nearReadRetry die chan line r => Sys2Proof.Machine.execNearReadRetry die chan line r s
  | .symbolDead die chan sym => Sys2Proof.Machine.execSymbolDead die chan sym s
  | .evacuationComplete far die => Sys2Proof.Machine.execEvacuationComplete far die s
  | .pageRetire far die page balance => Sys2Proof.Machine.execPageRetire far die page balance s
  | .pageMoveComplete far die page => Sys2Proof.Machine.execPageMoveComplete far die page s
  | .pageScrubDone far die page => Sys2Proof.Machine.execPageScrubDone far die page s
  | .maintPeriodicRequest act target err => Sys2Proof.Machine.execMaintPeriodicRequest act target err s
  | .maintActivityStart act target => Sys2Proof.Machine.execMaintActivityStart act target s
  | .maintActivityDone act target found => Sys2Proof.Machine.execMaintActivityDone act target found s
  | .flitReplay edge dir seq ok => Sys2Proof.Machine.execFlitReplay edge dir seq ok s
  | .edgeRetrain edge failA failB => Sys2Proof.Machine.execEdgeRetrain edge failA failB s
  | .squallAbortEpoch src ctx att cause epoch => Sys2Proof.Machine.execSquallAbortEpoch src ctx att cause epoch s
  | .squallAbortDie src cause => Sys2Proof.Machine.execSquallAbortDie src cause s
  | .squallStopContext src ctx code => Sys2Proof.Machine.execSquallStopContext src ctx code s
  | .squallDrydown src ctx => Sys2Proof.Machine.execSquallDrydown src ctx s
  | .quiescence die ctx => Sys2Proof.Machine.execQuiescence die ctx s
  | .pllLossOfLock die isl idx f => Sys2Proof.Machine.execPllLossOfLock die isl idx f s
  | .unitWatchExpiry u => Sys2Proof.Machine.execUnitWatchExpiry u s
  | .unitStopTimeout u => Sys2Proof.Machine.execUnitStopTimeout u s
  | .contextWatchExpiry ctx => Sys2Proof.Machine.execContextWatchExpiry ctx s
  | .islandRestart k die idx ok => Sys2Proof.Machine.execIslandRestart k die idx ok s
  | .resetComplete d failed ctrlFailed => Sys2Proof.Machine.execResetComplete d failed ctrlFailed s
  | .drydownComplete ctx => Sys2Proof.Machine.execDrydownComplete ctx s
  | .linkUp port => Sys2Proof.Machine.execLinkUp port s
  | .linkDown port => Sys2Proof.Machine.execLinkDown port s
  | .lldpTransmit port => Sys2Proof.Machine.execLldpTransmit port s
  | .lldpReceive port frame f => Sys2Proof.Machine.execLldpReceive port frame f s
  | .arpRequest port target f => Sys2Proof.Machine.execArpRequest port target f s
  | .neighbourSolicitation port target f => Sys2Proof.Machine.execNeighbourSolicitation port target f s
  | .pfcFrame port prio quanta => Sys2Proof.Machine.execPfcFrame port prio quanta s
  | .rdmaWrite slot key addr data f => Sys2Proof.Machine.execRdmaWrite slot key addr data f s
  | .pfcXon port occupancy => Sys2Proof.Machine.execPfcXon port occupancy s
  | .pfcRepeat port => Sys2Proof.Machine.execPfcRepeat port s
  | .rdmaRead slot key addr len f => Sys2Proof.Machine.execRdmaRead slot key addr len f s
  | .send slot f => Sys2Proof.Machine.execSend slot f s
  | .cnpReceive slot qp spaced => Sys2Proof.Machine.execCnpReceive slot qp spaced s
  | .rateIncrease slot qp => Sys2Proof.Machine.execRateIncrease slot qp s
  | .ackTimeout slot qp => Sys2Proof.Machine.execAckTimeout slot qp s
  | .beacon port => Sys2Proof.Machine.execBeacon port s
  | .attachReq m f => Sys2Proof.Machine.execAttachReq m f s
  | .attachAuth port m sigOk hconf f => Sys2Proof.Machine.execAttachAuth port m sigOk hconf f s
  | .attachSessionTimeout sid => Sys2Proof.Machine.execAttachSessionTimeout sid s
  | .rekey slot m b f => Sys2Proof.Machine.execRekey slot m b f s
  | .rekeyStart slot => Sys2Proof.Machine.execRekeyStart slot s
  | .oldKeyExpiry slot => Sys2Proof.Machine.execOldKeyExpiry slot s
  | .register slot m b f => Sys2Proof.Machine.execRegister slot m b f s
  | .ctxCreate slot m b f => Sys2Proof.Machine.execCtxCreate slot m b f s
  | .ctxDestroy slot m ctx f => Sys2Proof.Machine.execCtxDestroy slot m ctx f s
  | .detach slot m mode f => Sys2Proof.Machine.execDetach slot m mode f s
  | .detachRelease slot => Sys2Proof.Machine.execDetachRelease slot s
  | .keepalive slot m f => Sys2Proof.Machine.execKeepalive slot m f s
  | .keepaliveSend slot => Sys2Proof.Machine.execKeepaliveSend slot s
  | .keepaliveTimeout slot => Sys2Proof.Machine.execKeepaliveTimeout slot s
  | .holdPeriodEnd slot => Sys2Proof.Machine.execHoldPeriodEnd slot s
  | .videoOpen u => Sys2Proof.Machine.execVideoOpen u s
  | .encode u => Sys2Proof.Machine.execEncode u s
  | .decode u hostData => Sys2Proof.Machine.execDecode u hostData s
  | .videoClose u => Sys2Proof.Machine.execVideoClose u s
  | .getInventory tag => Sys2Proof.Machine.execGetInventory tag s
  | .readReg tag offset => Sys2Proof.Machine.execReadReg tag offset s
  | .writeReg tag offset value => Sys2Proof.Machine.execWriteReg tag offset value s
  | .logRead tag index count => Sys2Proof.Machine.execLogRead tag index count s
  | .sensorRead tag index count => Sys2Proof.Machine.execSensorRead tag index count s
  | .tenantRead tag index => Sys2Proof.Machine.execTenantRead tag index s
  | .tenantWrite tag index entry => Sys2Proof.Machine.execTenantWrite tag index entry s
  | .tenantDelete tag index force => Sys2Proof.Machine.execTenantDelete tag index force s
  | .colyrAccord tag items => Sys2Proof.Machine.execColyrAccord tag items s
  | .attest tag nonce => Sys2Proof.Machine.execAttest tag nonce s
  | .fwBegin tag length => Sys2Proof.Machine.execFwBegin tag length s
  | .fwData tag offset data => Sys2Proof.Machine.execFwData tag offset data s
  | .fwCommit tag sigOk => Sys2Proof.Machine.execFwCommit tag sigOk s
  | .fwStatus tag => Sys2Proof.Machine.execFwStatus tag s
  | .fuseSvn tag v => Sys2Proof.Machine.execFuseSvn tag v s
  | .maintReq tag act target => Sys2Proof.Machine.execMaintReq tag act target s
  | .sillageRead tag die offset len => Sys2Proof.Machine.execSillageRead tag die offset len s
  | .resetComputePart tag => Sys2Proof.Machine.execResetComputePart tag s
  | .resetModule tag => Sys2Proof.Machine.execResetModule tag s
  | .drydown tag ctx => Sys2Proof.Machine.execDrydown tag ctx s
  | .debugUnlock tag serial nonce sigOk => Sys2Proof.Machine.execDebugUnlock tag serial nonce sigOk s
  | .unknownCommand tag cmd => Sys2Proof.Machine.execUnknownCommand tag cmd s
  | .setEndpointId op eid => Sys2Proof.Machine.execSetEndpointId op eid s
  | .getEndpointId => Sys2Proof.Machine.execGetEndpointId s
  | .getMctpVersionSupport msgType => Sys2Proof.Machine.execGetMctpVersionSupport msgType s
  | .getMessageTypeSupport => Sys2Proof.Machine.execGetMessageTypeSupport s
  | .getVendorDefinedMessageSupport selector => Sys2Proof.Machine.execGetVendorDefinedMessageSupport selector s
  | .recoveryData port source off data sigOk => Sys2Proof.Machine.execRecoveryData port source off data sigOk s
  | .recoveryDone port source length => Sys2Proof.Machine.execRecoveryDone port source length s
  | .recoveryTimeout => Sys2Proof.Machine.execRecoveryTimeout s
  | .powerUp => Sys2Proof.Machine.execPowerUp s
  | .bootVerify sigOk => Sys2Proof.Machine.execBootVerify sigOk s
  | .nearTrainingDone failing => Sys2Proof.Machine.execNearTrainingDone failing s
  | .farTrainingDone deadLanes => Sys2Proof.Machine.execFarTrainingDone deadLanes s
  | .bootComplete failed ctrlFailed => Sys2Proof.Machine.execBootComplete failed ctrlFailed s
  | .computeHold => Sys2Proof.Machine.execComputeHold s
  | .computeHoldRelease => Sys2Proof.Machine.execComputeHoldRelease s
  | .inputShutdown => Sys2Proof.Machine.execInputShutdown s
  | .inputOvervoltage => Sys2Proof.Machine.execInputOvervoltage s
  | .converterFailure n => Sys2Proof.Machine.execConverterFailure n s
  | .fastLimiter => Sys2Proof.Machine.execFastLimiter s
  | .sensorSample x => Sys2Proof.Machine.execSensorSample x s
  | .thermalLevelExit die => Sys2Proof.Machine.execThermalLevelExit die s
  | .thermalTrip die => Sys2Proof.Machine.execThermalTrip die s
  | .dvfsStep die => Sys2Proof.Machine.execDvfsStep die s
  | .dispatchRampStage => Sys2Proof.Machine.execDispatchRampStage s
  | .refclkLoss => Sys2Proof.Machine.execRefclkLoss s
  | .refclkReturn => Sys2Proof.Machine.execRefclkReturn s
  | .sdsclkLoss east => Sys2Proof.Machine.execSdsclkLoss east s
  | .sdsclkReturn east => Sys2Proof.Machine.execSdsclkReturn east s
  | .resetPin => Sys2Proof.Machine.execResetPin s
  | .flashSel level => Sys2Proof.Machine.execFlashSel level s
  | .reservedInstruction u => Sys2Proof.Machine.execReservedInstruction u s
  | .programBoundsFetch u => Sys2Proof.Machine.execProgramBoundsFetch u s
  | .farWordRetry e => Sys2Proof.Machine.execFarWordRetry e s
  | .reservedAttachMessage port m type f => Sys2Proof.Machine.execReservedAttachMessage port m type f s
  | .unprotectedFrameWindowEnd slot => Sys2Proof.Machine.execUnprotectedFrameWindowEnd slot s
  | .pfcPauseExpiry port prio => Sys2Proof.Machine.execPfcPauseExpiry port prio s
  | .railsInRegulation => Sys2Proof.Machine.execRailsInRegulation s
  | .resetPinRelease => Sys2Proof.Machine.execResetPinRelease s
  | .jtagInstruction ir => Sys2Proof.Machine.execJtagInstruction ir s

end Sys2Proof.Machine
end

