-- ==== Sys2Proof/WellFormed.lean ====
section
/-!
DEFINITION. Well-formed commands: every unit, die, context, queue, port, host slot and edge that a command names is one the module has.
-/

namespace Sys2Proof

/-- The unit exists (R13, R18, R19). -/
def unitOk (u : UnitId) : Bool := u.exists_ .full
/-- A context number is 0 to 255 (R15). -/
def ctxOk (c : Nat) : Bool := decide (c < 256)
/-- Four submission queues (R101). -/
def queueOk (q : Nat) : Bool := decide (q < 4)
/-- Compute dies 0 to 23 (R13). -/
def dieOk (d : Nat) : Bool := decide (d < 24)
/-- Compute dies and IO0 to IO3, numbered 24 to 27 (R13). -/
def anyDieOk (d : Nat) : Bool := decide (d < 28)
/-- Logical ports 0 to 31 (R326). -/
def portOk (p : Nat) : Bool := decide (p < 32)
/-- Host slots 0 to 15 (R333). -/
def slotOk (h : Nat) : Bool := decide (h < 16)
/-- A one-byte field of a management message (R409). -/
def byteOk (t : Nat) : Bool := decide (t < 256)
/-- Priorities of flow control, 0 to 7 (R327). -/
def prioOk (p : Nat) : Bool := decide (p < 8)
/-- Tradewind edges 0 to 45 (R17). -/
def edgeOk (e : Nat) : Bool := decide (e < 46)

/-- A well-formed command. What a command's operands may say beyond these names is the command's own meaning. -/
def Instr.wf (i : Instr) : Bool :=
  match i with
  | .nop u | .halt u | .br u | .loop u | .wait u | .waitResume u | .signal u | .salu u | .sli u | .scmp u | .rdsr u | .wrsr u | .lds u
  | .sts u | .aset u | .aget u | .tbase u | .chload u | .wcfa u | .tokset u | .tokwait u | .tokwaitResume u | .bnd u | .copy u | .fill u
  | .hostrd u | .hostwr u | .gather u | .moveDone u _ _ | .mm u _ | .conv u _ | .mmaDrain u _ | .prologueTokenResume u | .vecAdd u
  | .vecSub u | .vecMul u | .vecFma u | .vecMin u | .vecMax u | .vecAbs u | .vecNeg u | .rsum u | .rmax u | .rmin u | .vecStats u
  | .vecArgmax u | .maxpool u | .avgpool u | .rand u | .lookup u | .load u | .cvt u | .attend u _ | .attendPassEnd u _ | .kvappend u
  | .kvappendDone u _ | .push u | .taskComplete u _ | .unitWatchExpiry u | .unitStopTimeout u | .videoOpen u | .encode u | .decode u _
  | .videoClose u | .reservedInstruction u | .programBoundsFetch u => unitOk u
  | .pushDelivery src dst => dieOk src && dieOk dst
  | .shadowCopyDone ctx _ | .cqHeadWrite ctx _ | .cqCfgWrite ctx _ | .registerWrite ctx _ _ | .templateRelease ctx _
  | .iterationAdmit ctx | .taskAdmit ctx | .dispatchNeighbour ctx _ | .boundaryCommit ctx | .leafFree ctx _ | .kvSlotGrant ctx
  | .pageSetSwapped ctx _ _ | .pageSetResident ctx _ _ _ | .contextWatchExpiry ctx | .drydownComplete ctx => ctxOk ctx
  | .sqDoorbell ctx q _ | .sqCfgWrite ctx q _ | .submit ctx q | .tload ctx q | .tfree ctx q | .launch ctx q | .accord ctx q
  | .reservedPacket ctx q => ctxOk ctx && queueOk q
  | .taskDispatch die _ | .pllLossOfLock die _ _ _ | .islandRestart _ die _ _ => anyDieOk die
  | .moduleBoundary | .maintPeriodicRequest _ _ _ | .maintActivityStart _ _ | .maintActivityDone _ _ _ | .resetComplete _ _ _
  | .attachSessionTimeout _ | .setEndpointId _ _ | .getEndpointId | .getMctpVersionSupport _
  | .getMessageTypeSupport | .getVendorDefinedMessageSupport _ | .recoveryTimeout | .powerUp | .bootVerify _ | .nearTrainingDone _
  | .farTrainingDone _ | .bootComplete _ _ | .computeHold | .computeHoldRelease | .inputShutdown | .inputOvervoltage | .converterFailure _
  | .fastLimiter | .sensorSample _ | .dispatchRampStage | .refclkLoss | .refclkReturn | .sdsclkLoss _ | .sdsclkReturn _ | .resetPin
  | .flashSel _ | .railsInRegulation | .resetPinRelease | .jtagInstruction _ => true
  | .nearReadRetry die _ _ _ | .symbolDead die _ _ | .evacuationComplete _ die | .pageRetire _ die _ _ | .pageMoveComplete _ die _
  | .pageScrubDone _ die _ | .thermalLevelExit die | .thermalTrip die | .dvfsStep die => dieOk die
  | .farWordRetry e => (match e with
    | .far stack _ _ _ _ => dieOk stack
    | .unit u _ => unitOk u
    | .path die _ => anyDieOk die
    | .encryption ctx _ => ctxOk ctx)
  | .flitReplay edge _ _ _ | .edgeRetrain edge _ _ => edgeOk edge
  | .squallAbortEpoch src ctx _ _ _ | .squallStopContext src ctx _ | .squallDrydown src ctx => anyDieOk src && ctxOk ctx
  | .squallAbortDie src _ => anyDieOk src
  | .quiescence die ctx => anyDieOk die && ctxOk ctx
  | .linkUp port | .linkDown port | .lldpTransmit port | .lldpReceive port _ _ | .arpRequest port _ _ | .neighbourSolicitation port _ _
  | .pfcXon port _ | .pfcRepeat port | .beacon port | .recoveryData port _ _ _ _ | .recoveryDone port _ _
  | .reservedAttachMessage port _ _ _ | .attachAuth port _ _ _ _ => portOk port
  | .pfcFrame port prio _ | .pfcPauseExpiry port prio => portOk port && prioOk prio
  | .rdmaWrite slot _ _ _ _ | .rdmaRead slot _ _ _ _ | .send slot _ | .cnpReceive slot _ _ | .rateIncrease slot _ | .ackTimeout slot _
  | .rekey slot _ _ _ | .rekeyStart slot | .oldKeyExpiry slot | .register slot _ _ _ | .ctxCreate slot _ _ _ | .detach slot _ _ _
  | .detachRelease slot | .keepalive slot _ _ | .keepaliveSend slot | .keepaliveTimeout slot | .holdPeriodEnd slot | .unprotectedFrameWindowEnd slot => slotOk slot
  | .ctxDestroy slot _ ctx _ => slotOk slot && ctxOk ctx
  | .attachReq m _ => portOk m.port
  | .getInventory tag | .readReg tag _ | .writeReg tag _ _ | .logRead tag _ _ | .sensorRead tag _ _ | .tenantRead tag _
  | .tenantWrite tag _ _ | .tenantDelete tag _ _ | .colyrAccord tag _ | .attest tag _ | .fwBegin tag _ | .fwData tag _ _
  | .fwCommit tag _ | .fwStatus tag | .fuseSvn tag _ | .maintReq tag _ _ | .sillageRead tag _ _ _ | .resetComputePart tag
  | .resetModule tag | .debugUnlock tag _ _ _ => byteOk tag
  | .drydown tag ctx => byteOk tag && ctxOk ctx
  | .unknownCommand tag cmd => byteOk tag && byteOk cmd

end Sys2Proof
end

