-- ==== Sys2Proof/Safety.lean ====
section
/-!
DEFINITION. What claims say of runs: a step that goes on, the states a run reaches, the invariant that every step keeps.
-/

namespace Sys2Proof.Machine

/-- One step goes on from s to t. -/
def StepsTo (s t : State) : Prop := step s = .next t

/-- t is reached from s by steps that all go on. -/
inductive Reaches (s : State) : State → Prop where
  | here : Reaches s s
  | more (t u : State) : Reaches s t → StepsTo t u → Reaches s u

/-- The memory keeps its canonical form, so that equal memories are equal data. -/
def MemInv (s : State) : Prop := Memory.wf s.mem = true

/-- Stored images in the same canonical form: in flash, running, staged for an update, and of a recovery session. -/
def imagesWf (w : Firmware) (r : Option RecSession) : Bool :=
  Memory.wf w.flash && Memory.wf w.runBlock && Memory.wf w.staged && r.all (fun x => Memory.wf x.image)

/-- Every stored image keeps the canonical form. -/
def ImagesInv (s : State) : Prop := imagesWf s.fw s.recSession = true

/-- What stands at the PC of a running unit: its task, its context, and an instruction word of a class and operation that the task's
kind allows (R65 to R67, R75). Whether the predicate holds is said apart. -/
structure AtPc (s : State) (u : UnitId) (r : Run) (c : Ctx) (w : InstrWord) (cl op : Nat) : Prop where
  run : s.run? u = some r
  running : r.phase = .running
  ctx : s.ctx? r.ctx = some c
  inside : pcInside r = true
  fetched : fetchWord s r c = .ok w
  defined : reservedWord u.kind w = false
  cls : wClass w = cl
  opc : wOp w = op

/-- The word at the PC executes: its predicate holds (R66). -/
structure Issues (s : State) (u : UnitId) (r : Run) (c : Ctx) (w : InstrWord) (cl op : Nat) : Prop extends AtPc s u r c w cl op where
  pred : predicate r w = true

/-- Unit, class, operation and word-only check of each row that is the issue of an instruction (R66, R73, R77 to R79, R81, R83 to R87).
DEDUCED: log entry 21. -/
def issueRow : Instr → Option (UnitId × Nat × Nat × (UnitKind → InstrWord → Bool))
  | .nop u => some (u, clCTRL, 0x00, noCheck)
  | .halt u => some (u, clCTRL, 0x01, noCheck)
  | .br u => some (u, clCTRL, 0x02, noCheck)
  | .loop u => some (u, clCTRL, 0x03, fun _ w => fLEN w != 0)
  | .wait u => some (u, clCTRL, 0x04, noCheck)
  | .signal u => some (u, clCTRL, 0x05, noCheck)
  | .salu u => some (u, clCTRL, 0x06, fun _ w => decide (fSUB w ≤ 0xC))
  | .sli u => some (u, clCTRL, 0x07, noCheck)
  | .scmp u => some (u, clCTRL, 0x08, fun _ w => decide (fSUB w ≤ 0x8) && fSD w % 8 != 0)
  | .rdsr u => some (u, clCTRL, 0x09, fun _ w => decide (fIMM w % 256 ≤ 7))
  | .wrsr u => some (u, clCTRL, 0x0A, noCheck)
  | .lds u => some (u, clCTRL, 0x0B, noCheck)
  | .sts u => some (u, clCTRL, 0x0C, noCheck)
  | .aset u => some (u, clCTRL, 0x0D, noCheck)
  | .aget u => some (u, clCTRL, 0x0E, noCheck)
  | .tbase u => some (u, clCTRL, 0x0F, noCheck)
  | .chload u => some (u, clCTRL, 0x10, noCheck)
  | .wcfa u => some (u, clSYNC, 0x00, noCheck)
  | .tokset u => some (u, clSYNC, 0x01, noCheck)
  | .tokwait u => some (u, clSYNC, 0x02, noCheck)
  | .bnd u => some (u, clSYNC, 0x03, noCheck)
  | .copy u => some (u, clMOVE, 0x00, noCheck)
  | .fill u => some (u, clMOVE, 0x01, noCheck)
  | .hostrd u => some (u, clMOVE, 0x02, noCheck)
  | .hostwr u => some (u, clMOVE, 0x03, noCheck)
  | .gather u => some (u, clMOVE, 0x04, noCheck)
  | .mm u _ => some (u, clMMA, 0x00, mmStatic)
  | .conv u _ => some (u, clWIN, 0x00, convStatic)
  | .vecAdd u => some (u, clVEC, 0x00, noCheck)
  | .vecSub u => some (u, clVEC, 0x01, noCheck)
  | .vecMul u => some (u, clVEC, 0x02, noCheck)
  | .vecFma u => some (u, clVEC, 0x03, noCheck)
  | .vecMin u => some (u, clVEC, 0x04, noCheck)
  | .vecMax u => some (u, clVEC, 0x05, noCheck)
  | .vecAbs u => some (u, clVEC, 0x06, noCheck)
  | .vecNeg u => some (u, clVEC, 0x07, noCheck)
  | .rsum u => some (u, clVEC, 0x10, axisOk)
  | .rmax u => some (u, clVEC, 0x11, axisOk)
  | .rmin u => some (u, clVEC, 0x12, axisOk)
  | .vecStats u => some (u, clVEC, 0x13, axisOk)
  | .vecArgmax u => some (u, clVEC, 0x14, axisOk)
  | .maxpool u => some (u, clVEC, 0x18, noCheck)
  | .avgpool u => some (u, clVEC, 0x19, noCheck)
  | .rand u => some (u, clVEC, 0x20, noCheck)
  | .lookup u => some (u, clTAB, 0x00, noCheck)
  | .load u => some (u, clTAB, 0x01, noCheck)
  | .cvt u => some (u, clCVT, 0x00, fun _ w => cSCL w != 3)
  | .attend u _ => some (u, clATTN, 0x00, attnStatic)
  | .kvappend u => some (u, clATTN, 0x01, noCheck)
  | .push u => some (u, clPUSH, 0x00, pushStatic)
  | _ => none

/-- Physical places that a store of n bytes at an address of a context reaches: each byte's place and, while its page moves, the same
byte of the page the move fills (R123, R285). -/
def storedAt (cn : Nat) (c : Ctx) (va n : Nat) : List Nat :=
  (rangeFrom va n).flatMap (fun v =>
    match translate cn c v true with
    | .error _ => []
    | .ok p =>
      p :: (match (NMap.get? c.pages (vpageOf (v % 2 ^ 48))).bind (fun e => e.moveTo) with
        | some q => [q + v % pageSize]
        | none => []))

/-- A task whose instruction has written: held while shadow copies of the pages it wrote are under way (R123). -/
def afterWrites (pages : List Nat) (r : Run) : Run := if pages = [] then r else { r with phase := .waitShadow pages }

/-- The host as a frame of its finds it: packet numbers moved on, and unprotected frames refused once a protected one has come (R329). -/
def frameHost (h : HostRec) (f : FrameInfo) : HostRec :=
  match f.sec with
  | none => h
  | some x => (h.verifies x).elim h (h.received x)

/-- A frame that is taken: its host is attached, or `held` while the frame counts during a hold as well, by a port that is up; its ICRC and FCS
are right, it fits the receive region of its priority, and it verifies, or is unprotected while such frames are accepted (R278, R327 to R329). -/
structure FrameTaken (s : State) (slot : Nat) (h : HostRec) (f : FrameInfo) (held : Bool) : Prop where
  host : s.host? slot = some h
  up : portUp s h.port = true
  linked : h.linked = true ∨ (held = true ∧ h.phase = .hold)
  sender : f.mac = h.mac
  intact : f.crcOk = true
  room : f.occupancy ≤ portBuffer s h.port / 2
  verified : match f.sec with
    | none => h.plainOk = true
    | some x => (h.verifies x).isSome = true

/-- The state in which what such a frame asks is done: its bytes counted, its packet number taken, a congestion mark answered. -/
def frameState (s : State) (slot : Nat) (h : HostRec) (f : FrameInfo) : State :=
  let a := (protect (arrive s h.port f).1 slot h f false).1
  if f.ce = true ∧ f.cnpDue = true then a.toHost slot none none (.cnp slot) else a

/-- A frame on a port that names no host slot is taken: the port is up, the frame whole, with room, unprotected, and not of a host that
sends protected frames, unless its message may always be unprotected (R327 to R329). -/
structure PortFrameTaken (s : State) (port : Nat) (f : FrameInfo) (exempt : Bool) : Prop where
  up : portUp s port = true
  intact : f.crcOk = true
  room : f.occupancy ≤ portBuffer s port / 2
  plain : f.sec = none
  sender : ∀ slot h, hostByMac s port f.mac = some (slot, h) → exempt = true ∨ h.plainOk = true

/-- The state in which what it asks is done: its bytes are counted. -/
def portState (s : State) (port : Nat) (f : FrameInfo) : State := (arrive s port f).1

/-- A message of an attached host that is taken: its frame is, every byte has arrived, its form is good, it is of the host's session and
protected, and its number is new (R334, R335). -/
structure MessageTaken (s : State) (slot : Nat) (h : HostRec) (m : MsgHead) (len : Nat) (f : FrameInfo) (held : Bool) : Prop
    extends FrameTaken s slot h f held where
  whole : msgComplete m = true
  form : msgWellFormed m len = true
  session : m.sid = h.sid
  inside : f.sec.isSome = true
  fresh : NMap.get? h.replies m.mseq = none

/-- The host as such a message finds it: the module is at work on it. -/
def messageHost (h : HostRec) (m : MsgHead) (f : FrameInfo) : HostRec := { frameHost h f with replies := NMap.set h.replies m.mseq none }

/-- The state in which what the message asks is done. -/
def messageState (s : State) (slot : Nat) (h : HostRec) (m : MsgHead) (f : FrameInfo) : State :=
  (frameState s slot h f).setHost slot (messageHost h m f)

/-- Neither a fault nor a refusal. -/
def goesOn (o : Host.Outcome State Fault Refusal) : Prop :=
  match o with
  | .next _ => True
  | .fault _ => False
  | .refused _ => False

end Sys2Proof.Machine
end

