-- ==== Sys2Proof/Certificates/Slice0/Obligations.lean ====
section
/-!
DEFINITION. The statements for the provers, each a proposition about the model.
-/

open Sys2Proof Sys2Proof.Machine

/-! ### The block as a whole -/

/-- A step takes the front command and runs it on the state with the rest of the queue; on an empty queue the block idles
(log entry 1: the idle step is the model's choice). -/
def Obligations.StepRunsTheFrontCommand : Prop :=  (∀ (i : Instr) (rest : List Instr) (s : State), step { s with pending := i :: rest } = exec i { s with pending := rest }) ∧
  (∀ s : State, s.pending = [] → step s = .next s)

/-! ### Instruction issue (chapter 3) -/

/-- R65 to R67, R75: an instruction whose predicate is false, and which passes the word-only checks, has no effect but to move the PC on. A reserved value
in a checked operand field is an illegal instruction whatever the predicate, at the index of the instruction; so is a word outside the encodings of the
task's kind; a fetch outside the program's extent is a program-bounds fault.
Choices of the model in it: log entry 21. -/
def Obligations.ChecksComeBeforeThePredicate : Prop :=
  (∀ (s : State) (i : Instr) (u : UnitId) (cl op : Nat) (st : UnitKind → InstrWord → Bool) (r : Run) (c : Ctx) (w : InstrWord),
     issueRow i = some (u, cl, op, st) → AtPc s u r c w cl op → st u.kind w = true → predicate r w = false →
     exec i s = .next (s.setRun u (advance r))) ∧
  (∀ (s : State) (i : Instr) (u : UnitId) (cl op : Nat) (st : UnitKind → InstrWord → Bool) (r : Run) (c : Ctx) (w : InstrWord),
     issueRow i = some (u, cl, op, st) → AtPc s u r c w cl op → st u.kind w = false →
     exec i s = .next (unitFault s u r .illegalInstruction (pcIndex r))) ∧
  ((∀ (s : State) (u : UnitId) (r : Run) (c : Ctx) (w : InstrWord),
     s.run? u = some r → r.phase = .running → s.ctx? r.ctx = some c → pcInside r = true → fetchWord s r c = .ok w →
     (9 < wClass w ∨ classAllowed u.kind (wClass w) = false ∨ opDefined (wClass w) (wOp w) = false ∨ wIver w ≠ 0) →
     exec (.reservedInstruction u) s = .next (unitFault s u r .illegalInstruction (pcIndex r))) ∧
   (∀ (s : State) (u : UnitId) (r : Run) (c : Ctx),
     s.run? u = some r → r.phase = .running → s.ctx? r.ctx = some c →
     (r.pc < tProg r.desc ∨ tProg r.desc + 16 * tPlen r.desc ≤ r.pc) →
     exec (.programBoundsFetch u) s = .next (unitFault s u r .programBounds (pcIndex r))))

/-- The operations of the CTRL class on registers alone (R73): each executes by writing its one destination, and the PC moves on. -/
def Obligations.ScalarRegisterInstructionsComplete : Prop :=  ∀ (s : State) (u : UnitId) (r : Run) (c : Ctx) (w : InstrWord),
    (Issues s u r c w clCTRL 0x00 → exec (.nop u) s = .next (s.setRun u (advance r))) ∧
    (Issues s u r c w clCTRL 0x05 →
      exec (.signal u) s = .next (s.setRun u (advance { r with user := (sreg r.S (fSA w)).setWidth 32 }))) ∧
    (Issues s u r c w clCTRL 0x07 →
      exec (.sli u) s = .next (s.setRun u (advance { r with S := setS r.S (fSD w) (BitVec.ofNat 64 (fIMM w)) }))) ∧
    (Issues s u r c w clCTRL 0x0A →
      ∃ a : Bits32, (∀ k < 32, a.getLsbD k = (r.astat.getLsbD k && !(sreg r.S (fSA w)).getLsbD k)) ∧
        exec (.wrsr u) s = .next (s.setRun u (advance { r with astat := a }))) ∧
    (Issues s u r c w clCTRL 0x0D →
      let v := ((if fSUB w % 2 = 1 then (sreg r.S (fSA w)).toNat else areg r.A (fAX w)) + fIMM w) % 2 ^ 48
      exec (.aset u) s = .next (s.setRun u (advance { r with A := setNth r.A (fAX w) v }))) ∧
    (Issues s u r c w clCTRL 0x0E →
      exec (.aget u) s = .next (s.setRun u (advance { r with S := setS r.S (fSD w) (BitVec.ofNat 64 (areg r.A (fAX w))) })))

/-- R74: the number each SUB value of SALU leaves in S[SD], by integers, and the truth of each comparison of SCMP in P[SD[2:0]]; reserved SUB values, and
a destination P0, are illegal instructions. -/
def Obligations.SaluAndScmpComputeTheListedOperation : Prop :=
  (∀ (s : State) (u : UnitId) (r : Run) (c : Ctx) (w : InstrWord),
     (Issues s u r c w clCTRL 0x06 → fSUB w ≤ 0xC →
       ∃ v : Word64, exec (.salu u) s = .next (s.setRun u (advance { r with S := setS r.S (fSD w) v })) ∧
         let a := sreg r.S (fSA w)
         let b := if fIMMSEL w then BitVec.ofNat 64 (fIMM w) else sreg r.S (fSB w)
         (fSUB w = 0x0 → v.toNat = (a.toNat + b.toNat) % 2 ^ 64) ∧
         (fSUB w = 0x1 → v.toNat = (2 ^ 64 + a.toNat - b.toNat) % 2 ^ 64) ∧
         (fSUB w = 0x2 → v.toNat = (a.toNat * b.toNat) % 2 ^ 64) ∧
         (fSUB w = 0x3 → ∀ k < 64, v.getLsbD k = (a.getLsbD k && b.getLsbD k)) ∧
         (fSUB w = 0x4 → ∀ k < 64, v.getLsbD k = (a.getLsbD k || b.getLsbD k)) ∧
         (fSUB w = 0x5 → ∀ k < 64, v.getLsbD k = (a.getLsbD k != b.getLsbD k)) ∧
         (fSUB w = 0x6 → v.toNat = (a.toNat * 2 ^ (b.toNat % 64)) % 2 ^ 64) ∧
         (fSUB w = 0x7 → v.toNat = a.toNat / 2 ^ (b.toNat % 64)) ∧
         (fSUB w = 0x8 → v.toInt = a.toInt / (2 ^ (b.toNat % 64) : Nat)) ∧
         (fSUB w = 0x9 → v.toInt = min a.toInt b.toInt) ∧
         (fSUB w = 0xA → v.toInt = max a.toInt b.toInt) ∧
         (fSUB w = 0xB → v.toNat = min a.toNat b.toNat) ∧
         (fSUB w = 0xC → v.toNat = max a.toNat b.toNat)) ∧
     (AtPc s u r c w clCTRL 0x06 → 0xC < fSUB w →
       exec (.salu u) s = .next (unitFault s u r .illegalInstruction (pcIndex r)))) ∧
  (∀ (s : State) (u : UnitId) (r : Run) (c : Ctx) (w : InstrWord),
     (Issues s u r c w clCTRL 0x08 → fSUB w ≤ 0x8 → fSD w % 8 ≠ 0 →
       ∃ v : Bool, exec (.scmp u) s = .next (s.setRun u (advance { r with P := setNth r.P (fSD w % 8) v })) ∧
         let a := sreg r.S (fSA w)
         let b := if fIMMSEL w then BitVec.ofNat 64 (fIMM w) else sreg r.S (fSB w)
         (fSUB w = 0x0 → (v = true ↔ a = b)) ∧
         (fSUB w = 0x1 → (v = true ↔ a ≠ b)) ∧
         (fSUB w = 0x2 → (v = true ↔ a.toInt < b.toInt)) ∧
         (fSUB w = 0x3 → (v = true ↔ a.toInt ≤ b.toInt)) ∧
         (fSUB w = 0x4 → (v = true ↔ a.toNat < b.toNat)) ∧
         (fSUB w = 0x5 → (v = true ↔ a.toNat ≤ b.toNat)) ∧
         (fSUB w = 0x6 → v = (preg r.P (fSA w % 8) && preg r.P (fSB w % 8))) ∧
         (fSUB w = 0x7 → v = (preg r.P (fSA w % 8) || preg r.P (fSB w % 8))) ∧
         (fSUB w = 0x8 → v = !(preg r.P (fSA w % 8)))) ∧
     (AtPc s u r c w clCTRL 0x08 → 0x8 < fSUB w ∨ fSD w % 8 = 0 →
       exec (.scmp u) s = .next (unitFault s u r .illegalInstruction (pcIndex r))))

/-- R76: what RDSR reads, and that every other value of IMM[7:0] faults. -/
def Obligations.RdsrReadsTheSpecialRegisters : Prop :=  ∀ (s : State) (u : UnitId) (r : Run) (c : Ctx) (w : InstrWord),
    (Issues s u r c w clCTRL 0x09 → fIMM w % 256 ≤ 7 →
      ∃ v : Word64, exec (.rdsr u) s = .next (s.setRun u (advance { r with S := setS r.S (fSD w) v })) ∧
        (fIMM w % 256 = 0 → v.toNat = r.astat.toNat) ∧
        (fIMM w % 256 = 1 → v = BitVec.ofNat 64 (tStep r.desc)) ∧
        (fIMM w % 256 = 2 → v = BitVec.ofNat 64 (tCtx r.desc)) ∧
        (fIMM w % 256 = 3 → v = BitVec.ofNat 64 r.loops.length) ∧
        (∀ d l, fIMM w % 256 = 4 + d → r.loops.reverse[d]? = some l → v = BitVec.ofNat 64 l.iter) ∧
        (∀ d, fIMM w % 256 = 4 + d → r.loops.length ≤ d → v = 0)) ∧
    (AtPc s u r c w clCTRL 0x09 → 7 < fIMM w % 256 →
      exec (.rdsr u) s = .next (unitFault s u r .illegalInstruction (pcIndex r)))

/-- R68: S0 and P0 discard writes and read as zero and true, whatever the lists hold; and the sequencer state a task starts with. -/
def Obligations.RegistersHardWiredAndAtStart : Prop :=
  ((∀ (S : List Word64) (v : Word64), setS S 0 v = S ∧ sreg S 0 = 0) ∧
   (∀ (P : List Bool) (v : Bool), setP P 0 v = P ∧ preg P 0 = true) ∧
   (∀ (S : List Word64) (i : Nat) (v : Word64), i ≠ 0 → i < S.length → sreg (setS S i v) i = v) ∧
   (∀ (S : List Word64) (i j : Nat) (v : Word64), i ≠ j → sreg (setS S i v) j = sreg S j)) ∧
  (∀ (cn task att : Nat) (bind : List Word64) (x : TaskRec) (table : List (Option (BitVec 512))), bind.length = 16 →
     let r := startRun cn task att bind x table
     (∀ i, 1 ≤ i → i ≤ 16 → sreg r.S i = nth 0 bind (i - 1)) ∧ (∀ i, 17 ≤ i → i ≤ 31 → sreg r.S i = 0) ∧ sreg r.S 0 = 0 ∧
     areg r.A 0 = tDtab x.desc ∧ (∀ i, 1 ≤ i → areg r.A i = 0) ∧ preg r.P 0 = true ∧ (∀ i, 1 ≤ i → i ≤ 7 → preg r.P i = false) ∧
     r.T = table ∧ (∀ i < 8, nth none r.E i = none) ∧ (∀ i < 4, nth none r.Q i = none) ∧ r.pc = tProg x.desc ∧ r.loops = [] ∧ r.astat = 0)

/-- R73, R75: BR moves the PC by IMM words and ends exactly the innermost loops whose bodies the target leaves. LOOP pushes one loop of count - 1 further
iterations, or skips the body when the count is zero; a depth of 4, an empty body or a body past the end of the one around it faults. The PC after an
instruction that does not branch is the next word; at the end of the innermost body, its first word while iterations remain, and past the loop when none does.
Choices of the model in it: log entry 21. -/
def Obligations.LoopsAndBranches : Prop :=
  (∀ (s : State) (u : UnitId) (r : Run) (c : Ctx) (w : InstrWord), Issues s u r c w clCTRL 0x02 →
     ∃ inner outer : List LoopEntry, r.loops = inner ++ outer ∧
       let pc := (r.pc + 16 * fIMM w) % 2 ^ 48
       (∀ l ∈ outer, l.start ≤ pc ∧ pc < l.start + 16 * l.len) ∧
       (∀ l, inner.getLast? = some l → ¬ (l.start ≤ pc ∧ pc < l.start + 16 * l.len)) ∧
       exec (.br u) s = .next (s.setRun u { r with pc := pc, loops := outer })) ∧
  (∀ (s : State) (u : UnitId) (r : Run) (c : Ctx) (w : InstrWord), Issues s u r c w clCTRL 0x03 →
     let n := if fIMMSEL w then fIMM w % 2 ^ 32 else (sreg r.S (fSA w)).toNat % 2 ^ 32
     let ok := fLEN w ≠ 0 ∧ r.loops.length < 4 ∧ ∀ l, r.loops.head? = some l → r.pc + 16 + 16 * fLEN w ≤ l.start + 16 * l.len
     (ok → n = 0 → exec (.loop u) s = .next (s.setRun u (advance { r with pc := r.pc + 16 * fLEN w }))) ∧
     (ok → n ≠ 0 → exec (.loop u) s = .next (s.setRun u { r with
       pc := r.pc + 16, loops := { start := r.pc + 16, len := fLEN w, remaining := n - 1, iter := 0 } :: r.loops })) ∧
     (¬ ok → exec (.loop u) s = .next (unitFault s u r .illegalInstruction (pcIndex r)))) ∧
  (∀ r : Run,
     (r.loops = [] → advance r = { r with pc := r.pc + 16 }) ∧
     (∀ l rest, r.loops = l :: rest → r.pc + 16 ≠ l.start + 16 * l.len → advance r = { r with pc := r.pc + 16 }) ∧
     (∀ l rest, r.loops = l :: rest → r.pc + 16 = l.start + 16 * l.len → 0 < l.remaining →
       advance r = { r with pc := l.start, loops := { l with remaining := l.remaining - 1, iter := l.iter + 1 } :: rest }) ∧
     (∀ l rest, r.loops = l :: rest → r.pc + 16 = l.start + 16 * l.len → l.remaining = 0 →
       advance r = advance { r with loops := rest }))

/-- R69, R73: LDS and CHLOAD load what a task of the context reads at AX + IMM (LDS with bits [2:0] ignored); TBASE replaces the base
field of a slot that holds a descriptor and leaves its other fields. -/
def Obligations.LoadsOfRegistersAndSlotsComplete : Prop :=  ∀ (s : State) (u : UnitId) (r : Run) (c : Ctx) (w : InstrWord),
    let va := (areg r.A (fAX w) + fIMM w) % 2 ^ 48
    (∀ v, Issues s u r c w clCTRL 0x0B → readNat s r.ctx c (va - va % 8) 8 = .ok v →
      exec (.lds u) s = .next (s.setRun u (advance { r with S := setS r.S (fSD w) (BitVec.ofNat 64 v) }))) ∧
    (∀ v, Issues s u r c w clCTRL 0x10 → readNat s r.ctx c va 64 = .ok v →
      exec (.chload u) s = .next (s.setRun u (advance (if fSUB w % 2 = 0
        then { r with E := setNth r.E (fSD w % 8) (some (BitVec.ofNat 512 v)) }
        else { r with Q := setNth r.Q (fSD w % 4) (some (BitVec.ofNat 512 v)) })))) ∧
    (∀ b, Issues s u r c w clCTRL 0x0F → nth none r.T (fTX w) = some b →
      ∃ b' : BitVec 512, b'.toNat % 2 ^ 48 = areg r.A (fAX w) % 2 ^ 48 ∧ b'.toNat / 2 ^ 48 = b.toNat / 2 ^ 48 ∧
        exec (.tbase u) s = .next (s.setRun u (advance { r with T := setNth r.T (fTX w) (some b') })))

/-- R73, R77, R114: HALT leaves the unit waiting for its asynchronous groups, and so does the BND of a boundary task, which takes the context's
staged request as it executes; WAIT and TOKWAIT go on at once when what
they wait for has happened and hold the unit otherwise; BND elsewhere is an illegal instruction. -/
def Obligations.WaitsAndEndsOfProgramsComplete : Prop :=  ∀ (s : State) (u : UnitId) (r : Run) (c : Ctx) (w : InstrWord),
    let va := (areg r.A (fAX w) + fIMM w) % 2 ^ 48
    let done := (fIMM w % 2 = 1 → r.moves = []) ∧ (fIMM w / 2 % 2 = 1 → r.pushes = 0) ∧
      (fIMM w / 4 % 2 = 1 → r.drains = [] ∧ r.stagePushes = 0) ∧ (fIMM w / 8 % 2 = 1 → r.attns = [])
    (Issues s u r c w clCTRL 0x01 → exec (.halt u) s = .next (s.setRun u { r with phase := .halting })) ∧
    (Issues s u r c w clSYNC 0x03 → tBnd r.desc = true →
      let taken := s.modCtx r.ctx Ctx.takeStaged
      taken.ctx? r.ctx = some { c with apend := none, taken := c.taken ++ c.apend.toList } ∧
      exec (.bnd u) s = .next (taken.setRun u { r with phase := .handing })) ∧
    (Issues s u r c w clSYNC 0x03 → tBnd r.desc = false →
      exec (.bnd u) s = .next (unitFault s u r .illegalInstruction (pcIndex r))) ∧
    (Issues s u r c w clCTRL 0x04 → done → exec (.wait u) s = .next (s.setRun u (advance r))) ∧
    (Issues s u r c w clCTRL 0x04 → ¬ done →
      exec (.wait u) s = .next (s.setRun u { r with phase := .waitGroups (fIMM w % 16) })) ∧
    (∀ v, Issues s u r c w clSYNC 0x02 → readNat s r.ctx c (va - va % 8) 8 = .ok v →
      (BitVec.ofNat 64 v).toInt ≤ (sreg r.S (fSA w)).toInt → exec (.tokwait u) s = .next (s.setRun u (advance r))) ∧
    (∀ v, Issues s u r c w clSYNC 0x02 → readNat s r.ctx c (va - va % 8) 8 = .ok v →
      (sreg r.S (fSA w)).toInt < (BitVec.ofNat 64 v).toInt →
      exec (.tokwait u) s = .next (s.setRun u { r with phase := .waitToken (va - va % 8) (sreg r.S (fSA w)) }))

/-- Held units go on when what they wait for has happened: the groups of a WAIT (R73), the counter of a TOKWAIT (R77), the prologue
tokens of a matrix instruction (R174), the shadow copies of an instruction's writes (R123). -/
def Obligations.HeldUnitsResume : Prop :=  (∀ (s : State) (u : UnitId) (r : Run) (m : Nat), s.run? u = some r → r.phase = .waitGroups m →
    (m % 2 = 1 → r.moves = []) → (m / 2 % 2 = 1 → r.pushes = 0) → (m / 4 % 2 = 1 → r.drains = [] ∧ r.stagePushes = 0) →
    (m / 8 % 2 = 1 → r.attns = []) → exec (.waitResume u) s = .next (s.setRun u (advance { r with phase := .running }))) ∧
  (∀ (s : State) (u : UnitId) (r : Run) (c : Ctx) (va v : Nat) (t : Word64), s.run? u = some r → r.phase = .waitToken va t →
    s.ctx? r.ctx = some c → readNat s r.ctx c va 8 = .ok v → (BitVec.ofNat 64 v).toInt ≤ t.toInt →
    exec (.tokwaitResume u) s = .next (s.setRun u (advance { r with phase := .running }))) ∧
  (∀ (s : State) (u : UnitId) (r : Run) (c : Ctx) (toks : List (Nat × Word64)), s.run? u = some r → r.phase = .waitPrologue toks →
    s.ctx? r.ctx = some c → (∀ p ∈ toks, ∃ v, readNat s r.ctx c p.1 8 = .ok v ∧ (BitVec.ofNat 64 v).toInt ≤ p.2.toInt) →
    exec (.prologueTokenResume u) s = .next (s.setRun u { r with phase := .running })) ∧
  (∀ (s : State) (cn vp : Nat) (c : Ctx) (sh : ShadowEnt), s.ctx? cn = some c → NMap.get? c.shadows vp = some sh → sh.copying = true →
    ∃ t, exec (.shadowCopyDone cn vp) s = .next t ∧
      t.ctx? cn = some { c with shadows := NMap.set c.shadows vp { sh with copying := false } } ∧ t.mem = s.mem ∧
      (∀ u r l, s.run? u = some r → r.ctx = cn → r.phase = .waitShadow l → (∀ x ∈ l, x = vp) →
        t.run? u = some { r with phase := .running }))

/-- R73, R77, R123: STS, TOKSET and WCFA. `s1` is the state once the shadow that the page needs has begun (the state itself when it needs
none). The eight bytes at the place of AX + IMM with bits [2:0] ignored become the value stored, every other byte of memory keeps the value
it has in `s1`, no other unit, context or part of the module changes, WCFA leaves the old value in S[SD], and the PC moves on, the unit waiting while
its page is being copied. In the scale table (R58) FTE and SCODE take what is stored, NONFIN is cleared by a one, and the reserved bits keep their value. -/
def Obligations.ScalarStoresCompleteAndKeepOtherBytes : Prop :=  ∀ (s s1 : State) (u : UnitId) (r : Run) (c c1 : Ctx) (w : InstrWord) (p : Nat), MemInv s1 → s1.ctx? r.ctx = some c1 →
    let va := (areg r.A (fAX w) + fIMM w) % 2 ^ 48
    let at8 := va - va % 8
    let pages := if vpageOf at8 ∈ copyingPages c1 then [vpageOf at8] else []
    let stored (t : State) (v : Word64) : Prop :=
      (∀ a, a ∉ storedAt r.ctx c1 at8 8 → Memory.get t.mem a = Memory.get s1.mem a) ∧
      ((NMap.get? c1.pages (vpageOf at8)).bind (fun e => e.moveTo) = none →
        (scaleTableSize ≤ at8 → Memory.getBytes t.mem p 8 = toBytes 8 v.toNat) ∧
        (∀ i < 8, Memory.get t.mem (p + i) = storedByte (at8 + i) (Memory.get s1.mem (p + i)) (nth 0 (toBytes 8 v.toNat) i))) ∧
      { t with mem := s1.mem, units := s1.units, ctxs := s1.ctxs } = s1 ∧ (∀ x : UnitId, x.key ≠ u.key → t.run? x = s1.run? x) ∧
      (∀ k, k ≠ r.ctx → t.ctx? k = s1.ctx? k) ∧
      ∃ c', t.ctx? r.ctx = some c' ∧ { c' with epoch := c1.epoch, comp := c1.comp, tabs := c1.tabs, seqs := c1.seqs } = c1
    (∀ i < 8, translate r.ctx c1 (at8 + i) true = .ok (p + i)) →
    (Issues s u r c w clCTRL 0x0C → prepareWrite s r.ctx at8 8 false = .ok s1 →
      ∃ t, exec (.sts u) s = .next t ∧ stored t (sreg r.S (fSD w)) ∧ t.run? u = some (advance (afterWrites pages r))) ∧
    (Issues s u r c w clSYNC 0x01 → prepareWrite s r.ctx at8 8 false = .ok s1 →
      ∃ t, exec (.tokset u) s = .next t ∧ stored t (sreg r.S (fSA w)) ∧ t.run? u = some (advance (afterWrites pages r))) ∧
    (∀ v, Issues s u r c w clSYNC 0x00 → readNat s r.ctx c at8 8 = .ok v → prepareWrite s r.ctx at8 8 true = .ok s1 →
      ∃ t, exec (.wcfa u) s = .next t ∧ stored t (BitVec.ofNat 64 v + sreg r.S (fSA w)) ∧
        t.run? u = some (advance (afterWrites pages { r with S := setS r.S (fSD w) (BitVec.ofNat 64 v) })))

/-- R71, R96, R123: the frame of every write of an instruction to plain tensors or bytes, given that no page it writes still needs a shadow: when all
the writes succeed, no byte outside the places they store to changes, no other context changes, and of the own context only the lines of the
open epoch that a write makes good and the notes of what a write has disturbed: table banks, sequences and compressed tensors (R97, R213, R240, R312);
nothing else of the module changes. A destination that aliases itself is written with free values (R97, log entry 14). The instructions whose writes these are name them in their own statements. -/
def Obligations.WritesKeepEveryOtherByte : Prop :=  ∀ (s s' : State) (cn : Nat) (c : Ctx) (ws : List WItem), MemInv s → s.ctx? cn = some c →
    (∀ va b, (.ok (va, b) : WItem) ∈ ws → ∀ vp ∈ pagesTouched va b.length,
      winLo ≤ vp * pageSize ∨ stepState c vp = false ∨ (NMap.has c.shadows vp = true ∧ ∃ e, NMap.get? c.pages vp = some e ∧ e.ro = false)) →
    (∀ d key, d.cmp = 0 → d.aliased = false → runWrites s cn d key ws = runBytes s cn ws) ∧
    (∀ d key, d.cmp = 0 → d.aliased = true → runWrites s cn d key ws =
      ((runBytes s cn (freeItems s.freeIx ws)).1.tick, (runBytes s cn (freeItems s.freeIx ws)).2)) ∧
    (runBytes s cn ws = (s', none) →
      MemInv s' ∧ { s' with mem := s.mem, ctxs := s.ctxs } = s ∧
      (∀ a, (∀ va b, (.ok (va, b) : WItem) ∈ ws → a ∉ storedAt cn c va b.length) → Memory.get s'.mem a = Memory.get s.mem a) ∧
      (∀ k, k ≠ cn → s'.ctx? k = s.ctx? k) ∧
      ∃ c', s'.ctx? cn = some c' ∧ { c' with epoch := c.epoch, comp := c.comp, tabs := c.tabs, seqs := c.seqs } = c)

/-- R70, R71, R78, R458: a transfer whose descriptors pass its checks joins the MOVE group with the registers and slots of its issue, and nothing moves yet.
When the oldest transfer completes, its elements, read as its kind of transfer says, are written to TD, and the group loses it. FILL, COPY and GATHER
write what `fillItems`, `copyItems` and `gatherItems` compute, HOSTRD the host's bytes; HOSTWR sends one write for each element in index order and stores nothing.
Data that fails its check at a change of custody goes no further: frames of the host are sent again, other data stops the task for a replay (R278, R365).
Choices of the model in it: log entries 14, 15, 16 and 22. -/
def Obligations.TransfersJoinAndComplete : Prop :=
  (∀ (s : State) (i : Instr) (u : UnitId) (r : Run) (c : Ctx) (w : InstrWord) (op : Nat),
     (i, op) ∈ [(Instr.copy u, 0), (.fill u, 1), (.hostrd u, 2), (.hostwr u, 3), (.gather u, 4)] →
     Issues s u r c w clMOVE op → moveChecks s r.ctx c r.T w = .ok () →
     exec i s = .next (s.setRun u (advance { r with
       moves := r.moves ++ [{ ix := pcIndex r, word := w, S := r.S, A := r.A, T := r.T, E := r.E, Q := r.Q }] }))) ∧
  (∀ (s : State) (u : UnitId) (r : Run) (c : Ctx) (sn : Snapshot) (rest : List Snapshot) (d t : TD) (data : Bytes),
     s.run? u = some r → r.phase ≠ .held → r.moves = sn :: rest → s.ctx? r.ctx = some c → tslot sn.T (mTD sn.word) = .ok d →
     let ts := tslot sn.T (mTS sn.word)
     let win := hostWindow c (mHWIN sn.word)
     let writes (s' : State) (items : List WItem) : Prop :=
       asyncWrites s r.ctx d (mKEY sn.word) items = (s', some none) →
       exec (.moveDone u data true) s = .next (s'.setRun u { r with moves := rest })
     (∀ s', wOp sn.word = 1 → writes s' ((tuples d.exts).map (fun ix => .ok (elemWrite d ix (sreg sn.S (mSK sn.word)).toNat)))) ∧
     (∀ s', wOp sn.word = 0 → ts = .ok t → writes s' (copyItems s r.ctx c d t)) ∧
     (∀ s' i, wOp sn.word = 4 → ts = .ok t → tslot sn.T (mTI sn.word) = .ok i → writes s' (gatherItems s r.ctx c d t i)) ∧
     (∀ s' h, wOp sn.word = 2 → ts = .ok t → s.host? c.slot = some h → h.reachable = true →
       writes s' (hostrdItems s.freeIx win d t data)) ∧
     (∀ h x (vals : List Nat), wOp sn.word = 3 → ts = .ok t → s.host? c.slot = some h → h.reachable = true → hostPaused s c.slot = false →
       d.aliased = false → win = some x → mapE (readElem s r.ctx c t) (tuples d.exts) = .ok vals →
       (∀ ix ∈ tuples d.exts, d.elemAddr ix + d.fmt.size ≤ x.len) →
       exec (.moveDone u data true) s = .next (({ s with out := s.out ++ ((tuples d.exts).zip vals).map (fun p =>
         Out.hostWrite c.slot x.rkey (x.va + d.elemAddr p.1) (toBytes d.fmt.size p.2)) } : State).setRun u { r with moves := rest })) ∧
     (wOp sn.word = 2 → exec (.moveDone u data false) s = .next s) ∧
     (wOp sn.word ≠ 2 → exec (.moveDone u data false) s = .next (stopChecked s u r)))

/-- R38, R455, R456: the element-wise VEC operations. With descriptors of one shape and writes that all succeed, every element of TD is
written as `vecElem` computes it from the elements read at issue, the flags are raised, and the PC moves on. On bit patterns: ABS and NEG touch the sign
alone, MIN and MAX of two equal numbers are that number, and a NaN operand of any of them gives the one NaN. -/
def Obligations.VecElementwiseCompletes : Prop :=
  (∀ (s s' : State) (i : Instr) (u : UnitId) (r : Run) (c : Ctx) (w : InstrWord) (op : Nat) (d t1 t2 t3 : TD),
     (i, op) ∈ [(Instr.vecAdd u, 0), (.vecSub u, 1), (.vecMul u, 2), (.vecFma u, 3), (.vecMin u, 4), (.vecMax u, 5), (.vecAbs u, 6),
       (.vecNeg u, 7)] →
     Issues s u r c w clVEC op → vecDest r.T (vTD w) (vRM w) = .ok d → vecSource s r.ctx c r.T (vTS1 w) = .ok t1 → sameShape d t1 = true →
     (op ≤ 5 → vSKEN w = false → vecSource s r.ctx c r.T (vTS2 w) = .ok t2 ∧ sameShape d t2 = true) →
     (op = 3 → vecSource s r.ctx c r.T (vTS3 w) = .ok t3 ∧ sameShape d t3 = true) →
     let second := if op ≤ 5 ∧ vSKEN w = false then some t2 else none
     let scalar := if op ≤ 5 ∧ vSKEN w = true then some ((sreg r.S (vSK w)).setWidth 32) else none
     let third := if op = 3 then some t3 else none
     let items := (tuples d.exts).map (vecElem s r.ctx c op (vRM w) d t1 second scalar third)
     runWrites s r.ctx d false (itemWrites items) = (s', none) →
     exec i s = .next (s'.setRun u (advance (afterWrites (waitPages s' r.ctx (itemWrites items)) { r with astat := r.astat ||| itemFlags items })))) ∧
  (∀ (rm : RM) (a b c : Bits32),
     (isNan32 a = false → (vecOp 6 rm a b c).1 = a &&& 0x7FFFFFFF ∧ (vecOp 7 rm a b c).1 = a ^^^ 0x80000000) ∧
     (isNan32 a = true → (vecOp 6 rm a b c).1 = nan32 ∧ (vecOp 7 rm a b c).1 = nan32) ∧
     (isNan32 a = false → (vecOp 4 rm a a c).1 = a ∧ (vecOp 5 rm a a c).1 = a) ∧
     (isNan32 a = true ∨ isNan32 b = true → (vecOp 4 rm a b c).1 = nan32 ∧ (vecOp 5 rm a b c).1 = nan32))

/-- R45, R198, R199, R219, R262, R456: the reductions along AXIS, the poolings and RAND. With descriptors that agree and writes that all
succeed, every element of TD (and of TS3 for STATS) is written as the operation computes it, the flags are raised and the PC moves on; a
reduction or a pooling of an empty source writes nothing (R89).
Choices of the model in it: log entry 20. -/
def Obligations.VecReductionsPoolsAndRandComplete : Prop :=  ∀ (s s' : State) (u : UnitId) (r : Run) (c : Ctx) (w : InstrWord) (d t : TD),
    let ends (i : Instr) (items : List (X ((Nat × Bytes) × Flags))) : Prop :=
      runWrites s r.ctx d false (itemWrites items) = (s', none) →
      exec i s = .next (s'.setRun u (advance (afterWrites (waitPages s' r.ctx (itemWrites items))
        { r with astat := r.astat ||| itemFlags items })))
    vecDest r.T (vTD w) (vRM w) = .ok d →
    (∀ i op, (i, op) ∈ [(Instr.rsum u, 0x10), (.rmax u, 0x11), (.rmin u, 0x12), (.vecArgmax u, 0x14)] →
      vecSource s r.ctx c r.T (vTS1 w) = .ok t → Issues s u r c w clVEC op → vAXIS w ≤ 5 → reducedShape (vAXIS w) d t = true →
      (op = 0x14 → d.fmt = .int32) →
      (t.count = 0 → exec i s = .next (s.setRun u (advance r))) ∧
      (t.count ≠ 0 → ends i ((tuples d.exts).map (reduceElem s r.ctx c op (vRM w) (vAXIS w) d t false)))) ∧
    (∀ d3, vecSource s r.ctx c r.T (vTS1 w) = .ok t → Issues s u r c w clVEC 0x13 → vAXIS w ≤ 5 → reducedShape (vAXIS w) d t = true →
      d.fmt = .fp32 → vecDest r.T (vTS3 w) (vRM w) = .ok d3 → reducedShape (vAXIS w) d3 t = true → d3.fmt = .fp32 →
      (t.count = 0 → exec (.vecStats u) s = .next (s.setRun u (advance r))) ∧
      (t.count ≠ 0 → d3.aliased = false → ends (.vecStats u) ((tuples d.exts).map (reduceElem s r.ctx c 0x13 (vRM w) (vAXIS w) d t false) ++
        (tuples d3.exts).map (reduceElem s r.ctx c 0x13 (vRM w) (vAXIS w) d3 t true)))) ∧
    (∀ i op, (i, op) ∈ [(Instr.maxpool u, 0x18), (.avgpool u, 0x19)] →
      vecSource s r.ctx c r.T (vTS1 w) = .ok t → Issues s u r c w clVEC op → poolShape d t = true →
      (t.count = 0 → exec i s = .next (s.setRun u (advance r))) ∧
      (t.count ≠ 0 → ends i ((tuples d.exts).map (poolElem s r.ctx c op w d t)))) ∧
    (Issues s u r c w clVEC 0x20 → (randBits d.fmt .rne 0).isSome = true →
      let ws : List WItem := (tuples d.exts).map (fun ix => .ok (elemWrite d ix ((randBits d.fmt (RM.ofCode (vRM w))
        (randWord (sreg r.S (vSK w)) (BitVec.ofNat 32 (tStep r.desc)) (linearIndex d.exts ix % 2 ^ 64))).getD 0)))
      runWrites s r.ctx d false ws = (s', none) →
      exec (.rand u) s = .next (s'.setRun u (advance (afterWrites (waitPages s' r.ctx ws) r))))

/-- R84, R85, R89, R201, R206, R214: LOOKUP and CVT write every element of TD as they compute it, and nothing when a source is empty; LOAD marks the
inactive bank of a slot as loading, waits for the shadow copy of page 0, fills the bank and marks it ready; a LOAD that names the active bank only sets the
task's table-bank warning.
Choices of the model in it: log entries 20, 28 and 103. -/
def Obligations.TableAndConversionInstructionsComplete : Prop :=  ∀ (s s' : State) (u : UnitId) (r : Run) (c : Ctx) (w : InstrWord) (d t : TD),
    (∀ t2 : Option TD, Issues s u r c w clTAB 0x00 → tslot r.T (tbTD w) = .ok d → tslot r.T (tbTS w) = .ok t →
      (tbMULEN w = false → t2 = none) → (tbMULEN w = true → ∃ m, t2 = some m ∧ tslot r.T (tbTS2 w) = .ok m ∧ useSource s r.ctx c m = .ok ()) →
      rmOk (tbRM w) d.fmt = true → d.cmp = 0 → useSource s r.ctx c t = .ok () →
      (t.count = 0 → exec (.lookup u) s = .next (s.setRun u (advance r))) ∧
      (t.count ≠ 0 → (∀ m, t2 = some m → m.count ≠ 0) →
      let items := (tuples d.exts).map (lookupElem s r.ctx c r w d t t2)
      runWrites s r.ctx d false (itemWrites items) = (s', none) →
      exec (.lookup u) s = .next (s'.setRun u (advance (afterWrites (waitPages s' r.ctx (itemWrites items))
        { r with astat := r.astat ||| itemFlags items }))))) ∧
    (Issues s u r c w clTAB 0x01 → tslot r.T (tbTS w) = .ok t → loadSourceOk t = true → nth 0 r.banks (tbSLOT w) = tbBANK w →
      exec (.load u) s = .next (s.setRun u (advance { r with tbw := true }))) ∧
    (∀ bs : Bytes, Issues s u r c w clTAB 0x01 → tslot r.T (tbTS w) = .ok t → loadSourceOk t = true →
      nth 0 r.banks (tbSLOT w) ≠ tbBANK w → readBytes s r.ctx c t.addr 7232 = .ok bs →
      imageOk (fun o => nth 0 bs o) = true ∨ (builtinOf t.addr bs).isSome = true →
      let old := (nth .dflt c.tabs (tbSLOT w)).bank (tbBANK w)
      let ws : List WItem := [.ok (bankVa (tbSLOT w) (tbBANK w), bs)]
      loadRaces s c r old = false → ∀ s1, prepareAll (setBankState s r.ctx (tbSLOT w) (tbBANK w) { old with state := .loading }) r.ctx ws = .ok s1 →
      (waitPages s1 r.ctx ws ≠ [] → exec (.load u) s = .next (s1.setRun u r)) ∧
      (waitPages s1 r.ctx ws = [] → runBytes s1 r.ctx ws = (s', none) →
        let full : Bank := { state := .ready, src := builtinOf t.addr bs, loader := some (c.epochNo, r.att, r.task), foul := false }
        exec (.load u) s = .next ((setBankState s' r.ctx (tbSLOT w) (tbBANK w) full).setRun u (advance r)))) ∧
    (∀ (l : List CvtIn) (e : Nat), Issues s u r c w clCVT 0x00 → cSCL w ≠ 3 → tslot r.T (cTD w) = .ok d →
      vecSource s r.ctx c r.T (cTS w) = .ok t → rmOk (cRM w) d.fmt = true → d.cmp = 0 → (cSCL w = 2 → d.sblk = 1) →
      d.count ≠ 0 → t.count ≠ 0 → mapE (cvtIn s r.ctx c t) (tuples d.exts) = .ok l →
      (cSCL w = 1 → readScode s r.ctx c (cSLOT w) = .ok e) → (cSCL w ≠ 1 → e = 127) →
      let out := if cSCL w = 2 then l.flatMap (cvtBlock d (RM.ofCode (cRM w)) (cMARG w) l)
        else l.map (cvtOut d (RM.ofCode (cRM w)) (127 - (e : Int)))
      let ws : List WItem := out.map (fun p => .ok p.1)
      let a := amaxOf (l.map (·.wide))
      runWrites s r.ctx d false ws = (s', none) →
      (cAMAX w = false → exec (.cvt u) s = .next (s'.setRun u (advance (afterWrites (waitPages s' r.ctx ws)
        { r with astat := r.astat ||| (orFlags (out.map (·.2)) ||| 0) })))) ∧
      (∀ s'', cAMAX w = true → gatherAmax s' r.ctx (cSLOT w) a d.fmt = .ok s'' →
        exec (.cvt u) s = .next (s''.setRun u (advance (afterWrites
          (waitPages s'' r.ctx (ws ++ [.ok (scaleSlotVa (cSLOT w), toBytes 4 0)]))
          { r with astat := r.astat ||| (orFlags (out.map (·.2)) ||| amaxFlag a) })))))

/-- R79 to R82, R86, R87, R137, R138, R144, R153, R174, R223, R236, R322: the matrix, attention and push instructions that issue. Matrix instructions leave
their sums in the planes, their chunks in the registers of the arrays and their finished groups on the drain list; a held one waits for its prologue tokens;
one whose check fails in a chunk that is checked passes nothing on and stops its task for a replay; ATTEND and KVAPPEND join the ATTN group; PUSH sends its
tile and token into the fabric and counts one push.
Choices of the model in it: log entries 10, 14, 17, 26 and 104. -/
def Obligations.MatrixAttentionAndPushIssue : Prop :=  ∀ (s : State) (u : UnitId) (r : Run) (c : Ctx) (w : InstrWord),
    (∀ qx qw p st det, Issues s u r c w clMMA 0x00 → mmStatic u.kind w = true → prologueSlot r.Q (xQXEN w) (xQX w) = .ok qx →
      prologueSlot r.Q (xQWEN w) (xQW w) = .ok qw → heldByToken s r.ctx c r [qx, qw] = .ok none → mmPlan s r.ctx c u.kind r w = .ok p →
      let gs := groupsOf (xBCNT w + 1) (packCount (xSHAPE w) (sregInt r.S (xSBX w)) (sregInt r.S (xSBW w)))
      let chunks (l : List (List Nat)) (a : Nat) := mmPasses s r.ctx c r w p a l
      foldE (mmGroup s r.ctx c r w p (snapshot r w) gs.length) { planes := r.planes, drains := [], flags := 0 } ((rangeFrom 0 gs.length).zip gs) = .ok st →
      (det = true → checkable (chunks gs) = true → exec (.mm u det) s = .next ((stopChecked s u r).setRun u { r with phase := .held })) ∧
      (det = false ∨ checkable (chunks gs) = false →
        exec (.mm u det) s = .next ((if gs.any (clobbered r w p) then s.tick else s).setRun u (advance { r with
          planes := st.planes, drains := r.drains ++ st.drains, arrays := arraysAfter s u c r (chunks (lastTwo gs)), astat := r.astat ||| st.flags })))) ∧
    (∀ qx qw toks det, Issues s u r c w clMMA 0x00 → mmStatic u.kind w = true → prologueSlot r.Q (xQXEN w) (xQX w) = .ok qx →
      prologueSlot r.Q (xQWEN w) (xQW w) = .ok qw → heldByToken s r.ctx c r [qx, qw] = .ok (some toks) →
      exec (.mm u det) s = .next (s.setRun u { r with phase := .waitPrologue toks })) ∧
    (∀ qx p st det, Issues s u r c w clWIN 0x00 → convStatic u.kind w = true → prologueSlot r.Q (nQXEN w) (nQX w) = .ok qx →
      heldByToken s r.ctx c r [qx] = .ok none → convPlan s r.ctx c u.kind r w qx = .ok p →
      let gs := convGroups w p.tc
      let chunks (l : List ((Nat × Nat) × (Nat × Nat))) (a : Nat) := convPasses s r.ctx c r w p a l
      foldE (convGroup s r.ctx c r w p (snapshot r w) gs.length) { planes := r.planes, drains := [], flags := 0 } ((rangeFrom 0 gs.length).zip gs) = .ok st →
      let pad := if nPAD w = 1 then (padConst p r w).flags else 0
      (det = true → checkable (chunks gs) = true → exec (.conv u det) s = .next ((stopChecked s u r).setRun u { r with phase := .held })) ∧
      (det = false ∨ checkable (chunks gs) = false →
        exec (.conv u det) s = .next ((if convClash w p then s.tick else s).setRun u (advance { r with
          planes := st.planes, drains := r.drains ++ st.drains, arrays := arraysAfter s u c r (chunks (lastTwo gs)),
          astat := r.astat ||| (st.flags ||| pad) })))) ∧
    (∀ p r', Issues s u r c w clATTN 0x00 → attnStatic u.kind w = true → attnPlan s r.ctx c r.S r.T w none = .ok p → attnOk p w = true →
      let joined := beginHead (s.setRun u { r with attns := r.attns ++ [.attend (snapshot r w) none] }) u
      joined.run? u = some r' → exec (.attend u false) s = .next (joined.setRun u (advance r'))) ∧
    (∀ p walk g, Issues s u r c w clATTN 0x00 → attnStatic u.kind w = true → attnPlan s r.ctx c r.S r.T w none = .ok p → attnOk p w = true →
      (if aPAGED w then takeWalk s r.ctx c p.tk else .ok none) = .ok walk → g < ceilDiv p.rows 128 →
      checkable (fun _ => scorePass s r.ctx c p walk g) = true →
      exec (.attend u true) s = .next ((stopChecked s u r).setRun u { r with phase := .held })) ∧
    (∀ p r' joined, Issues s u r c w clATTN 0x01 → appendPlan s r.ctx c r.S r.T w = .ok p → appendOk p w = true → hState p.h = stResident →
      allocRange (s.setRun u { r with attns := r.attns ++ [.append (snapshot r w) p.sn] }) r.ctx u p.sn (tokenPages p.pos p.n) = .ok joined →
      joined.run? u = some r' → exec (.kvappend u) s = .next (joined.setRun u (advance r'))) ∧
    (∀ p r', Issues s u r c w clATTN 0x01 → appendPlan s r.ctx c r.S r.T w = .ok p → appendOk p w = true → hState p.h ≠ stResident →
      let joined := needResident (s.setRun u { r with attns := r.attns ++ [.append (snapshot r w) p.sn] }) r.ctx p.sn
      joined.run? u = some r' → exec (.kvappend u) s = .next (joined.setRun u (advance r'))) ∧
    (∀ d bs key tok, Issues s u r c w clPUSH 0x00 → pushStatic u.kind w = true → vecSource s r.ctx c r.T (pTS w) = .ok d →
      packTensor s r.ctx c d = .ok bs → pushTarget r.ctx c r w bs.length = .ok key → pushToken r.ctx c w = .ok tok →
      let tile := if bs = [] then [] else [(key, bs)]
      let f : Flight :=
        { src := u.die, dst := windowDie c tok, ctx := r.ctx, att := r.att, owner := u, stage := false, writes := tile, token := tok }
      exec (.push u) s = .next (({ s with fabric := s.fabric ++ [f] } : State).setRun u (advance { r with pushes := r.pushes + 1 })))

/-- R70, R144, R153, R227, R236, R238, R322, R365: the asynchronous ends. With its shadow copies in place and every write succeeding, the oldest drain,
attention pass or append of a unit completes and leaves its group; one whose check fails writes nothing and stops its task for a replay; a push of the
context's current attempt lands its bytes, after the earlier pushes of its group, and then takes one from its token, and any other push is dropped.
Choices of the model in it: log entries 10, 14, 15, 16, 25 and 105. -/
def Obligations.AsynchronousInstructionsComplete : Prop :=  (∀ (s s1 s2 : State) (u : UnitId) (r : Run) (c : Ctx) (d : Drain) (rest : List Drain) (tc : TD) (chain : Option (BitVec 512))
    (ws : List WItem), s.run? u = some r → r.phase ≠ .held → r.drains = d :: rest → s.ctx? r.ctx = some c →
    exec (.mmaDrain u true) s = .next (stopChecked s u r) ∧ ( tslot d.snap.T (xTC d.snap.word) = .ok tc → drainChain d = .ok chain →
    drainWrites s r.ctx c r.banks d tc chain = .ok ws → prepareAll s r.ctx ws = .ok s1 → waitPages s1 r.ctx ws = [] →
    drainRun s1 u r rest c d tc chain = .ok s2 → exec (.mmaDrain u false) s = .next (if tc.aliased then s2.tick else s2))) ∧
  (∀ (s s1 s2 s3 s4 : State) (u : UnitId) (r : Run) (c : Ctx) (sp : Snapshot) (walk : Option Walk) (rest : List AttnOp) (p : AttnPlan)
    rows, s.run? u = some r → r.phase ≠ .held → r.attns = .attend sp walk :: rest → s.ctx? r.ctx = some c →
    (aPAGED sp.word = true → walk.isNone = false) → exec (.attendPassEnd u true) s = .next (stopChecked s u r) ∧ (attnPlan s r.ctx c sp.S sp.T sp.word walk = .ok p → attnPass s r.ctx c p (aMASK sp.word) walk = .ok rows →
    let outs := rows.map (finishRow p.out.fmt (RM.ofCode (aRM sp.word)))
    let loose := walkForged c walk || p.out.aliased
    let ws := if loose then freeItems s.freeIx (outs.flatMap (rowItems p sp.word)) else outs.flatMap (rowItems p sp.word)
    let mass := if aEVS sp.word then (sweepPages p rows).map (fun pg =>
      (pg, if loose then Config.freeNat s.freeIx pg % 2 ^ 64 else pageMass (rows.zip outs) pg)) else []
    prepareAll s r.ctx ws = .ok s1 → prepareMass s1 r.ctx p.root mass = .ok s2 → waitPages s2 r.ctx (ws ++ massItems p.root mass) = [] →
    runBytes s2 r.ctx ws = (s3, none) → addMass s3 r.ctx p.root mass = .ok s4 →
    exec (.attendPassEnd u false) s = .next (beginHead ((if loose then s4.tick else s4).setRun u
      { r with attns := rest, astat := r.astat ||| orFlags (outs.map (·.flags)) }) u))) ∧
  (∀ (s s1 s2 s3 s4 : State) (u : UnitId) (r : Run) (c : Ctx) (sp : Snapshot) (n : Nat) (rest : List AttnOp) (p : AppendPlan),
    s.run? u = some r → r.phase ≠ .held → r.attns = .append sp n :: rest → s.ctx? r.ctx = some c →
    exec (.kvappendDone u true) s = .next (stopChecked s u r) ∧ (appendPlan s r.ctx c sp.S sp.T sp.word = .ok p →
    appendReady s r.ctx c p = true →
    let items := appendItems s r.ctx c p sp.word
    let ws := items.map (·.1)
    prepareWrite s r.ctx p.q.root 64 (decide (0 < p.n)) = .ok s1 → prepareAll s1 r.ctx ws = .ok s2 →
    waitPages s2 r.ctx (.ok (p.q.root, List.replicate 64 0) :: ws) = [] → appendBytes s2 r.ctx ws = (s3, none) →
    (if p.n = 0 then .ok s3 else putBytes s3 r.ctx p.q.root (toBytes 4 (max (hLen p.h) (p.pos + p.n)))) = .ok s4 →
    exec (.kvappendDone u false) s =
      .next (beginHead (s4.setRun u { r with attns := rest, astat := r.astat ||| orFlags (items.map (·.2)) }) u))) ∧
  (∀ (s : State) (src dst : Nat) (f : Flight), s.fabric.find? (fun f => f.src == src && f.dst == dst) = some f →
    (heldBack s f = true → exec (.pushDelivery src dst) s = .next s) ∧
    (heldBack s f = false → (∀ d ∈ routeDies s src dst, islandDown s 5 d 0 = false) → flightLive s f = false →
      exec (.pushDelivery src dst) s = .next { s with fabric := s.fabric.erase f })) ∧
  (∀ (s : State) (src dst : Nat) (f : Flight), s.fabric.find? (fun f => f.src == src && f.dst == dst) = some f → flightLive s f = true →
    heldBack s f = false → (∀ d ∈ routeDies s src dst, islandDown s 5 d 0 = false) → MemInv s →
    ∃ t, exec (.pushDelivery src dst) s = .next t ∧ t.fabric = s.fabric.erase f ∧ t.ctxs = s.ctxs ∧
      (∀ a, (a < f.token ∨ f.token + 8 ≤ a) → (∀ w ∈ f.writes, a < w.1 ∨ w.1 + w.2.length ≤ a) → Memory.get t.mem a = Memory.get s.mem a) ∧
      (∀ w, f.writes = [w] → (w.1 + w.2.length ≤ f.token ∨ f.token + 8 ≤ w.1) →
        Memory.getBytes t.mem w.1 w.2.length = w.2 ∧
        Memory.getBytes t.mem f.token 8 = toBytes 8 (BitVec.ofNat 64 (ofBytes (Memory.getBytes s.mem f.token 8)) - 1).toNat) ∧
      (∀ r, s.run? f.owner = some r → r.ctx = f.ctx → r.att = f.att → f.stage = false →
        t.run? f.owner = some { r with pushes := r.pushes - 1 }))

/-! ### Queues, packets, epochs (chapter 4) -/

/-- R101: a doorbell that is more than the ring ahead of HEAD, or behind the TAIL in force, only sets STATUS.DBERR; any other becomes TAIL. A
queue number above 3 names no register and changes nothing. -/
def Obligations.DoorbellMovesTailOrSetsDberr : Prop :=  ∀ (s : State) (cn q : Nat) (tail : Bits32) (c : Ctx), s.ctx? cn = some c →
    let x := getSq c q
    let bad := 2 ^ sqLog x < (tail - x.head).toNat ∨ (tail - x.head).toNat < (x.tail - x.head).toNat
    (q < 4 → bad → exec (.sqDoorbell cn q tail) s = .next (s.setCtx cn { c with dberr := true })) ∧
    (q < 4 → ¬ bad → exec (.sqDoorbell cn q tail) s = .next (s.setCtx cn { c with sqs := setNth c.sqs q { x with tail := tail } })) ∧
    (4 ≤ q → exec (.sqDoorbell cn q tail) s = .next (s.setCtx cn c))

/-- R14, R100, R101: SQ_CFG of an enabled queue takes EN alone; of a disabled one it takes every defined field, bits [15:8] reading as zero and a
reserved CEIL keeping the old one, and a new ring starts with HEAD and TAIL at zero. CQ_PTR.HEAD is stored; CQ_CFG is ignored while records are unconsumed
and restarts a new ring at zero; a write of 1 to STATUS.DBERR clears it, and a write to any other bit of the page does nothing. No record is held here. -/
def Obligations.QueueRegisterWrites : Prop :=
  (∀ (s : State) (cn q : Nat) (v : Word64) (c : Ctx), s.ctx? cn = some c → q < 4 →
     ∃ x : SubQueue, exec (.sqCfgWrite cn q v) s = .next (s.setCtx cn { c with sqs := setNth c.sqs q x }) ∧
       let y := getSq c q
       let f (a : Word64) (hi lo : Nat) : Nat := a.toNat / 2 ^ lo % 2 ^ (hi + 1 - lo)
       x.passed = y.passed ∧ f x.cfg 0 0 = f v 0 0 ∧
       (f y.cfg 0 0 = 1 → x.head = y.head ∧ x.tail = y.tail ∧ f x.cfg 63 1 = f y.cfg 63 1) ∧
       (f y.cfg 0 0 = 0 → f x.cfg 7 3 = f v 7 3 ∧ f x.cfg 63 16 = f v 63 16 ∧ f x.cfg 15 8 = 0 ∧
         f x.cfg 2 1 = (if f v 2 1 = 3 then f y.cfg 2 1 else f v 2 1) ∧
         (f v 7 3 = f y.cfg 7 3 → f v 63 24 = f y.cfg 63 24 → x.head = y.head ∧ x.tail = y.tail) ∧
         (f v 7 3 ≠ f y.cfg 7 3 ∨ f v 63 24 ≠ f y.cfg 63 24 → x.head = 0 ∧ x.tail = 0))) ∧
  (∀ (s : State) (cn : Nat) (c : Ctx), s.ctx? cn = some c →
     (∀ h, c.heldRecs = [] → exec (.cqHeadWrite cn h) s = .next (s.setCtx cn { c with cqHead := h, cqfull := false })) ∧
     (∀ v, c.heldRecs = [] → c.cqHead ≠ c.cqTail → exec (.cqCfgWrite cn v) s = .next (s.setCtx cn { c with cqfull := false })) ∧
     (∀ v, c.heldRecs = [] → c.cqHead = c.cqTail →
       ∃ cfg hd tl, exec (.cqCfgWrite cn v) s = .next (s.setCtx cn { c with cqCfg := cfg, cqHead := hd, cqTail := tl, cqfull := false }) ∧
         cfg.toNat % 2 ^ 9 = v.toNat % 2 ^ 9 ∧ cfg.toNat / 2 ^ 9 % 2 ^ 7 = 0 ∧ cfg.toNat / 2 ^ 16 = v.toNat / 2 ^ 16 ∧
         (v.toNat / 2 ^ 21 = c.cqCfg.toNat / 2 ^ 21 ∧ v.toNat / 2 ^ 4 % 2 ^ 5 = c.cqCfg.toNat / 2 ^ 4 % 2 ^ 5 → hd = c.cqHead ∧ tl = c.cqTail) ∧
         (v.toNat / 2 ^ 21 ≠ c.cqCfg.toNat / 2 ^ 21 ∨ v.toNat / 2 ^ 4 % 2 ^ 5 ≠ c.cqCfg.toNat / 2 ^ 4 % 2 ^ 5 → hd = 0 ∧ tl = 0)) ∧
     (∀ off v, exec (.registerWrite cn off v) s =
       .next (s.setCtx cn (if off = 0 ∧ v.getLsbD 5 = true then { c with dberr := false } else c))))

/-- R99, R101, R107, R391: a completion record takes the context's next SEQ in bits [255:192]. With none held before it, an attachment that is up and
room in a valid ring it goes to the ring's slot in host memory; else it is held, STATUS.CQFULL is set and nothing leaves. A context in Drydown gets none. -/
def Obligations.CompletionRecordIsWrittenOrHeld : Prop :=  ∀ (s : State) (cn body : Nat) (c : Ctx), s.ctx? cn = some c → c.heldRecs = [] → body < 2 ^ 192 →
    (c.drydown = true → post s cn body = s) ∧ (c.drydown = false →
    let rec256 : CqRec := BitVec.ofNat 256 (body + c.nextSeq.toNat * 2 ^ 192)
    (∀ h w, s.host? c.slot = some h → cqRoom h c = true → hostPaused s c.slot = false → hostWindow c (cqHwin c) = some w →
      (c.reg.map (·.evt)).getD false = false → ∃ t, post s cn body = t ∧
        t.out = s.out ++ [.hostWrite c.slot w.rkey (w.va + cqOffset c + 32 * (c.cqTail.toNat % 2 ^ cqLog c)) (toBytes 32 rec256.toNat)] ∧
        t.ctx? cn = some { c with cqTail := c.cqTail + 1, nextSeq := c.nextSeq + 1, cqfull := false }) ∧
    ((∀ h, s.host? c.slot = some h → cqRoom h c = false) →
      post s cn body = s.setCtx cn { c with heldRecs := [rec256], nextSeq := c.nextSeq + 1, cqfull := true }))

/-- R103 to R105, R112: of the queues that can give a packet the context takes one passed over 63 times, else one of the lowest CEIL; taking it moves its HEAD
by one and counts one pass for every other queue that could have given one. Then what each packet does (`s'` and `c'` are the state and the context after
HEAD has moved): SUBMIT and LAUNCH leave a launch to be admitted, TLOAD a template, TFREE marks it; a bad COUNT, a template that is loaded already or not
loaded, and a reserved type are refused with their reasons and change nothing else.
Choices of the model in it: log entry 35. -/
def Obligations.PacketsAreChosenTakenOrRefused : Prop :=
  (∀ (s s' : State) (cn q : Nat) (c c' : Ctx) (x : X Nat), s.ctx? cn = some c → fetchPacket s cn q = some (s', c', x) →
     canGive s cn c (getSq c q) = true ∧
     (63 ≤ (getSq c q).passed ∨
       ∀ k < 4, canGive s cn c (getSq c k) = true → (getSq c k).passed < 63 ∧ sqCeil (getSq c q) ≤ sqCeil (getSq c k)) ∧
     c'.lastQ = q ∧ (getSq c' q).head = (getSq c q).head + 1 ∧ (getSq c' q).passed = 0 ∧
     (∀ k < 4, k ≠ q → canGive s cn c (getSq c k) = true → (getSq c' k).passed = (getSq c k).passed + 1 ∧ (getSq c' k).head = (getSq c k).head) ∧
     (∀ k < 4, k ≠ q → canGive s cn c (getSq c k) = false → getSq c' k = getSq c k)) ∧
  (∀ (s s' : State) (cn q : Nat) (c' : Ctx) (p : Nat), fetchPacket s cn q = some (s', c', .ok p) →
     let good := 1 ≤ pCount p ∧ pCount p ≤ 1048576
     (pType p = 1 → good → exec (.submit cn q) s = .next (s'.setCtx cn { c' with launch := some {
       tag := pTag p, cqe := pCqe p, q := q, tid := none, arr := pPtr p, count := pCount p, ptr := 0, carr := pCarr p, bind := pBind p,
       step0 := pStep0 p, iter := 0, total := 1 } })) ∧
     (pType p = 1 → ¬ good → exec (.submit cn q) s = .next (refusePacket s' cn 0x0C p)) ∧
     (pType p = 2 → good → NMap.has c'.templates (pTid p) = false →
       let t := s'.setCtx cn { c' with
         templates := NMap.set c'.templates (pTid p) { arr := pPtr p, count := pCount p, free := none, live := 0 } }
       exec (.tload cn q) s = .next (if pCqe p then postOpen t cn 0x02 0 (pTag p) else t)) ∧
     (pType p = 2 → ¬ good → exec (.tload cn q) s = .next (refusePacket s' cn 0x0C p)) ∧
     (pType p = 2 → good → NMap.has c'.templates (pTid p) = true → exec (.tload cn q) s = .next (refusePacket s' cn 0x22 p)) ∧
     (∀ x, pType p = 3 → NMap.get? c'.templates (pTid p) = some x → x.free = none →
       exec (.tfree cn q) s = .next (s'.setCtx cn { c' with
         templates := NMap.set c'.templates (pTid p) { x with free := some (pTag p, pCqe p) } })) ∧
     (pType p = 3 → (∀ x, NMap.get? c'.templates (pTid p) = some x → x.free ≠ none) →
       exec (.tfree cn q) s = .next (refusePacket s' cn 0x21 p)) ∧
     (∀ x, pType p = 4 → NMap.get? c'.templates (pTid p) = some x → x.free = none →
       ∃ l : LaunchRec, l.tid = some (pTid p) ∧ l.arr = x.arr ∧ l.count = x.count ∧ l.total = pRepeat p + 1 ∧ l.iter = 0 ∧ l.step0 = pStep0 p ∧
         l.tag = pTag p ∧ l.q = q ∧ l.bind = pBind p ∧ l.ptr = pPtr p ∧ l.carr = pCarr p ∧
         exec (.launch cn q) s = .next (s'.setCtx cn { c' with
           templates := NMap.set c'.templates (pTid p) { x with live := x.live + 1 }, launch := some l })) ∧
     (pType p = 4 → (∀ x, NMap.get? c'.templates (pTid p) = some x → x.free ≠ none) →
       exec (.launch cn q) s = .next (refusePacket s' cn 0x21 p)) ∧
     (pType p = 0 ∨ 5 < pType p → exec (.reservedPacket cn q) s = .next (refusePacket s' cn 0x20 p)))

/-- R112, R126, R129, R464: a TEMPLATE_RELEASE of a freed template with no launch left removes it; an ACCORD of context scope is refused with
0x0C for its count, 0x04 and 0x0A for its scope, 0x09 while another is pending, and else staged whole when every item's form is right.
Choices of the model in it: log entries 35, 39 and 43. -/
def Obligations.TemplatesAndAccordRequests : Prop :=  (∀ (s : State) (cn tid : Nat) (c : Ctx) (x : Template) (tag : Bits32) (cqe : Bool), s.ctx? cn = some c →
    NMap.get? c.templates tid = some x → x.free = some (tag, cqe) → x.live = 0 →
    let t := s.setCtx cn { c with templates := NMap.erase c.templates tid }
    exec (.templateRelease cn tid) s = .next (if cqe then postOpen t cn 0x03 0 tag else t)) ∧
  (∀ (s s' : State) (cn q : Nat) (c' : Ctx) (p : Nat), fetchPacket s cn q = some (s', c', .ok p) → pType p = 5 →
    (pCount p = 0 ∨ 256 < pCount p → exec (.accord cn q) s = .next (postOpen s' cn 0x04 0x0C (pTag p))) ∧
    (1 ≤ pCount p → pCount p ≤ 256 → pScope p = 3 → exec (.accord cn q) s = .next (postOpen s' cn 0x04 0x04 (pTag p))) ∧
    (1 ≤ pCount p → pCount p ≤ 256 → pScope p = 2 → exec (.accord cn q) s = .next (postOpen s' cn 0x04 0x0A (pTag p))) ∧
    (1 ≤ pCount p → pCount p ≤ 256 → pScope p = 0 → c'.apend.isSome = true → exec (.accord cn q) s = .next (postOpen s' cn 0x04 0x09 (pTag p))) ∧
    (∀ l : List ItemBits, 1 ≤ pCount p → pCount p ≤ 256 → pScope p = 0 → c'.apend = none → packetItems s' cn c' p = .ok l →
      (∀ i ∈ l, formItem i = 0) →
      exec (.accord cn q) s = .next (s'.setCtx cn { c' with apend := some { tag := pTag p, items := l } })) ∧
    (1 ≤ pCount p → pCount p ≤ 256 → pScope p = 1 →
      exec (.accord cn q) s = .next (accordStream s' cn c' p (fun _ => packetItems s' cn c' p))))

/-- R108, R109, R112, R113, R115: an iteration opens when none is open and the context may run: its completion array is cleared, its step is STEP0 plus its
number, and admission starts at task 0 with attempt 0. The next task of an open epoch takes a slot on its HOME's die, or on the die with the most free
slots; it is ready at once when its dependences less those met before are zero and it is no boundary task, and waits otherwise.
Choices of the model in it: log entries 29 and 38. -/
def Obligations.IterationsOpenAndTasksAreAdmitted : Prop :=
  (∀ (s s1 : State) (cn : Nat) (c c1 : Ctx) (l : LaunchRec) (bind : List Word64), s.ctx? cn = some c → c.launch = some l → c.epoch = none →
     c.canRun = true → l.iter < l.total → launchBind s cn c l = .ok bind →
     taskWrite s cn l.carr (List.replicate (16 * l.count) 0) = .ok s1 → s1.ctx? cn = some c1 →
     ∃ e : Epoch, e.step = l.step0 + BitVec.ofNat 32 l.iter ∧ e.bind = bind ∧ e.arr = l.arr ∧ e.count = l.count ∧ e.carr = l.carr ∧ e.tasks = [] ∧
       e.next = 0 ∧ e.attempt = 0 ∧ e.phase = .open ∧ e.tag = l.tag ∧ e.tid = l.tid ∧ (e.lastIter = true ↔ l.iter + 1 = l.total) ∧
       exec (.iterationAdmit cn) s = .next (s1.setCtx cn { c1 with launch := some { l with iter := l.iter + 1 }, epoch := some e })) ∧
  (∀ (s : State) (cn : Nat) (c : Ctx) (e : Epoch) (n rcd die : Nat), s.ctx? cn = some c → c.epoch = some e → c.canRun = true → e.phase = .open →
     e.next < e.count → readNat s cn c (e.arr + 128 * e.next) 128 = .ok n → readNat s cn c (e.carr + 16 * e.next) 16 = .ok rcd →
     let d : BitVec 1024 := BitVec.ofNat 1024 n
     (tBnd d = true → e.next + 1 = e.count) → slotDie s c (tHome d) = some die →
     ∃ t c' e' x, exec (.taskAdmit cn) s = .next t ∧ t.ctx? cn = some c' ∧ c'.epoch = some e' ∧ e'.next = e.next + 1 ∧
       NMap.get? e'.tasks e.next = some x ∧ x.die = die ∧ x.deps = tDeps d - recPend rcd ∧ x.unit = none ∧ t.mem = s.mem ∧
       (tBnd d = false → (x.status = .ready ↔ tDeps d - recPend rcd = 0)) ∧
       (tHome d < 24 → die = nth (tHome d) c.place (tHome d)))

/-- R68, R117, R118, R357, R373: a dispatch takes a placeable ready task of the lowest class on its die and kind, on a unit that is free for it, or on its
stream's engine, or reports the fault of its descriptor; with no such task nothing happens. An ENCODE takes the requests bound to its frame. A ready
task that has waited, the oldest of its context and class on its die, may start one hop away when its own die has no unit for it: on the lowest free
unit of a neighbour, and on one where its watch expired before only when there is no other. It does so only when no task of a higher class waits on
either die, and its context is charged as for any dispatch. It runs with the state of its start, and its record names the unit.
Choices of the model in it: log entries 30 and 34. -/
def Obligations.DispatchChoosesTaskAndUnit : Prop :=
  (∀ (s : State) (die : Nat) (k : UnitKind) (idx : Nat) (y : Cand),
     (idx = 0 ∨ (k = .video ∧ idx = 1 ∧ ∀ z ∈ candidates s die k 0, placeable s die k 0 z = false)) →
     y ∈ candidates s die k idx → placeable s die k idx y = true →
     ∃ t, exec (.taskDispatch die k) s = .next t ∧
       ∃ x ∈ candidates s die k idx, placeable s die k idx x = true ∧
         (∀ z ∈ candidates s die k idx, placeable s die k idx z = true → x.2.2.cls ≤ z.2.2.cls) ∧
         ∀ c e, s.ctx? x.1 = some c → c.epoch = some e → NMap.get? e.tasks x.2.1 = some x.2.2 →
           (∀ f, dispatchCheck s x.1 c x.2.2.desc = some f →
             ∃ m, t = taskFault { s with drr := m } x.1 x.2.2.die f x.2.1 0xFFFFFFFF) ∧
           (∀ u table, dispatchCheck s x.1 c x.2.2.desc = none → pickUnit s die k idx x = some u → readTable s x.1 c x.2.2.desc = .ok table →
             ∃ m, let run := startRun x.1 x.2.1 e.attempt e.bind x.2.2 table
               let started := (({ s with drr := m } : State).setCtx x.1 { c with epoch := some { e with
                 tasks := NMap.set e.tasks x.2.1 { x.2.2 with status := .running, unit := some u } } }).setRun u run
               t = (if k = .video ∧ frOp (frameRecord started run c) = 2 then takeBound started x.1 (frStream (frameRecord started run c)) else started))) ∧
  (∀ (s : State) (die : Nat) (k : UnitKind), (∀ x ∈ candidates s die k 0, placeable s die k 0 x = false) →
     (k = .video → ∀ x ∈ candidates s die k 1, placeable s die k 1 x = false) → exec (.taskDispatch die k) s = .next s) ∧
  (∀ (s : State) (cn task : Nat) (c : Ctx) (e : Epoch) (x : TaskRec) (u : UnitId) (table : List (Option (BitVec 512))), s.ctx? cn = some c →
     c.epoch = some e → NMap.get? e.tasks task = some x → tKind x.desc < 3 →
     let k := taskKind x.desc
     (oldest ((candidates s x.die k 0).filter (fun y => y.1 == cn && y.2.2.cls == x.cls))).map (·.2.1) = some task →
     freeUnitOn s x.die k (avoided e task) = none → freeUnitIn s k (avoided e task) (neighbours s x.die) = some u →
     (∀ y ∈ candidates s x.die k 0 ++ candidates s u.die k 0, x.cls ≤ y.2.2.cls) → dispatchCheck s cn c x.desc = none →
     readTable s cn c x.desc = .ok table →
     (∀ d ∈ neighbours s x.die, d < 24 ∧ hops x.die d = 1 ∧ dieGone s d = false) ∧ u ∉ avoided e task ∧ u.die ∈ neighbours s x.die ∧
     ∃ m, exec (.dispatchNeighbour cn task) s = .next ((({ s with drr := m } : State).setCtx cn { c with epoch := some { e with
       tasks := NMap.set e.tasks task { x with status := .running, unit := some u } } }).setRun u (startRun cn task e.attempt e.bind x table)))

/-- R55, R108, R109, R361: a halted task, or a boundary task at its SYNC BND, whose groups have retired completes: its unit is free, and its record in the
open epoch is done, with the task's flags. A video task that wrote a bitstream waits for the host to acknowledge it.
Choices of the model in it: log entry 38. -/
def Obligations.TaskCompletionFreesTheUnit : Prop :=  ∀ (s s2 s3 : State) (u : UnitId) (r : Run) (c : Ctx) (e : Epoch) (x : TaskRec) (succ : List Nat), s.run? u = some r →
    r.phase = .halting ∨ r.phase = .handing → groupsDone r 15 = true → s.ctx? r.ctx = some c → c.epoch = some e → NMap.get? e.tasks r.task = some x → r.att = e.attempt → e.phase = .open →
    taskWrite ((s.setCtx r.ctx { c with epoch := some { e with tasks := NMap.set e.tasks r.task (x.finish r) } }).freeUnit u) r.ctx
      (e.carr + 16 * r.task) (toBytes 16 (doneRecord r x.demoted)) = .ok s2 →
    readSucc s2 r.ctx c x.desc = .ok succ → foldE (fun s i => decrement s r.ctx i) s2 succ = .ok s3 →
    (writesBitstream s r c = true → exec (.taskComplete u false) s = .next s) ∧
    ∃ t c' e' x', exec (.taskComplete u true) s = .next t ∧ (writesBitstream s r c = false → exec (.taskComplete u false) s = .next t) ∧ t.units = NMap.erase s.units u.key ∧ t.ctx? r.ctx = some c' ∧ c'.epoch = some e' ∧
      NMap.get? e'.tasks r.task = some x' ∧ x'.status = .done ∧ x'.astat = r.astat ∧ x'.user = r.user ∧ x'.tbw = r.tbw

/-- R57, R114, R131, R239, R315, R454: a boundary that is ready commits: the scale slots are updated, the taken requests apply or are refused, eviction and
shadows follow, the epoch closes, the compression pool is packed, the records are posted in that order, and sequences resumed by an applied request begin to
come back. Closing an epoch moves EPOCH on by one, leaves no open epoch and no
taken request, and makes the slot formats and the streams of this boundary the ones a replay returns to.
Choices of the model in it: log entries 42, 80, 82 and 91. -/
def Obligations.BoundaryCommitsInOrder : Prop :=  (∀ (s s1 : State) (cn : Nat) (c : Ctx) (e : Epoch), s.ctx? cn = some c → c.epoch = some e → boundaryReady s cn c e = true →
    commitUnits (updateSlots s cn) cn e.openUnits = .ok s1 →
    let applied := c.taken.foldl (applyRequest cn) (s1, [])
    let closed := replan (packPool (closeEpoch (commitShadows (evictMarked applied.1 cn) cn) cn e) cn) cn
    let told := applied.2.foldl (fun s r => postOpen s cn 0x04 r.2 r.1) closed
    exec (.boundaryCommit cn) s =
      .next (drainDetach (resumeTaken (selectEvictions (if e.cqe then post told cn (iterationRecord e) else told) cn) cn (c.taken.zip applied.2)) cn)) ∧
  (∀ (s : State) (cn : Nat) (c : Ctx) (e : Epoch), s.ctx? cn = some c →
    ∃ c', (closeEpoch s cn e).ctx? cn = some c' ∧ c'.epochNo = c.epochNo + 1 ∧ c'.epoch = none ∧ c'.taken = [] ∧ c'.slotFmtBase = c.slotFmt ∧
      c'.slotFmt = c.slotFmt ∧ c'.streamsBase = c'.streams ∧ c'.pages = c.pages ∧ c'.shadows = c.shadows ∧ c'.apend = c.apend ∧
      (closeEpoch s cn e).mem = s.mem)

/-- R123, R285, R286: a page's shadow is a page of the same tier that no one used; it begins as a copy of the page, counts as being copied, and no byte
outside it changes. At a commit a shadow becomes the page of its address and keeps the page's permission; the old page leaves the tier's used pages and
reads as zero throughout.
Choices of the model in it: log entries 5 and 81. -/
def Obligations.ShadowsCopyAndReplacePages : Prop :=
  (∀ (s t : State) (cn vp : Nat) (c : Ctx) (e : PageEnt), MemInv s → s.ctx? cn = some c → NMap.get? c.pages vp = some e →
     NMap.has c.shadows vp = false → makeShadow s cn vp = .ok t →
     ∃ c' x, t.ctx? cn = some c' ∧ NMap.get? c'.shadows vp = some x ∧ x.copying = true ∧ c'.pages = c.pages ∧
       shadowCount c (isFar e.phys) < (if isFar e.phys then c.shadowFar else c.shadowNear) ∧
       (∀ k < pageSize, Memory.get t.mem (x.phys + k) = Memory.get s.mem (e.phys + k)) ∧
       (∀ a, a < x.phys ∨ x.phys + pageSize ≤ a → Memory.get t.mem a = Memory.get s.mem a)) ∧
  (∀ (s : State) (cn vp : Nat) (c : Ctx) (x : ShadowEnt) (e : PageEnt) (far : Bool) (d pg : Nat), MemInv s → s.ctx? cn = some c →
     NMap.get? c.pages vp = some e → e.moveTo = none → pageOf e.phys = some (far, d, pg) →
     let t := commitShadow cn s (vp, x)
     (∃ c', t.ctx? cn = some c' ∧ NMap.get? c'.pages vp = some { phys := x.phys, ro := e.ro, moveTo := none } ∧
       (∀ v, v ≠ vp → NMap.get? c'.pages v = NMap.get? c.pages v)) ∧
     (∀ a, e.phys ≤ a → a < e.phys + pageSize → Memory.get t.mem a = 0) ∧
     (∀ a, a < e.phys ∨ e.phys + pageSize ≤ a → Memory.get t.mem a = Memory.get s.mem a))

/-- R130, R132, R418: once the contexts a pending module request names have no task on a unit, the boundary applies all its items or none,
lets every context dispatch again, and answers the command with the reason.
Choices of the model in it: log entries 44, 46 and 47. -/
def Obligations.ModuleBoundaryAppliesAllOrNone : Prop :=  ∀ (s : State) (tag : Nat) (l : List ItemBits) (entry : Option (Nat × TenantBits)), s.colyr.modReq = some (tag, l, entry) → moduleReady s = true →
    let free : State := { s with
      colyr := { s.colyr with modReq := none }, ctxs := s.ctxs.map (fun p => (p.1, { p.2 with stopped := false })) }
    (entry = none → moduleCheck free l = 0 → exec .moduleBoundary s = .next (endModule (l.foldl applyModule free) 0x09 tag 0)) ∧
    (entry = none → moduleCheck free l ≠ 0 → exec .moduleBoundary s = .next (endModule free 0x09 tag (moduleCheck free l))) ∧
    (∀ k e, entry = some (k, e) → moduleCheck free l = 0 →
      exec .moduleBoundary s = .next (endModule (putTenant ((l.filter (fun i => iType i != 0x102)).foldl applyModule free) k e 0x47 (entryKey e))
        0x07 tag 0)) ∧
    (∀ k e, entry = some (k, e) → moduleCheck free l ≠ 0 → exec .moduleBoundary s = .next (endModule free 0x07 tag (moduleCheck free l))) ∧
    (∀ i, iType i = 0x101 → applyModule free i = { free with power := { free.power with cap := iValue i % 2 ^ 16 } })

/-! ### Key-value paging (chapter 9) -/

/-- R238, R245 to R247, R295: a leaf or slot whose release waits is free once no walker holds an older epoch of its sequence; a free slot goes to the
oldest waiting request of the context. An acknowledged page-out keeps the page set's bytes as the host's copy, marks it swapped and counts RESID down; a
verified page-in puts the bytes back, marks it resident, counts RESID up and drops the copy, and a copy that does not verify changes nothing.
Choices of the model in it: log entries 12 and 83. -/
def Obligations.SlotsAndPageSetsOfSequences : Prop :=
  ((∀ (s : State) (cn sn : Nat) (c : Ctx) (q : SeqRec), s.ctx? cn = some c → NMap.get? c.seqs sn = some q →
     (∀ f ∈ q.freeing, ∀ e ∈ walkerEpochs s cn sn, ¬ e < f.1) →
     let old := (q.freeing.filter (fun f => !f.2.1)).map (fun f => f.2.2)
     old.Nodup → (∀ a ∈ old, a ∈ q.slots) →
     ∃ t c', exec (.leafFree cn sn) s = .next t ∧ t.ctx? cn = some c' ∧ t.mem = s.mem ∧ c'.kv.free = c.kv.free ++ old ∧
       ∃ q', NMap.get? c'.seqs sn = some q' ∧ q'.freeing = [] ∧ (∀ a ∈ old, q.slots.Nodup → a ∉ q'.slots) ∧
         { q' with freeing := q.freeing, slots := q.slots } = q) ∧
   (∀ (s s1 : State) (cn : Nat) (c : Ctx) (u : UnitId) (sn pg a : Nat) (fr : List Nat) (wr : List (Option UnitId × Nat × Nat)),
     s.ctx? cn = some c → c.kv.free = a :: fr → c.kv.waiting = (some u, sn, pg) :: wr →
     allocPage (s.setCtx cn { c with kv := { c.kv with free := fr, waiting := wr } }) cn sn pg a = .ok s1 →
     exec (.kvSlotGrant cn) s = .next (kvPressure s1 cn)) ∧
   (∀ (s : State) (cn : Nat) (c : Ctx) (sn pg a : Nat) (fr : List Nat) (wr : List (Option UnitId × Nat × Nat)),
     s.ctx? cn = some c → c.kv.free = a :: fr → c.kv.waiting = (none, sn, pg) :: wr →
     exec (.kvSlotGrant cn) s =
       .next (kvPressure (startFetch (s.setCtx cn { c with kv := { c.kv with free := fr, waiting := wr } }) cn sn pg a) cn))) ∧
  (∀ (s : State) (cn sn pg : Nat) (c : Ctx) (q : SeqRec) (a : Nat), s.ctx? cn = some c → NMap.get? c.seqs sn = some q →
     (hostLink s c).isSome = true → spareHeld q pg = false → pg < q.maxLp →
     (∀ bs h, unsent s cn = false → pageEntry s cn c q pg = .ok (a, psCopying) → readBytes s cn c a (2 ^ c.kv.n) = .ok bs → seqHeader s cn c q = .ok h →
       let kept : State := { s with swap := ((cn, sn, pg), bs) :: s.swap.filter (fun p => p.1 != (cn, sn, pg)) }
       exec (.pageSetSwapped cn sn pg) s = .next (kvContinue ((fwAdd (leafEdit kept cn sn pg 0 psSwapped) cn (q.root + 24) (-1)).modSeq cn sn
         (fun q => { q with freeing := q.freeing ++ [(hEpoch h + 1, false, a)] })) cn sn)) ∧
     (∀ bs, pageEntry s cn c q pg = .ok (a, psFetching) → s.swap.find? (fun p => p.1 == (cn, sn, pg)) = some ((cn, sn, pg), bs) →
       let back := fwAdd (leafEdit (fwWrite s cn a bs) cn sn pg a psResident) cn (q.root + 24) 1
       exec (.pageSetResident cn sn pg true) s =
         .next (kvContinue { back with swap := back.swap.filter (fun p => p.1 != (cn, sn, pg)) } cn sn)) ∧
     (pageEntry s cn c q pg = .ok (a, psFetching) → exec (.pageSetResident cn sn pg false) s = .next s))

/-! ### Memory events, maintenance, fabric (chapters 11, 13, 15) -/

/-- R269, R270, R275, R277, R279, R296, R297: a burst or far word that decodes as first read, or on one of three re-reads, is corrected: the events of one line
and kind are counted together until the tier's scrub interval ends, and nothing else changes. One that never decodes loses its line. An uncorrectable word
of a unit's data stops what its task computed; a symbol found wrong on a path is a path event; an encryption engine whose comparison fails asks for a replay.
A dead symbol is declared once, on a channel that keeps at most six, and its channel is then checked for evacuation.
Choices of the model in it: log entries 11, 84, 94 and 100. -/
def Obligations.FailedReadsAndDeadSymbols : Prop :=
  (∀ (s : State) (die chan line : Nat) (r : NearRetry), die < 24 → chan < 128 → line < nearPages * 256 →
    let dead := NMap.getD (tierOf s false die).dead chan []
    let place := linePhys false die chan line
    (r.first = [] → rsDecodes dead r.first = true → exec (.nearReadRetry die chan line r) s = .next s) ∧
    (∀ y l, r.first = y :: l → rsDecodes dead r.first = true → exec (.nearReadRetry die chan line r) s = .next (corrected s 0x01 false die chan y place)) ∧
    (rsDecodes dead r.first = false → (∃ l ∈ r.again.take 3, rsDecodes dead l = true) →
      exec (.nearReadRetry die chan line r) s = .next (corrected s 0x02 false die chan 127 place)) ∧
    (rsDecodes dead r.first = false → (∀ l ∈ r.again.take 3, rsDecodes dead l = false) → r.found = [] → dead.length < 3 →
      (rsDecodes (dedup dead) r.wrong = true → exec (.nearReadRetry die chan line r) s = .next (corrected s 0x02 false die chan 127 place)) ∧
      (rsDecodes (dedup dead) r.wrong = false →
        exec (.nearReadRetry die chan line r) s = .next (uncorrectedLine s false die chan place dieReset bothLost)))) ∧
  (∀ (s : State) (stack chan line : Nat) (first : List Nat) (again : List (List Nat)), stackFitted s.order stack = true → chan < 32 →
    line < farPages * 1024 →
    let lost (l : List Nat) := wordCheck (NMap.getD (tierOf s true stack).dead chan [] ++ l) = .detected
    let place := linePhys true stack chan line
    let ev := WordEvent.far stack chan line first again
    (first = [] → ¬ lost first → exec (.farWordRetry ev) s = .next s) ∧
    (∀ y l, first = y :: l → ¬ lost first → exec (.farWordRetry ev) s = .next (corrected s 0x04 true stack chan y place)) ∧
    (lost first → (∃ l ∈ again.take 3, ¬ lost l) → exec (.farWordRetry ev) s = .next (corrected s 0x04 true stack chan 127 place)) ∧
    (lost first → (∀ l ∈ again.take 3, lost l) → exec (.farWordRetry ev) s = .next (uncorrectedLine s true stack chan place dieReset bothLost))) ∧
  (∀ (s : State) (u : UnitId) (r : Run) (wrong : List Nat), s.run? u = some r →
    (wordCheck wrong = .clean → exec (.farWordRetry (.unit u wrong)) s = .next s) ∧
    (wordCheck wrong = .corrected → exec (.farWordRetry (.unit u wrong)) s = .next (logPath s u.die (nth 127 wrong 0))) ∧
    (wordCheck wrong = .detected → exec (.farWordRetry (.unit u wrong)) s = .next (stepDataError s u r.ctx))) ∧
  (∀ (s : State) (die nibble : Nat), exec (.farWordRetry (.path die nibble)) s = .next (logPath s die nibble)) ∧
  (∀ (s : State) (cn vp : Nat) (c : Ctx) (e : PageEnt) (ep : Epoch), s.order = .full → s.ctx? cn = some c → NMap.get? c.pages vp = some e →
    c.enc = true → isFar e.phys = true → c.epoch = some ep →
    exec (.farWordRetry (.encryption cn vp)) s = .next ((s.log (quadrant (pageDie e.phys)) 9 0
        (recMemory 0x0C (pageDie e.phys) 1 0 127 (e.phys / 64) 1 cn)).sendSquall
      { kind := 1, src := quadrant (pageDie e.phys), ctx := cn, att := ep.attempt % 16, cause := 1, epoch := c.epochNo })) ∧
  (∀ (s : State) (kind : Nat) (far : Bool) (die chan sym phys : Nat),
    let x : Corrected := { kind := kind, far := far, die := die, chan := chan, sym := sym, phys := phys, count := 1 }
    ((∀ y ∈ s.corrected, y.same x = false) → (corrected s kind far die chan sym phys).corrected = s.corrected ++ [x]) ∧
    (∀ y, s.corrected = [y] → y.same x = true → (corrected s kind far die chan sym phys).corrected = [{ y with count := y.count + 1 }]) ∧
    { corrected s kind far die chan sym phys with corrected := s.corrected } = s ∧
    (∀ y ∈ (flushCorrected s far die).corrected, y.far ≠ far ∨ y.die ≠ die)) ∧
  (∀ (s : State) (die chan sym : Nat), die < 24 → s.near.length = 24 → chan < 128 → sym < 72 →
    let old := NMap.getD (tierOf s false die).dead chan []
    (sym ∉ old → old.length = 2 → exec (.symbolDead die chan sym) s = .next (evacuate (declareDead s die chan sym) false die)) ∧
    (old.length ≥ 6 → exec (.symbolDead die chan sym) s = .next (evacuate s false die)) ∧
    (sym ∈ old → exec (.symbolDead die chan sym) s = .next (checkChannel s die chan)) ∧
    (sym ∉ old → old.length < 2 →
      ∃ t, exec (.symbolDead die chan sym) s = .next t ∧ t.mem = s.mem ∧
        NMap.getD (tierOf t false die).dead chan [] = insertNat sym old ∧ (tierOf t false die).evacuating = (tierOf s false die).evacuating))

/-- R271, R272, R276, R285, R286, R289, R389: a page that is retired joins the bad pages, and what lies on it, a context's page, shadow or backing page, begins
to move; firmware may also move a page to another die, retiring nothing; a finished move swings the entry to a copy of the page, with its shadow, and the
old page is scrubbed; a scrubbed page reads as zero and is free, and moves that waited for one begin; an evacuated tier with nothing left on it is excluded.
Choices of the model in it: log entries 5, 81 and 93. -/
def Obligations.PagesRetireMoveAndAreScrubbed : Prop :=  (∀ (s : State) (far : Bool) (die pg : Nat), pg < (if far then farPages else nearPages) → die < 24 → (far = false → 8 ≤ pg) →
    (far = true → stackFitted s.order die = true) → pg ∉ (tierOf s far die).bad →
    let told := (logMemory s 0x08 far die 0 127 (physPage far die pg)).modTier far die (fun t => { t with bad := insertNat pg t.bad })
    let place := physPage far die pg
    (anyOwner told place = none → backingOwner told place = none → exec (.pageRetire far die pg none) s = .next told) ∧
    (∀ cn, anyOwner told place = none → backingOwner told place = some cn → exec (.pageRetire far die pg none) s = .next (moveBackingPage told cn place)) ∧
    (∀ cn vp, pageOwner told place = none → shadowOwner told place = some (cn, vp) →
      exec (.pageRetire far die pg none) s = .next (moveShadow told cn vp far (dieOrder die))) ∧
    (∀ cn vp, pageOwner told place = some (cn, vp) → ((told.ctx? cn).bind (fun c => NMap.get? c.pages vp)).bind (fun e => e.moveTo) = none →
      exec (.pageRetire far die pg none) s = .next ((beginMove told cn vp [(far, dieOrder die)]).getD told)) ∧
    (∀ cn vp d, pageOwner s place = some (cn, vp) → d < 24 → ((s.ctx? cn).bind (fun c => NMap.get? c.pages vp)).bind (fun e => e.moveTo) = none →
      exec (.pageRetire far die pg (some d)) s = .next ((beginMove s cn vp [(far, [d])]).getD s))) ∧
  (∀ (s : State) (far : Bool) (die pg cn vp : Nat) (c : Ctx) (e : PageEnt) (q : Nat), MemInv s →
    pageOwner s (physPage far die pg) = some (cn, vp) → s.ctx? cn = some c → NMap.get? c.pages vp = some e → e.moveTo = some q →
    ∃ t c', t.ctx? cn = some c' ∧ NMap.get? c'.pages vp = some { e with phys := q, moveTo := none } ∧ c'.shadows = c.shadows ∧
      (∀ k < pageSize, Memory.get t.mem (q + k) = Memory.get s.mem (physPage far die pg + k)) ∧
      (∀ a, a < q ∨ q + pageSize ≤ a → Memory.get t.mem a = Memory.get s.mem a) ∧
      (NMap.get? c.shadows vp = none → exec (.pageMoveComplete far die pg) s = .next t) ∧
      exec (.pageMoveComplete far die pg) s = .next (moveShadow t cn vp (isFar q) (dieOrder (pageDie q)))) ∧
  (∀ (s : State) (far : Bool) (die pg : Nat), (tierOf s far die).scrubbing.contains pg = true → MemInv s →
    ∃ t, exec (.pageScrubDone far die pg) s = .next (startMoves t) ∧ pg ∉ (tierOf t far die).scrubbing ∧
      (∀ a, physPage far die pg ≤ a → a < physPage far die pg + pageSize → Memory.get t.mem a = 0) ∧
      (∀ a, a < physPage far die pg ∨ physPage far die pg + pageSize ≤ a → Memory.get t.mem a = Memory.get s.mem a)) ∧
  (∀ (s : State) (far : Bool) (die : Nat), (tierOf s far die).evacuating = true → tierBusy s far die = false →
    let x := tierOf s far die
    let out := logMemory (s.modTier far die (fun t => { t with evacuating := false, excluded := true, tenants := [] })) 0x0A far die 0 127
      (physPage far die 0)
    exec (.evacuationComplete far die) s = .next (startMoves (notice (logExclusion out die 7 0 (if far then 6 else 5)) (if far then 6 else 5) die
      (fun _ c => x.tenants.contains c.tenant))))

/-- R297, R394 to R397: a request of firmware's own, periodic or after an error, for a known activity whose target is present, with no conflict and no reset,
starts it and logs status 0, a scrub writing first the records of the corrected events of its tier;
with a conflict that goes before it, it is queued with status 1 while fewer than 32 wait, and turned away with status 3 otherwise; the first of
the queue starts when its conflicts are over; one that runs ends with status 6 in the log, paused ones go on, and what it found is acted on.
Choices of the model in it: log entries 11 and 67. -/
def Obligations.MaintenanceStartsQueuesAndEnds : Prop :=  (∀ (s0 : State) (act target : Nat) (err : Bool), act ≠ actFWU → maintKnown act target = true →
    let s := if act < 2 ∧ err = false then flushCorrected s0 (act == 0) target else s0
    let urgent := err && (act == 2 || act == 3 || act == 4)
    let m : Maint := { act := act, target := target, urgent := urgent, paused := false }
    maintAbsent s act target = false →
    (maintDeferred s act target = false → (∀ r ∈ s.maintRun ++ s.maintQueue, r.clash act target = false) →
      (urgent = false → exec (.maintPeriodicRequest act target err) s0 =
        .next (logMaint { s with maintRun := s.maintRun ++ [m] } (maintDie act target) act 0)) ∧
      exec (.maintPeriodicRequest act target err) s0 = .next (logMaint (maintBegin (if urgent then pausePeriodic s act target else s) m)
        (maintDie act target) act 0)) ∧
    (∀ x ∈ s.maintRun ++ s.maintQueue, x.clash act target = true → x.urgent = true ∨ urgent = false → s.maintQueue.length < 32 →
      exec (.maintPeriodicRequest act target err) s0 = .next (logMaint { s with maintQueue := s.maintQueue ++ [m] } (maintDie act target) act 1)) ∧
    (∀ x ∈ s.maintRun ++ s.maintQueue, x.clash act target = true → x.urgent = true ∨ urgent = false → 32 ≤ s.maintQueue.length →
      exec (.maintPeriodicRequest act target err) s0 = .next (logMaint s (maintDie act target) act 3))) ∧
  (∀ (s : State) (m : Maint) (rest : List Maint), s.maintQueue = m :: rest → m.act ≠ actFWU → maintDeferred s m.act m.target = false →
    (∀ r ∈ s.maintRun, r.clash m.act m.target = false) → m.urgent = false →
    exec (.maintActivityStart m.act m.target) s =
      .next (logMaint { s with maintQueue := rest, maintRun := s.maintRun ++ [m] } (maintDie m.act m.target) m.act 0)) ∧
  (∀ (s : State) (m : Maint) (rest : List Maint), s.maintQueue = m :: rest → maintDeferred s m.act m.target = false → m.urgent = true →
    (∀ r ∈ s.maintRun, r.clash m.act m.target = true → r.urgent = false) →
    exec (.maintActivityStart m.act m.target) s =
      .next (logMaint (maintBegin (pausePeriodic { s with maintQueue := rest } m.act m.target) m) (maintDie m.act m.target) m.act 0)) ∧
  (∀ (s : State) (act target : Nat) (found : List Nat) (m : Maint),
    s.maintRun.find? (fun m => m.act == act && m.target == target && !m.paused) = some m →
    let ended := logMaint (resumePaused { s with maintRun := s.maintRun.erase m }) (maintDie act target) act 6
    (act = 2 → exec (.maintActivityDone act target found) s = .next (viaFound ended target found)) ∧
    (act = 3 → exec (.maintActivityDone act target found) s = .next (lanesFound ended target found)) ∧
    (act = 6 → exec (.maintActivityDone act target found) s = .next (fwDone ended)) ∧
    (act ∉ [2, 3, 6] → exec (.maintActivityDone act target found) s = .next ended))

/-- R324 to R328, R332, R344, R442: a replay of an edge notes the sequence number the receiver asked from; one that succeeds is a corrected path event, and
failed replays of one flit are counted. After eight in a row the edge retrains; one whose retraining fails on neither half, or on one, stays in use, the
failed half staying off; one that fails on both is excluded. A port in the mode of its host port comes up when its reference clock is present, and a port
that goes down loses its hosts and what waited on it. LLDP frames are sent and kept, and ARP and neighbour solicitations for the port's own addresses
answered, on a port that is up, where the frame is whole and finds room; others are not.
Choices of the model in it: log entries 63, 64 and 106. -/
def Obligations.LinksComeUpReplayAndFail : Prop :=
  (∀ (s : State) (edge a b : Nat), edgeEnds edge = some (a, b) → s.exclEdges.contains edge = false →
     (∀ dir seq, seq < 1024 →
       let k := edge * 2 + (if dir then 1 else 0)
       let fails := if NMap.get? s.edgeSeq k = some seq then NMap.getD s.edgeFails k 0 else 0
       exec (.flitReplay edge dir seq true) s = .next (logPath { s with
         edgeSeq := NMap.set s.edgeSeq k seq, edgeFails := NMap.set s.edgeFails k 0 } (if dir then a else b) 127) ∧
       exec (.flitReplay edge dir seq false) s = .next { s with
         edgeSeq := NMap.set s.edgeSeq k seq, edgeFails := NMap.set s.edgeFails k (fails + 1) }) ∧
     (∀ failA failB, NMap.getD s.edgeFails (edge * 2) 0 < 8 → NMap.getD s.edgeFails (edge * 2 + 1) 0 < 8 →
       exec (.edgeRetrain edge failA failB) s = .next s) ∧
     (∀ failA failB, 8 ≤ NMap.getD s.edgeFails (edge * 2) 0 ∨ 8 ≤ NMap.getD s.edgeFails (edge * 2 + 1) 0 → ∃ h : List Nat,
       let after : State := { s with edgeFails := NMap.erase (NMap.erase s.edgeFails (edge * 2)) (edge * 2 + 1), halfEdges := h }
       (∀ x, x ∈ h ↔ x ∈ s.halfEdges ∨ (x = edge * 2 ∧ failA = true) ∨ (x = edge * 2 + 1 ∧ failB = true)) ∧
       (edge * 2 ∈ h → edge * 2 + 1 ∈ h → exec (.edgeRetrain edge failA failB) s = .next (excludeEdge after edge a b)) ∧
       (¬ (edge * 2 ∈ h ∧ edge * 2 + 1 ∈ h) → exec (.edgeRetrain edge failA failB) s = .next (logPath after a 127)))) ∧
  (∀ (s : State) (port : Nat),
     (hostPortsRun s = true → hostPortAlive s (hostPort port) = true → portInMode (takeMode s (hostPort port)) port = true → portClock s port = true →
       exec (.linkUp port) s = .next (modPort (takeMode s (hostPort port)) port (fun p => { p with up := true }))) ∧
     ((portRec s port).up = true → exec (.linkDown port) s = .next (dropLink s port)) ∧
     (hostsOn s port = [] → (portRec s port).up = true → port < s.ports.length → exec (.linkDown port) s =
       .next (modPort s port (fun p => { p with up := false, paused := List.replicate 8 false, tx := [] }))) ∧
     (portUp s port = true → exec (.lldpTransmit port) s = .next (sendOwn s port
       (.lldp port (Config.lldpText 0 port) (Config.lldpText 1 port) (Config.lldpText 2 port) Config.lldpTtl))) ∧
     (∀ frame f, portUp s port = false → exec (.lldpReceive port frame f) s = .next s) ∧
     (∀ frame f, PortFrameTaken s port f true →
       exec (.lldpReceive port frame f) s = .next (modPort (portState s port f) port (fun p => { p with lldpPeer := frame }))) ∧
     (∀ f, PortFrameTaken s port f false →
       let a := portState s port f
       (∀ ip, ip ≠ 0 → ip = ipv4Of s port → exec (.arpRequest port ip f) s = .next (sendOwn a port (.arpReply port ip))) ∧
       (∀ ip, ip ≠ ipv4Of s port ∨ ip = 0 → exec (.arpRequest port ip f) s = .next a) ∧
       (∀ ip, ip = linkLocal port ∨ (ip ≠ 0 ∧ ip = ipv6Of s port) →
         exec (.neighbourSolicitation port ip f) s = .next (sendOwn a port (.neighbourAdvert port ip))) ∧
       (∀ ip, ip ≠ linkLocal port → ip = 0 ∨ ip ≠ ipv6Of s port → exec (.neighbourSolicitation port ip f) s = .next a)) ∧
     (∀ o, portPaused s port 0 = false → sendOwn s port o = { s with out := s.out ++ [o] }))

/-! ### Integrity and recovery (chapter 15) -/

/-- R323, R369, R378, R379, R384, R391: what each Squall does when it arrives; it leaves the fabric, its sequence number is remembered, and a copy of one that
has been seen does nothing. KIND 0x01 aborts the epoch it names and no other;
KIND 0x02 every epoch with tasks on its source; KIND 0x03 the open epoch of a faulted context; KIND 0x04 stops a context's tasks. -/
def Obligations.SquallsActOnArrival : Prop :=
  (∀ (s : State) (src cn att cause : Nat) (ep : Word64) (c : Ctx) (e : Epoch) (q : Squall),
    s.squalls.find? (fun x => { x with seq := 0 } == { kind := 1, src := src, ctx := cn, att := att, cause := cause, epoch := ep, seq := 0 } &&
      !(s.squallSeen.contains (x.src, x.seq))) = some q →
    let rest : State := { s with squalls := s.squalls.erase q, squallSeen := (q.src, q.seq) :: s.squallSeen }
    s.ctx? cn = some c → c.epoch = some e →
    (c.epochNo = ep → e.attempt % 16 = att → exec (.squallAbortEpoch src cn att cause ep) s = .next (abortEpoch rest cn true)) ∧
    (c.epochNo ≠ ep ∨ e.attempt % 16 ≠ att → exec (.squallAbortEpoch src cn att cause ep) s = .next rest)) ∧
  (∀ (s : State) (src cn att cause : Nat) (ep : Word64), (∀ x ∈ s.squalls, (x.src, x.seq) ∈ s.squallSeen) →
    exec (.squallAbortEpoch src cn att cause ep) s = .next s ∧ exec (.squallAbortDie src cause) s = .next s ∧
    exec (.squallStopContext src cn cause) s = .next s ∧ exec (.squallDrydown src cn) s = .next s) ∧
  (∀ (s : State) (q : Squall),
    let rest : State := { s with squalls := s.squalls.erase q, squallSeen := (q.src, q.seq) :: s.squallSeen }
    let fresh (x : Squall) : Bool := !(s.squallSeen.contains (x.src, x.seq))
    (∀ src cause, s.squalls.find? (fun x => (x.kind == 2 && x.src == src && x.cause == cause) && fresh x) = some q →
      exec (.squallAbortDie src cause) s = .next (s.ctxs.foldl (fun t p => match p.2.epoch with
        | some e => if tasksOnDie e src then abortEpoch t p.1 true else t
        | none => t) rest)) ∧
    (∀ src cn code, s.squalls.find? (fun x => (x.kind == 3 && x.src == src && x.ctx == cn && x.cause == code) && fresh x) = some q →
      exec (.squallStopContext src cn code) s = .next (abortEpoch rest cn false)) ∧
    (∀ src cn, s.squalls.find? (fun x => (x.kind == 4 && x.src == src && x.ctx == cn) && fresh x) = some q →
      exec (.squallDrydown src cn) s = .next (stopTasks rest cn)))

/-- R369, R379, R384 to R386: aborting an open epoch tells every task of the context to stop, drops its unsent work, and waits for the dies of the
epoch, the coordinating die among them; an abort after a failure counts one failed attempt; an epoch that is aborted already is left alone. A die's
report takes it from the dies awaited and frees its units of the context; the last report ends the abort. -/
def Obligations.AbortsStopTasksAndAwaitTheDies : Prop :=
  (∀ (s : State) (cn : Nat) (failed : Bool) (c : Ctx) (e : Epoch), s.ctx? cn = some c → c.epoch = some e →
     (∀ l, e.phase = .aborting l → abortEpoch s cn failed = s) ∧
     ((∀ l, e.phase ≠ .aborting l) → ∃ c' e' l, (abortEpoch s cn failed).ctx? cn = some c' ∧ c'.epoch = some e' ∧ e'.phase = .aborting l ∧ coordDie c ∈ l ∧
       e'.failed = (if failed then e.failed + 1 else e.failed) ∧ e'.tasks = e.tasks ∧ e'.attempt = e.attempt ∧
       (abortEpoch s cn failed).mem = s.mem ∧ (abortEpoch s cn failed).out = s.out ∧
       (∀ u r, s.run? u = some r → r.ctx = cn →
         (abortEpoch s cn failed).run? u = some { r with phase := .stopping, moves := [], drains := [], attns := [], pushes := 0, stagePushes := 0,
                                                         asm := [] }) ∧
       (∀ u r, s.run? u = some r → r.ctx ≠ cn → (abortEpoch s cn failed).run? u = some r))) ∧
  (∀ (s : State) (die cn : Nat) (c : Ctx) (e : Epoch) (l : List Nat), s.ctx? cn = some c → c.epoch = some e → e.phase = .aborting l → die ∈ l →
     (∀ d ∈ s.resets, resetCovers d die = false) →
     let mine (k : Nat) : Bool := k / 64 == die && (match NMap.get? s.units k with
       | some r => r.ctx == cn
       | none => false)
     let left := l.filter (· != die)
     let t := (dropUnits s mine).setCtx cn { c with epoch := some { e with phase := .aborting left } }
     (left ≠ [] → exec (.quiescence die cn) s = .next t) ∧
     (left = [] → exec (.quiescence die cn) s = .next (drainDetach (finishAbort t cn e) cn)))

/-- R95, R369 to R373: a task's context fault marks its context, sends a Squall of kind 0x03 from the die of the unit, posts one record of kind
0x10 with the fault's code, TAG and STEP of the epoch, the task's index in USER and the instruction's in ASTAT, and frees the unit; a fault of a
context that is stopped already only frees the unit. The first expiry of a unit watch logs the hang, tells the task to stop, remembers the unit and asks for a
replay of the epoch; a second expiry for the same task is a context fault. A stuck context does the same, once.
Choices of the model in it: log entry 85. -/
def Obligations.FaultsReportAndWatchesReplayOnce : Prop :=
  (∀ (s : State) (u : UnitId) (r : Run) (c : Ctx) (e : Epoch) (f : CFault) (ix : Nat), s.ctx? r.ctx = some c → c.epoch = some e →
     (c.faulted = true → unitFault s u r f ix = s.freeUnit u) ∧
     (c.faulted = false → ∃ told : State,
       unitFault s u r f ix =
         (post told r.ctx (mkRec 0x10 f.code e.tag e.step (BitVec.ofNat 32 ix) (BitVec.ofNat 32 r.task) false false)).freeUnit u ∧
       told.ctx? r.ctx = some { c with faulted := true } ∧ told.units = s.units ∧ told.mem = s.mem ∧ told.out = s.out ∧
       told.squalls = s.squalls ++
         [{ kind := 3, src := u.die, ctx := r.ctx, att := e.attempt % 16, cause := f.code, epoch := c.epochNo, seq := nth 0 s.squallSeq u.die }])) ∧
  ((∀ (s : State) (u : UnitId) (r : Run) (c : Ctx) (e : Epoch), s.run? u = some r → s.ctx? r.ctx = some c → c.epoch = some e →
     r.phase ≠ .stopping → r.att = e.attempt → s.power.hold = false → kvWaits s c u r = false →
     let logged := s.logRec 0x20 u.die u.kind.ix u.idx r.ctx r.att e.step.toNat 3 0xFF (detailOf r.task (pcIndex r))
     let told := (if u.kind = .cluster then captureCluster logged u else logged).modRun u stopRun
     ((∀ p ∈ e.expired, p.1 ≠ r.task) →
       exec (.unitWatchExpiry u) s = .next ((told.modCtx r.ctx (fun c => c.modEpoch (fun e => { e with
         expired := e.expired ++ [(r.task, u)] }))).sendSquall
         { kind := 1, src := u.die, ctx := r.ctx, att := e.attempt % 16, cause := 3, epoch := c.epochNo })) ∧
     ((∃ p ∈ e.expired, p.1 = r.task) →
       exec (.unitWatchExpiry u) s = .next (taskFault told r.ctx u.die .hang r.task (BitVec.ofNat 32 (pcIndex r))))) ∧
   (∀ (s : State) (cn : Nat) (c : Ctx) (e : Epoch), s.ctx? cn = some c → c.epoch = some e → contextStuck s cn c e = true →
     let told := s.logRec 0x21 (coordDie c) 4 0 cn e.attempt e.step.toNat 3 0xFF 0
     (e.ctxExpired = false →
       exec (.contextWatchExpiry cn) s = .next ((told.setCtx cn { c with epoch := some { e with ctxExpired := true } }).sendSquall
         { kind := 1, src := coordDie c, ctx := cn, att := e.attempt % 16, cause := 3, epoch := c.epochNo })) ∧
     (e.ctxExpired = true →
       exec (.contextWatchExpiry cn) s = .next (contextFault told cn (coordDie c) .noProgress 0xFFFFFFFF 0xFFFFFFFF e.tag e.step))))

/-- R25, R373, R375, R376, R387: a unit that does not stop counts one unit-state fault and takes its die through a reset, a video engine being
reset alone; a fault in an island's state does the same for a unit's island, and stops any other island until it restarts; control-class flits lost at
a router reset the compute part; a die compute reset begins once, and its end lets held epochs go on. An island that restarts is logged, what it held is
lost, and it runs again; a restart that fails is counted, and the second failed one in the window makes the island persistent.
Choices of the model in it: log entries 11, 66, 99 and 100. -/
def Obligations.UnitsDiesAndIslandsAreReset : Prop :=
  ((∀ (s : State) (u : UnitId) (r : Run), s.run? u = some r → r.phase = .stopping →
     (u.kind ≠ .video → exec (.unitStopTimeout u) s = .next (dieReset (unitStrike s u) u.die)) ∧
     (u.kind = .video → exec (.unitStopTimeout u) s = .next (((unitStrike s u).freeUnit u).logRec 0x26 u.die 3 u.idx 0xFF 0 0 2 0xFF 0))) ∧
   (∀ (s : State) (die idx : Nat) (f : StateFault), f ≠ .controlFlits → die < 24 →
     (idx < 16 → exec (.pllLossOfLock die 0 idx f) s = .next (dieReset (unitStrike s { die := die, kind := .cluster, idx := idx }) die)) ∧
     (idx < 8 → exec (.pllLossOfLock die 1 idx f) s = .next (dieReset (unitStrike s { die := die, kind := .pipeline, idx := idx }) die)) ∧
     exec (.pllLossOfLock die 2 0 f) s = .next (dieReset s die) ∧
     (∀ isl, isl = 3 ∨ isl = 5 ∨ (isl = 4 ∧ stackFitted s.order die = true) →
       exec (.pllLossOfLock die isl 0 f) s = .next { s with islandsDown := insertNat (islKey isl die 0) s.islandsDown })) ∧
   (∀ (s : State) (die idx : Nat) (f : StateFault), f ≠ .controlFlits → 24 ≤ die → die < 28 →
     (idx < 2 → s.order = .full → exec (.pllLossOfLock die 8 idx f) s = .next (unitStrike { s with
       islandsDown := insertNat (islKey 8 die idx) s.islandsDown } { die := die, kind := .video, idx := idx })) ∧
     (idx < 2 → exec (.pllLossOfLock die 7 idx f) s = .next { s with islandsDown := insertNat (islKey 7 die idx) s.islandsDown }) ∧
     (∀ isl, isl = 6 ∨ (isl = 9 ∧ s.order = .full) →
       exec (.pllLossOfLock die isl 0 f) s = .next { s with islandsDown := insertNat (islKey isl die 0) s.islandsDown })) ∧
   (∀ (s : State) (f : StateFault), f ≠ .controlFlits → exec (.pllLossOfLock 24 10 0 f) s = .next (moduleReset s .rom true 2)) ∧
   (∀ (s : State) (die : Nat), die < 24 → exec (.pllLossOfLock die 5 0 .controlFlits) s = .next (partReset s 2)) ∧
   (∀ (s : State) (die : Nat), (∃ d ∈ s.resets, resetCovers d die = true) → dieReset s die = s) ∧
   (∀ (s : State) (d : ResetDomain) (failed : List UnitId) (ctrl : List Nat), d ∈ s.resets → d ≠ .module → (d = .computePart → s.power.hold = false) →
     let ended := resumePaused { s with resets := s.resets.erase d }
     let tested := (ctrl.filter (fun x => decide (x < 24) && resetCovers d x)).foldl excludeDie
       ((failed.filter (fun u => u.exists_ ended.order && decide (u.die < 24) && resetCovers d u.die)).foldl excludeUnit ended)
     let t := kvHaltAll (excludePersistent tested)
     exec (.resetComplete d failed ctrl) s = .next { t with ctxs := t.ctxs.map (fun p => (p.1, p.2.modEpoch (fun e =>
       if e.phase = .held ∧ t.resets.all (fun x => x != .computePart) then { e with phase := .open } else e))) })) ∧
  (∀ (s : State) (k : IslandKind) (die idx : Nat), islandExists s k die idx = true →
     let lost := islandLost (s.logRec 0x26 die (if k = .video then 3 else 7) (idx % 16) 0xFF 0 0 2 0xFF 0) k die idx
     let key := islKey (islandCode k) die idx
     let counted := restartFailed lost key
     let n := NMap.getD counted.restarts key 0
     exec (.islandRestart k die idx true) s = .next { lost with islandsDown := lost.islandsDown.filter (· != key) } ∧
     (n < 2 → exec (.islandRestart k die idx false) s = .next counted) ∧
     (2 ≤ n → exec (.islandRestart k die idx false) s = .next (islandPersistent counted k die idx)))

/-! ### Ports and hosts (chapter 13) -/

/-- R327, R328, R331: received PFC frames pause and release transmission on their priority, as the end of the pause does: what waits on a priority that is no
longer paused leaves, and what waits on a paused one stays. The module sends XOFF once when the lossless bytes reach 3B/8, repeats it while they stay at
B/4 or more, and sends XON when they fall below; a frame beyond B/2, of the lossless region or of the shared one, is dropped and counted.
Choices of the model in it: log entry 106. -/
def Obligations.PriorityFlowControl : Prop :=  ∀ (s : State) (port : Nat), port < s.ports.length →
    let b := portBuffer s port
    let x := portRec s port
    let set (t : State) (prio : Nat) (on : Bool) : Prop :=
      (portRec t port).paused = setNth x.paused prio on ∧ t.mem = s.mem ∧ t.hosts = s.hosts ∧ t.ctxs = s.ctxs ∧
      (x.tx = [] → t.out = s.out ∧ (portRec t port).tx = []) ∧
      (∀ i, x.tx = [i] → nth false (setNth x.paused prio on) (i.prio s) = false → t.out = s.out ++ [i.out] ∧ (portRec t port).tx = []) ∧
      (∀ i, x.tx = [i] → nth false (setNth x.paused prio on) (i.prio s) = true → t.out = s.out ∧ (portRec t port).tx = [i])
    (∀ prio quanta, portUp s port = true → ∃ t, exec (.pfcFrame port prio quanta) s = .next t ∧ set t prio (decide (0 < quanta))) ∧
    (∀ prio, ∃ t, exec (.pfcPauseExpiry port prio) s = .next t ∧ set t prio false) ∧
    (∀ occ, (b / 2 < occ → sharedArrival s port occ = (modPort s port (fun p => { p with dropped := p.dropped + 1 }), false)) ∧
      (occ ≤ b / 2 → sharedArrival s port occ = (modPort s port (fun p => { p with shared := occ }), true))) ∧
    (∀ occ, b / 2 < occ → losslessArrival s port occ = (modPort s port (fun p => { p with dropped := p.dropped + 1 }), false)) ∧
    (∀ occ, occ ≤ b / 2 → 3 * b / 8 ≤ occ → x.xoff = false →
      ∃ t, losslessArrival s port occ = (t, true) ∧ t.out = s.out ++ [.pfc port (netPrio s) 0xFFFF] ∧ (portRec t port).xoff = true ∧
        (portRec t port).occupancy = occ) ∧
    (∀ occ, occ < 3 * b / 8 → ∃ t, losslessArrival s port occ = (t, true) ∧ t.out = s.out ∧ (portRec t port).xoff = x.xoff) ∧
    (portUp s port = true → x.xoff = true → b / 4 ≤ x.occupancy →
      exec (.pfcRepeat port) s = .next { s with out := s.out ++ [.pfc port (netPrio s) 0xFFFF] }) ∧
    (∀ occ, portUp s port = true → occ < b / 4 →
      ∃ t, exec (.pfcXon port occ) s = .next t ∧ (portRec t port).xoff = false ∧ (portRec t port).occupancy = occ ∧
        t.out = (if x.xoff then s.out ++ [.pfc port (netPrio s) 0] else s.out) ∧ t.hosts = s.hosts ∧ t.mem = s.mem)

/-- R124, R284, R329, R330, R390, R423: a frame of an attached host that is taken: whole, with room, verified. An RDMA WRITE under a key of the host's own context whose pages are
mapped and writable writes and is acknowledged, and any other is refused; a READ returns committed bytes, control-page bytes or host-window bytes;
a SEND, a message above 2 GiB and a READ beyond 64 waiting ones are answered with an invalid-request NAK. What is answered leaves at once unless its priority is
paused. A host's write to pages with no shadow, no move and no pending UNMAP, outside the step state of an open epoch, stores its bytes and no others; lines
it covers whole are good again, and the pause for poisoned lines ends with the last of them.
Choices of the model in it: log entries 71, 72, 73, 84 and 106. -/
def Obligations.RdmaAccessesOfAttachedHosts : Prop :=
  (∀ (s : State) (slot : Nat) (h : HostRec) (f : FrameInfo), FrameTaken s slot h f false → h.hasQp = true →
     let a := frameState s slot h f
     let h' := frameHost h f
     let answer (t : State) (k : Option Nat) (o : Out) : State := t.toHost slot k none o
     (hostPaused a slot = false → ∀ k o, answer a k o = { a with out := a.out ++ [o] }) ∧
     (∀ key addr data, 2 ^ 31 < data.length → exec (.rdmaWrite slot key addr data f) s = .next (answer a (keyCtx key) (.nakInvalid slot))) ∧
     (∀ key addr n, 2 ^ 31 < n ∨ 64 ≤ readsWaiting a h' slot (keyCtx key) →
       exec (.rdmaRead slot key addr n f) s = .next (answer a (keyCtx key) (.nakInvalid slot))) ∧
     (∀ data : Bytes, data.length ≤ 2 ^ 31 →
       (∀ cn c addr, keyedCtx a slot cn = some c → accessOk c addr data.length true = true →
         exec (.rdmaWrite slot (.ctxMem cn) addr data f) s = .next (answer (hostWrite a cn addr data) (some cn) (.writeAck slot))) ∧
       (∀ cn addr, (∀ c, keyedCtx a slot cn = some c → accessOk c addr data.length true = false) →
         exec (.rdmaWrite slot (.ctxMem cn) addr data f) s = .next (nakAccess a slot (some cn) h')) ∧
       (∀ cn c addr, keyedCtx a slot cn = some c → ctrlOk addr data.length = true →
         exec (.rdmaWrite slot (.ctrlPage cn) addr data f) s = .next (answer (ctrlBytes data.length a cn addr data) (some cn) (.writeAck slot))) ∧
       (∀ cn addr, keyedCtx a slot cn = none ∨ ctrlOk addr data.length = false →
         exec (.rdmaWrite slot (.ctrlPage cn) addr data f) s = .next (nakAccess a slot (some cn) h')) ∧
       (∀ addr, exec (.rdmaWrite slot .hostWindow addr data f) s = .next (answer a none (.nakAccess slot)))) ∧
     (∀ n key, n ≤ 2 ^ 31 → readsWaiting a h' slot (keyCtx key) < 64 →
       (∀ cn c addr, key = .ctxMem cn → keyedCtx a slot cn = some c → accessOk c addr n false = true → touchesPoison c addr n = false →
         exec (.rdmaRead slot key addr n f) s = .next (answer a (some cn) (.readResp slot (committedBytes a cn c addr n))).tick) ∧
       (∀ cn addr, key = .ctxMem cn → (∀ c, keyedCtx a slot cn = some c → accessOk c addr n false = false) →
         exec (.rdmaRead slot key addr n f) s = .next (nakAccess a slot (some cn) h')) ∧
       (∀ cn c addr, key = .ctxMem cn → keyedCtx a slot cn = some c → accessOk c addr n false = true → touchesPoison c addr n = true →
         exec (.rdmaRead slot key addr n f) s = .next (answer a (some cn) (.nakAccess slot))) ∧
       (∀ cn addr, key = .ctrlPage cn → keyedCtx a slot cn = none ∨ ctrlOk addr n = false →
         exec (.rdmaRead slot key addr n f) s = .next (nakAccess a slot (some cn) h')) ∧
       (∀ cn c addr, key = .ctrlPage cn → keyedCtx a slot cn = some c → ctrlOk addr n = true →
         exec (.rdmaRead slot key addr n f) s = .next (answer a (some cn) (.readResp slot (ctrlPageBytes c addr n)))) ∧
       (∀ addr, key = .hostWindow → windowOk addr n = false → exec (.rdmaRead slot key addr n f) s = .next (answer a none (.nakAccess slot))) ∧
       (∀ addr, key = .hostWindow → windowOk addr n = true →
         exec (.rdmaRead slot key addr n f) s = .next (answer a none (.readResp slot (windowBytes a slot h' addr n))))) ∧
     exec (.send slot f) s = .next (answer a none (.nakInvalid slot))) ∧
  (∀ (s : State) (cn addr : Nat) (data : Bytes) (c : Ctx), MemInv s → s.ctx? cn = some c → accessOk c addr data.length true = true →
     (accessPages addr data.length).all (fun vp => !(unstablePage c vp)) = true →
     let t := hostWrite s cn addr data
     let places := (rangeFrom addr data.length).flatMap (physCopies c)
     (∀ a, a ∉ places → Memory.get t.mem a = Memory.get s.mem a) ∧
     (∀ vp e, scaleTableSize ≤ addr → accessPages addr data.length = [vp] → NMap.get? c.pages vp = some e → NMap.get? c.shadows vp = none → e.moveTo = none →
       Memory.getBytes t.mem (e.phys + addr % pageSize) data.length = data) ∧
     (∃ c', t.ctx? cn = some c' ∧ c'.pages = c.pages ∧
       (∀ l, l ∈ c'.poisoned ↔ l ∈ c.poisoned ∧ ¬ (addr ≤ 64 * l ∧ 64 * l + 64 ≤ addr + data.length)) ∧
       (c'.pausePoison = true ↔ c.pausePoison = true ∧ c'.poisoned ≠ [])))

/-- R327, R330, R332, R344: a CNP halves the rate of its queue pair and an interval without one raises it by 1/32 of the line rate, up to it; an
acknowledgement timeout retransmits, or loses the host after seven (whether earlier ones still count is open, log entry 8); a beacon is the 128 bytes of R332
with the next BSEQ. -/
def Obligations.CongestionRetriesAndBeacons : Prop :=  (∀ (s : State) (slot qp : Nat) (h : HostRec) (q : QPair), s.host? slot = some h → h.qps = [q] → q.qpn = qp →
    let with_ (x : QPair) : State := s.setHost slot { h with qps := [x] }
    exec (.cnpReceive slot qp true) s = .next (with_ { q with rate := q.rate / 2 }) ∧
    exec (.cnpReceive slot qp false) s = .next s ∧
    exec (.rateIncrease slot qp) s = .next (with_ { q with rate := min (2 ^ 32) (q.rate + 2 ^ 27) }) ∧
    (q.retries < 7 → ∃ n, (n = 0 ∨ n = q.retries) ∧
      exec (.ackTimeout slot qp) s = .next ((with_ { q with retries := n + 1 }).tick.toHost slot (qpCtx s slot qp) none (.retransmit slot qp))) ∧
    (7 ≤ q.retries → exec (.ackTimeout slot qp) s = .next (hostLost s.tick slot) ∨
      exec (.ackTimeout slot qp) s = .next ((with_ { q with retries := 1 }).tick.toHost slot (qpCtx s slot qp) none (.retransmit slot qp)))) ∧
  (∀ (s : State) (port : Nat), portUp s port = true → ipv4Of s port = 0 → portPaused s port 0 = false →
    let body := beaconPayload s port ((portRec s port).bseq + 1)
    body.length = 128 ∧ body.take 4 = [0x5A, 0x42, 0x52, 0x5A] ∧ (body.drop 8).take 8 = toBytes 8 ((portRec s port).bseq + 1).toNat ∧
    ∃ t, exec (.beacon port) s = .next t ∧ t.out = s.out ++ [.beacon port false body] ∧ t.ports = (modPort s port (fun p => { p with
      bseq := p.bseq + 1 })).ports ∧ t.mem = s.mem ∧ t.hosts = s.hosts)

/-! ### Attach, registration and detach (R334 to R347) -/

/-- R3, R334, R336, R338 to R340: an accepted request has none of the reasons of step 2. A first ATTACH_REQ that passes the checks opens a session, whose T
hashes the request and the challenge, and is answered with that challenge and its signature; one that fails is refused with its reason; the same message
again gets the same reply, and another under the session's number is out of sequence.
Choices of the model in it: log entries 68 and 106. -/
def Obligations.AttachRequestsAreCheckedAndAnswered : Prop :=
  (∀ (s : State) (m : AttachReq), reqReason s m = 0 ↔
     m.rsv = 0 ∧ m.enc < 2 ∧ msgWellFormed m.head 4200 = true ∧ m.avmin ≤ 1 ∧ 1 ≤ m.avmax ∧ 0x10 ≤ m.umax ∧ s.power.boot = .ready ∧
     s.colyr.debugOpen = false ∧ s.sessions.length < 4 ∧ (slotFor s m.hkdig).isSome = true ∧ (s.order = .half → m.enc % 2 = 0) ∧
     ∃ k, tenantOf s m.hkdig = some k ∧ (m.enc % 2 = 1 → teField (tenantBits s k) 514 513 ≠ 0) ∧
       (m.enc % 2 = 0 → teField (tenantBits s k) 514 513 ≠ 2)) ∧
  (∀ (s : State) (m : AttachReq) (f : FrameInfo), PortFrameTaken s m.port f (unfinished s m.head.sid) → msgComplete m.head = true →
     let a := portState s m.port f
     (∀ k h l, storedReply a m.head.sid m.head.mseq = some (k, h, l) → exec (.attachReq m f) s = .next (sendSegs a h.port (some k) l)) ∧
     (storedReply a m.head.sid m.head.mseq = none →
       ((∀ x ∈ s.sessions, x.sid ≠ m.head.sid) → reqReason a m = 0 →
         ∃ t x, exec (.attachReq m f) s = .next t ∧ t.sessions = s.sessions ++ [x] ∧ x.sid = m.head.sid ∧ x.req = m ∧ x.mac = f.mac ∧ x.waiting = none ∧
           x.t = Config.sha3 (reqBody m ++ chalBody a m) ∧ x.reply = datagrams tyChal m.head.sid 0 (chalBody a m ++ signDigest x.t) ∧
           (portPaused a m.port 0 = false → t.out = a.out ++ [.message m.port x.reply]) ∧ t.hosts = s.hosts ∧ t.mem = s.mem ∧ t.colyr = s.colyr) ∧
       ((∀ x ∈ s.sessions, x.sid ≠ m.head.sid) → reqReason a m ≠ 0 →
         exec (.attachReq m f) s = .next (refuseAttach a m.port m.head.sid 0 (reqReason a m) m.hkdig)) ∧
       (∀ x, s.sessions.find? (fun y => y.sid == m.head.sid) = some x → x.waiting = none →
         (x.req = m → exec (.attachReq m f) s = .next (sendSegs a m.port none x.reply)) ∧
         (x.req ≠ m → exec (.attachReq m f) s = .next (refuseAttach a m.port m.head.sid 1 0x0A m.hkdig)))))

/-- R334, R335, R337, R338, R344 to R346: an ATTACH_AUTH whose form, signature or confirmation fails is refused with 0x0A or 0x07 and ends its session; a good
one takes the identity's held slot, or the lowest free one, and is acknowledged with the hold period and keepalive interval in force, or waits in that slot
while a Drydown of the identity runs. Then the small events of an attachment: keepalives, rekeying, the ends of the windows for old keys and
unprotected frames, reserved message types, repeated messages, and a session that waits too long.
Choices of the model in it: log entries 68, 70, 106 and 107. -/
def Obligations.AttachmentsBeginAndGoOn : Prop :=
  (∀ (s : State) (port : Nat) (m : MsgHead) (f : FrameInfo), PortFrameTaken s port f (unfinished s m.sid) → msgComplete m = true →
     let a := portState s port f
     (∀ x sigOk hconf, storedReply a m.sid m.mseq = none → s.sessions.find? (fun y => y.sid == m.sid) = some x → x.waiting = none →
       (msgWellFormed m 4691 = false →
         exec (.attachAuth port m sigOk hconf f) s = .next (refuseAttach a x.req.port m.sid 1 0x0A x.req.hkdig)) ∧
       (msgWellFormed m 4691 = true → sigOk = false ∨ hconf ≠ confirm x.keys.kconf 1 x.t →
         exec (.attachAuth port m sigOk hconf f) s = .next (refuseAttach a x.req.port m.sid 1 0x07 x.req.hkdig)) ∧
       (∀ k slot, msgWellFormed m 4691 = true → sigOk = true → hconf = confirm x.keys.kconf 1 x.t → attachOpen a = true →
         tenantOf a x.req.hkdig = some k → encRefused a k x.req = false → (∀ p, slotOf a x.req.hkdig = some p → p.2.phase = .hold) →
         waitsBefore a x = false → slotFor a x.req.hkdig = some slot →
         (drydownRuns a k = true → exec (.attachAuth port m sigOk hconf f) s =
           .next (modSession a m.sid (fun y => { y with authSeq := m.mseq, waiting := some slot }))) ∧
         (drydownRuns a k = false →
           ∃ t h, exec (.attachAuth port m sigOk hconf f) s = .next t ∧ t.host? slot = some h ∧ h.hkdig = x.req.hkdig ∧ h.tenant = k ∧
             h.phase = .attached ∧ h.enc = wantsEnc x.req ∧ h.umax = x.req.umax ∧ h.mac = x.mac ∧ h.port = x.req.port ∧
             (h.resumed = true ↔ (slotOf a x.req.hkdig).isSome = true) ∧ h.reg = none ∧ h.keys = x.keys ∧ h.oldKeys = none ∧ h.plainOk = true ∧
             (portPaused a x.req.port 0 = false → t.out = a.out ++ [.message x.req.port (datagrams tyAck x.sid 1
               (ackBody slot h.resumed (netHold a) (netKaint a) (confirm x.keys.kconf 2 x.t)))]) ∧ t.ctxs = s.ctxs ∧ t.mem = s.mem ∧
             (∀ y, y ∈ t.sessions ↔ y ∈ s.sessions ∧ y.sid ≠ x.sid)))) ∧
     (∀ type, type ∉ attachTypes →
       exec (.reservedAttachMessage port m type f) s = .next ((sendRefuse a port m.sid 0 0x0A).logMgmt 0x43 port 31 0x0A 0))) ∧
  ((∀ (s : State) (slot : Nat) (h : HostRec), s.host? slot = some h →
     (exec (.unprotectedFrameWindowEnd slot) s = .next (s.setHost slot { h with plainOk := false })) ∧
     (exec (.oldKeyExpiry slot) s = .next (s.setHost slot { h with oldKeys := none })) ∧
     (∀ m f, FrameTaken s slot h f false → f.sec.isSome = true → m.sid = h.sid → msgWellFormed m 0 = true →
       exec (.keepalive slot m f) s = .next (frameState s slot h f)) ∧
     (h.linked = true → ∃ t, exec (.keepaliveSend slot) s = .next t ∧ t.host? slot = some { h with outSeq := h.outSeq + 1 } ∧ t.ctxs = s.ctxs ∧
       (portPaused s h.port 0 = false → t.out = s.out ++ [.message h.port (datagrams tyKeepalive h.sid h.outSeq [])])) ∧
     (h.linked = true → h.rekey = none →
       ∃ t req, exec (.rekeyStart slot) s = .next t ∧ req.length = 1608 ∧ t.ctxs = s.ctxs ∧
         t.host? slot = some { h with rekey := some { started := true, req := req, draw := s.freeIx, fixed := none }, outSeq := h.outSeq + 1 } ∧
         (portPaused s h.port 0 = false → t.out = s.out ++ [.message h.port (datagrams tyRekey h.sid h.outSeq req)]))) ∧
   (∀ (s : State) (slot : Nat) (h : HostRec) (m : MsgHead) (b : RekeyMsg) (f : FrameInfo), MessageTaken s slot h m (rekeyLen b) f false →
     let a := messageState s slot h m f
     let h' := messageHost h m f
     (∀ avmin avmax umax enc rsv nonce ek, b = .req avmin avmax umax enc rsv nonce ek →
       (rsv ≠ 0 ∨ 2 ≤ enc → exec (.rekey slot m b f) s = .next (refuseRekey a slot h' m.mseq 0x0A)) ∧
       (rsv = 0 → enc < 2 → 1 < avmin ∨ avmax < 1 → exec (.rekey slot m b f) s = .next (refuseRekey a slot h' m.mseq 0x01)) ∧
       (rsv = 0 → enc < 2 → avmin ≤ 1 → 1 ≤ avmax → ∃ secret chal, chal.length = 1608 ∧
         let req := reqFields avmin avmax umax enc rsv nonce ++ fixLen 1568 ek
         let t := Config.sha3 (req ++ chal)
         exec (.rekey slot m b f) s = .next (answer (a.tick.setHost slot { h' with
           rekey := some { started := false, req := req, draw := a.freeIx, fixed := some (t, deriveKeys secret t) } }) slot m.mseq tyRekey (chal ++ signDigest t)))) ∧
     (∀ sigOk conf req n t k, b = .auth sigOk conf → h.rekey = some { started := false, req := req, draw := n, fixed := some (t, k) } →
       (sigOk = false ∨ conf ≠ confirm k.kconf 1 t → exec (.rekey slot m b f) s = .next (refuseRekey a slot h' m.mseq 0x07)) ∧
       (sigOk = true → conf = confirm k.kconf 1 t → ∃ z hz, exec (.rekey slot m b f) s = .next z ∧ z.host? slot = some hz ∧ hz.keySet = h.keySet + 1 ∧
         hz.keys = k ∧ hz.oldKeys = some h.keys ∧ hz.rekey = none ∧ hz.rxNext = 1 ∧ z.ctxs = s.ctxs)) ∧
     (∀ result conf req n t k, b = .ack result conf → h.rekey = some { started := true, req := req, draw := n, fixed := some (t, k) } →
       result = 0 → conf = confirm k.kconf 2 t → exec (.rekey slot m b f) s = .next (installKeys a slot h' k))) ∧
   (∀ (s : State) (sid slot : Nat) (h : HostRec), s.hosts.find? (fun p => p.2.sid == sid && p.2.phase == .attached) = some (slot, h) →
     ctxsOf s slot = [] → exec (.attachSessionTimeout sid) s =
       .next (freeHost { s with sessions := s.sessions.filter (fun x => x.sid != sid || x.waiting.isSome) } slot)) ∧
   (∀ (s : State) (sid : Nat), (∀ p ∈ s.hosts, p.2.sid ≠ sid) →
     exec (.attachSessionTimeout sid) s = .next { s with sessions := s.sessions.filter (fun x => x.sid != sid || x.waiting.isSome) }))

/-- R334, R341 to R343, R345: the first good REGISTER of an attachment makes it registered, stores the windows and answers with a queue pair; a later one
replaces them; a bad one is answered with result 0x0C, and one with reserved bits is refused, changing nothing else. A CTX_CREATE of a registered host
within its tenant's quota takes the lowest free context number; refusals have result 0x0A for its form and 0x0B for the quota. CTX_DESTROY begins the
Drydown of the host's own context, and a context that is not its own has result 0x0D. A message whose number has been answered gets the same answer.
Choices of the model in it: log entries 68 and 70. -/
def Obligations.RegistrationAndContextsComplete : Prop :=
  (∀ (s : State) (slot : Nat) (h : HostRec) (m : MsgHead) (b : RegisterMsg) (f : FrameInfo) (l : List Bytes), FrameTaken s slot h f false →
     msgComplete m = true → NMap.get? h.replies m.mseq = some (some l) →
     exec (.register slot m b f) s = .next (sendSegs (frameState s slot h f) h.port (some slot) l)) ∧
  (∀ (s : State) (slot : Nat) (h : HostRec) (m : MsgHead) (b : RegisterMsg) (f : FrameInfo), MessageTaken s slot h m (40 + 24 * b.wins.length) f false →
     let a := messageState s slot h m f
     let h' := messageHost h m f
     (h.phase = .attached ∨ h.phase = .registered → b.rsv ≠ 0 → exec (.register slot m b f) s = .next (refuseHost a slot m.mseq 0x0A)) ∧
     (h.phase = .attached ∨ h.phase = .registered → b.rsv = 0 → regOk b = false →
       exec (.register slot m b f) s = .next (answer a slot m.mseq tyRegAck (regAckBody 0x0C 0 0 []))) ∧
     (h.phase = .attached → b.rsv = 0 → regOk b = true → ctxsOf s slot = [] →
       ∃ t hz q n, exec (.register slot m b f) s = .next t ∧ t.host? slot = some hz ∧ hz.phase = .registered ∧ hz.reg = some (hostReg b) ∧
         hz.plainOk = false ∧ hz.qps = [QPair.fresh q n (b.hqpn % 2 ^ 24) b.hpsn] ∧ q < 2 ^ 24 ∧ n < 2 ^ 24 ∧
         (portPaused a h.port 0 = false → t.out = a.out ++ [.message h.port (datagrams tyRegAck h.sid h.outSeq (regAckBody 0 q n []))]) ∧
         t.ctxs = s.ctxs ∧ t.mem = s.mem) ∧
     (h.phase = .attached → b.rsv = 0 → regOk b = true → exec (.register slot m b f) s = .next (firstRegister a slot m.mseq h' b)) ∧
     (h.phase = .registered → b.rsv = 0 → regOk b = true →
       ∃ q n, exec (.register slot m b f) s =
         .next (answer (a.setHost slot { h' with reg := some (hostReg b) }) slot m.mseq tyRegAck (regAckBody 0 q n [])))) ∧
  (∀ (s : State) (slot : Nat) (h : HostRec) (m : MsgHead) (b : CtxCreateMsg) (f : FrameInfo), MessageTaken s slot h m 12 f false →
     let a := messageState s slot h m f
     let no (r : Nat) : State := answer a slot m.mseq tyCtxAck (ctxAckBody r 0 0 0 0 0)
     (h.phase = .registered → b.rsv ≠ 0 ∨ (b.stat ≠ 1 ∧ b.stat ≠ 2) → exec (.ctxCreate slot m b f) s = .next (no 0x0A)) ∧
     (h.phase = .registered → b.rsv = 0 → b.stat = 1 ∨ b.stat = 2 → quotaRefused a h.tenant = true → exec (.ctxCreate slot m b f) s = .next (no 0x0B)) ∧
     (∀ cn, h.phase = .registered → b.rsv = 0 → b.stat = 1 ∨ b.stat = 2 → quotaRefused a h.tenant = false → NMap.lowestFree s.ctxs 0 256 = some cn →
       NMap.has s.ctxs cn = false ∧ (∀ k < cn, NMap.has s.ctxs k = true) ∧
       exec (.ctxCreate slot m b f) s = .next (createCtx a slot m.mseq cn (messageHost h m f) b))) ∧
  (∀ (s : State) (slot cn : Nat) (h : HostRec) (m : MsgHead) (f : FrameInfo), MessageTaken s slot h m 1 f false →
     let a := messageState s slot h m f
     ((∀ c, s.ctx? cn = some c → c.slot ≠ slot) → exec (.ctxDestroy slot m cn f) s = .next (answer a slot m.mseq tyCtxDone [0x0D])) ∧
     (∀ c, s.ctx? cn = some c → c.slot = slot → c.drydown = false →
       ∃ t c', exec (.ctxDestroy slot m cn f) s = .next t ∧ t.ctx? cn = some c' ∧ c'.drydown = true ∧ c'.active = false ∧ c'.ctxDone = some m.mseq ∧
         c'.heldRecs = [] ∧ c'.apend = none ∧ c'.pages = c.pages ∧ (c.seqs = [] → t.mem = s.mem) ∧ t.units = s.units))

/-- R286, R342, R344 to R347, R391, R462: a host whose keepalives stop is held with its contexts paused; the end of its hold frees the slot; DETACH with
MODE 0 or 1 starts a drain or an immediate detach, a host with no context is acknowledged at once, and a second after that its slot is free. A Drydown
that is quiet ends: every page of the context is being scrubbed, its scratchpad share reads as zero, its number is free, and a host that destroyed it is told.
Choices of the model in it: log entries 68, 69, 70 and 87. -/
def Obligations.HostsAndContextsAreReleased : Prop :=
  (∀ (s : State) (slot : Nat) (h : HostRec), s.host? slot = some h →
     let left := unsend s slot h.port
     (h.phase = .attached ∨ h.phase = .registered → exec (.keepaliveTimeout slot) s =
       .next ((ctxsOf left slot).foldl pauseCtx (logHost (left.setHost slot { h with phase := .hold }) 0x45 slot 0 h))) ∧
     (h.phase = .hold ∨ h.phase = .drying → exec (.keepaliveTimeout slot) s = .next left) ∧
     (h.phase = .detached → exec (.keepaliveTimeout slot) s = .next (freeHost left slot)) ∧
     (∀ now, h.phase = .detaching now → exec (.keepaliveTimeout slot) s =
       .next (detachDone (drydownAll (left.setHost slot { h with phase := .drying }) slot) slot)) ∧
     (h.phase = .hold → ctxsOf s slot = [] →
       ∃ t, exec (.holdPeriodEnd slot) s = .next t ∧ t.hosts = NMap.erase s.hosts slot ∧ t.ctxs = s.ctxs ∧ t.out = s.out) ∧
     (h.phase = .hold → exec (.holdPeriodEnd slot) s = .next (endHold s slot h)) ∧
     (h.phase = .detaching false → exec (.holdPeriodEnd slot) s =
       .next (detachDone (drydownAll (s.setHost slot { h with phase := .detaching true }) slot) slot)) ∧
     (h.phase = .detached → ∃ t, exec (.detachRelease slot) s = .next t ∧ t.hosts = NMap.erase s.hosts slot ∧ t.ctxs = s.ctxs ∧ t.mem = s.mem)) ∧
  (∀ (s : State) (slot mode : Nat) (h : HostRec) (m : MsgHead) (f : FrameInfo), MessageTaken s slot h m 1 f true →
     h.phase = .attached ∨ h.phase = .registered ∨ h.phase = .hold →
     let a := messageState s slot h m f
     let h' : HostRec := { messageHost h m f with detachSeq := some m.mseq }
     (1 < mode → exec (.detach slot m mode f) s = .next (refuseHost a slot m.mseq 0x0A)) ∧
     (mode ≤ 1 → ctxsOf s slot = [] →
       ∃ t hz, exec (.detach slot m mode f) s = .next t ∧ t.host? slot = some hz ∧ hz.phase = .detached ∧ hz.detachSeq = some m.mseq ∧ t.ctxs = s.ctxs ∧
         (portPaused a h.port 0 = false → t.out = a.out ++ [.message h.port (datagrams tyDetachAck h.sid h.outSeq [])])) ∧
     (mode = 1 → exec (.detach slot m mode f) s = .next (detachDone (drydownAll (a.setHost slot { h' with phase := .detaching true }) slot) slot)) ∧
     (mode = 0 → h.phase ≠ .hold → exec (.detach slot m mode f) s =
       .next (detachDone ((ctxsOf s slot).foldl drainDetach (a.setHost slot { h' with phase := .detaching false })) slot))) ∧
  (∀ (s : State) (cn : Nat) (c : Ctx), s.ctx? cn = some c → c.drydown = true → quiet s cn = true →
     let released := releaseCtx s cn c
     (∀ a, winKey cn 0 ≤ a → a < winKey cn 0 + 2 ^ 40 → MemInv s → Memory.get released.mem a = 0) ∧
     released.ctxs = NMap.erase s.ctxs cn ∧
     (∀ e ∈ c.pages, ∀ far d pg, pageOf e.2.phys = some (far, d, pg) → d < s.near.length → d < s.far.length →
       pg ∈ (tierOf released far d).scrubbing ∧ pg ∉ (tierOf released far d).used) ∧
     let logged := released.logRec 0x2D (coordDie c) 7 0 cn ((c.epoch.map (·.attempt)).getD 0) (stepOf c) 0 0xFF 0
     ((∀ h, logged.host? c.slot = some h → c.ctxDone = none ∨ h.linked = false) →
       exec (.drydownComplete cn) s = .next (resumeAttach (finishDelete (startMoves (detachDone logged c.slot))))) ∧
     (∀ h n, logged.host? c.slot = some h → c.ctxDone = some n → h.linked = true →
       exec (.drydownComplete cn) s =
         .next (resumeAttach (finishDelete (startMoves (detachDone (answer logged c.slot n tyCtxDone [0]) c.slot))))))

/-! ### Video (chapter 14) -/

/-- R349, R350, R352 to R357, R361 to R363: the four operations of a frame record on its engine: OPEN makes a stream on the engine with room and
refuses with RSTAT 3 when none has; CLOSE forgets it; ENCODE sends the bitstream, a key picture's after its headers, to its host window and moves the stream
on, waiting while the port may not send; DECODE writes the picture. Each ends by writing its result record, and none of them depends on anything but the
stream, the record and the pictures, so that a replay does the same again.
Choices of the model in it: log entries 7, 77, 78 and 95. -/
def Obligations.VideoFrameTasksComplete : Prop :=  ∀ (s s1 : State) (u : UnitId) (r : Run) (c : Ctx), s.run? u = some r → r.phase = .frame → islandDown s 8 u.die u.idx = false →
    s.ctx? r.ctx = some c →
    let f := frameRecord s r c
    (frOp f = 1 → openEngine s = none → exec (.videoOpen u) s = .next (frameDone s u r f (noPicture (newStream 0 f) 3 0))) ∧
    (∀ e, frOp f = 1 → openEngine s = some e → writeRegion s r.ctx (newStream e f) = .ok s1 →
      exec (.videoOpen u) s = .next (frameDone (openStream s1 r.ctx (frStream f) (newStream e f)) u r f (noPicture (newStream e f) 0 0))) ∧
    (∀ st, frOp f = 4 → NMap.get? c.streams (frStream f) = some st →
      let k := frStream f
      let c' : Ctx := { c with streams := NMap.erase c.streams k, boundPast := NMap.set c.boundPast k (NMap.getD c.boundPast k [] ++ [st.bound]) }
      (closeStream s r.ctx k).ctx? r.ctx = some c' ∧ exec (.videoClose u) s = .next (frameDone (closeStream s r.ctx k) u r f (noPicture st 0 0))) ∧
    (frOp f = 2 → hostPaused s c.slot = true → exec (.encode u) s = .next s) ∧
    (∀ st d codes w, frOp f = 2 → hostPaused s c.slot = false → NMap.get? c.streams (frStream f) = some st → tslot r.T 0 = .ok d →
      pictureCodes s r.ctx c d st f = .ok codes →
      let key := keyPicture st f
      let bits := ((if key then pictureHeaders st else []) ++ Config.encodeBits st.hist codes st.rc key).take (capNeed st)
      hostRange c (feHwin f) (feOff f) bits.length = .ok w → writeRegion s r.ctx (afterPicture st key codes) = .ok s1 →
      let sent := (putStream s1 r.ctx (frStream f) (afterPicture st key codes)).toHost c.slot (some r.ctx) none
        (.hostWrite c.slot w.rkey (w.va + feOff f) bits)
      let res : FrameResult :=
        { rstat := 0, ptype := if key then 0 else 1, avgq := pictureQuant st key codes, bytes := bits.length, frameNo := st.frameNo,
          order := Config.openResult st.hist 22 }
      exec (.encode u) s = .next (frameDone sent u r f res)) ∧
    (∀ st d b s2 data, frOp f = 3 → NMap.get? c.streams (frStream f) = some st → tslot r.T 0 = .ok d → unitBytes s r.ctx c f data = .ok b →
      let p := decodeStep d st f b
      writeRegion s r.ctx p.1 = .ok s1 → runWrites s1 r.ctx d false p.2.2 = (s2, none) →
      exec (.decode u data) s = .next (frameDone (putStream s2 r.ctx (frStream f) p.1) u r f p.2.1)) ∧
    (∀ (st : Stream) key codes, (RcValue.parse st.rc.toNat).mode = 2 → pictureQuant st key codes = (RcValue.parse st.rc.toNat).qp) ∧
    (∀ res t, taskWrite s r.ctx (frRes f) (toBytes 32 res.bits) = .ok t →
      frameDone s u r f res = (t.tick).setRun u { r with phase := .halting })

/-! ### Colyr, MCTP and recovery (chapter 16) -/

/-- R403, R409 to R411: the module answers a reserved command with status 0x01, and the boot ROM in recovery refuses with 0x08 every command it does
not offer; nothing but the answer leaves and nothing else changes. The MCTP control messages are answered while firmware or the boot ROM in recovery runs
(the message layouts are the model's, log entry 60): an endpoint identifier from 1 to 254 is stored, and every other answer changes nothing.
Choices of the model in it: log entry 52. -/
def Obligations.OtherMessagesOfTheManagementPort : Prop :=
  (∀ (s : State) (tag : Nat), s.colyr.deleting = none →
     (∀ cmd, fwRuns s = true → cmd = 0 ∨ 0x14 < cmd →
       exec (.unknownCommand tag cmd) s = .next { s with out := s.out ++ [.colyr (cmd ||| 0x80) tag 1 []] }) ∧
     (s.power.boot = .recovery → ∀ i cmd, (i, cmd) ∈ [(Instr.readReg tag 0, 0x02), (.logRead tag 0 0, 0x04), (.sensorRead tag 0 0, 0x05),
         (.tenantRead tag 0, 0x06), (.attest tag 0, 0x0A), (.fuseSvn tag 0, 0x0F), (.maintReq tag 0 0, 0x10), (.sillageRead tag 0 0 0, 0x11),
         (.resetComputePart tag, 0x12), (.resetModule tag, 0x12), (.drydown tag 0, 0x13)] →
       exec i s = .next { s with out := s.out ++ [.colyr (cmd ||| 0x80) tag 8 []] })) ∧
  (∀ (s : State), mctpRuns s = true →
     (∀ op eid, op ≤ 1 → 1 ≤ eid → eid ≤ 254 → exec (.setEndpointId op eid) s =
       .next { s with colyr := { s.colyr with eid := eid }, out := s.out ++ [.mctp 1 [0, 0, BitVec.ofNat 8 eid, 0]] }) ∧
     (∀ op eid, 1 < op ∨ eid = 0 ∨ 254 < eid → exec (.setEndpointId op eid) s = .next { s with out := s.out ++ [.mctp 1 [2]] }) ∧
     (exec .getEndpointId s = .next { s with out := s.out ++ [.mctp 2 [0, BitVec.ofNat 8 s.colyr.eid, 0, 0]] }) ∧
     (∀ m, exec (.getMctpVersionSupport m) s = .next { s with out := s.out ++ [.mctp 4 (Config.mctpVersions m)] }) ∧
     (exec .getMessageTypeSupport s = .next { s with out := s.out ++ [.mctp 5 [0, 1, 0x7F]] }) ∧
     (∃ v : Bytes, v.length = 2 ∧ exec (.getVendorDefinedMessageSupport 0) s = .next { s with
       out := s.out ++ [.mctp 6 ([0, 0xFF, 1] ++ (toBytes 4 Config.enterprise.toNat).reverse ++ v)], freeIx := s.freeIx + 1 }) ∧
     (∀ k, k ≠ 0 → exec (.getVendorDefinedMessageSupport k) s = .next { s with out := s.out ++ [.mctp 6 [2]] }))

/-- R381, R405 to R407, R409, R413 to R415, R419, R420, R422: the commands that read. Each answers with what it reads and changes nothing but the
trace of answers; what lies out of range is refused with its status. A write to a register is
answered with status 0; NET is stored with every field clamped to its range, DSCPMAP and the addresses as written, a reserved PORTMODE is ignored,
read-only registers keep their value, and an offset with no register has status 3.
Choices of the model in it: log entries 49, 50 and 75. -/
def Obligations.ReadingCommandsAndRegisterWrites : Prop :=
  (∀ (s : State) (tag : Nat), s.colyr.deleting = none → fwRuns s = true →
     let answer (cmd status : Nat) (data : Bytes) : State := { s with out := s.out ++ [.colyr (cmd ||| 0x80) tag status data] }
     exec (.getInventory tag) s = .next (answer 0x01 0 (inventory s)) ∧
     (∀ off v, readColyr s off = some v → exec (.readReg tag off) s = .next (answer 0x02 0 (toBytes 8 v))) ∧
     (∀ off, readColyr s off = none → exec (.readReg tag off) s = .next (answer 0x02 3 [])) ∧
     (∀ ix n, ix < s.colyr.logNext - s.colyr.log.length → exec (.logRead tag ix n) s = .next (answer 0x04 5 (toBytes 8 (s.colyr.logNext - s.colyr.log.length)))) ∧
     (∀ ix n, s.colyr.logNext - s.colyr.log.length ≤ ix → exec (.logRead tag ix n) s =
       .next (answer 0x04 0 (((s.colyr.log.drop (ix - (s.colyr.logNext - s.colyr.log.length))).take (min 32 n)).flatMap entryBytes))) ∧
     (∀ ix n, exec (.sensorRead tag ix n) s = .next (answer 0x05 0 (((s.power.sensors.drop ix).take (min 32 n)).flatMap sensorBytes))) ∧
     (∀ k, k ≤ 15 → exec (.tenantRead tag k) s = .next (answer 0x06 0 (toBytes 128 (tenantBits s k).toNat))) ∧
     (∀ k, 15 < k → exec (.tenantRead tag k) s = .next (answer 0x06 3 [])) ∧
     (∀ n, exec (.attest tag n) s =
       .next (answer 0x0A 0 (report s n none ++ signDigest (Config.sha3 (report s n none))))) ∧
     exec (.fwStatus tag) s = .next (answer 0x0E 0 (toBytes 1 s.fw.updStep ++ toBytes 1 s.fw.updStatus)) ∧
     (∀ die off n, n ≤ 4096 → die ≤ 23 → off + n ≤ 2 * pageSize →
       exec (.sillageRead tag die off n) s = .next (answer 0x11 0 (Memory.getBytes s.mem (nearBase die + off) n))) ∧
     (∀ die off n, 4096 < n → exec (.sillageRead tag die off n) s = .next (answer 0x11 2 [])) ∧
     (∀ die off n, n ≤ 4096 → 23 < die ∨ 2 * pageSize < off + n → exec (.sillageRead tag die off n) s = .next (answer 0x11 3 []))) ∧
  (∀ (s : State) (tag off : Nat) (v : Word64), s.colyr.deleting = none → fwRuns s = true →
     let answered (t : State) (status : Nat) : State := { t with out := t.out ++ [.colyr 0x83 tag status []] }
     (readColyr s off = none → exec (.writeReg tag off v) s = .next (answered s 3)) ∧
     (off = 0x0108 → ∃ x : Word64, exec (.writeReg tag off v) s = .next (answered { s with colyr := { s.colyr with net := x } } 0) ∧
       x.toNat % 8 = v.toNat % 8 ∧ x.toNat / 2 ^ 3 % 2 = 0 ∧ x.toNat / 2 ^ 24 = 0 ∧
       1 ≤ x.toNat / 2 ^ 4 % 2 ^ 6 ∧ x.toNat / 2 ^ 4 % 2 ^ 6 ≤ 60 ∧ 1 ≤ x.toNat / 2 ^ 10 % 2 ^ 4 ∧ x.toNat / 2 ^ 10 % 2 ^ 4 ≤ 10 ∧
       1 ≤ x.toNat / 2 ^ 14 % 2 ^ 10 ∧ x.toNat / 2 ^ 14 % 2 ^ 10 ≤ 600 ∧
       (1 ≤ v.toNat / 2 ^ 14 % 2 ^ 10 → v.toNat / 2 ^ 14 % 2 ^ 10 ≤ 600 → x.toNat / 2 ^ 14 % 2 ^ 10 = v.toNat / 2 ^ 14 % 2 ^ 10)) ∧
     (off = 0x0110 → exec (.writeReg tag off v) s = .next (answered { s with colyr := { s.colyr with dscpmap := v } } 0)) ∧
     (off = 0x0100 → (∃ n < 8, v.toNat / 2 ^ (2 * n) % 4 = 3) → exec (.writeReg tag off v) s = .next (answered s 0)) ∧
     (off = 0x0008 ∨ off = 0x0010 ∨ off ∈ [0x0600, 0x0608, 0x0610, 0x0618] → exec (.writeReg tag off v) s = .next (answered s 0)))

/-- R398, R400 to R402, R411, R419: the update commands and FUSE_SVN. FW_BEGIN opens an update of a length, FW_DATA stores its bytes at their offset
and nowhere else, FW_COMMIT hands the staged image to the update, FUSE_SVN raises the fused number to at most the running image's; what is out of range or out
of turn is refused and changes nothing.
Choices of the model in it: log entry 51. -/
def Obligations.FirmwareCommandsComplete : Prop :=  ∀ (s : State) (tag : Nat), s.colyr.deleting = none → fwRuns s = true →
    let answer (t : State) (cmd status : Nat) : State := { t with out := t.out ++ [.colyr (cmd ||| 0x80) tag status []] }
    (∀ n, updating s = true ∨ s.recSession.isSome = true ∨ s.colyr.debugOpen = true → exec (.fwBegin tag n) s = .next (answer s 0x0B 4)) ∧
    (∀ n, updating s = false → s.recSession = none → s.colyr.debugOpen = false → 1 ≤ n → n ≤ bodyAt + 2 ^ 27 → exec (.fwBegin tag n) s =
      .next (answer { s with fw := { s.fw with updLen := some n, staged := [], updStep := 0, updStatus := 0 } } 0x0B 0)) ∧
    (∀ n, updating s = false → s.recSession = none → s.colyr.debugOpen = false → n = 0 ∨ bodyAt + 2 ^ 27 < n →
      exec (.fwBegin tag n) s = .next (answer s 0x0B 3)) ∧
    (∀ n off data, s.fw.updLen = some n → fwWriting s = false → data ≠ [] → data.length ≤ 4096 → off + data.length ≤ n →
      ImagesInv s →
      ∃ m : Memory, exec (.fwData tag off data) s = .next (answer { s with fw := { s.fw with staged := m } } 0x0C 0) ∧
        Memory.getBytes m off data.length = data ∧ (∀ a, a < off ∨ off + data.length ≤ a → Memory.get m a = Memory.get s.fw.staged a)) ∧
    (∀ off data, s.fw.updLen = none → exec (.fwData tag off data) s = .next (answer s 0x0C 4)) ∧
    (∀ n off data, s.fw.updLen = some n → fwWriting s = false → data ≠ [] → data.length ≤ 4096 → n < off + data.length →
      exec (.fwData tag off data) s = .next (answer s 0x0C 3)) ∧
    (∀ v, s.fw.updLen = none → exec (.fwCommit tag v) s = .next (answer s 0x0D 4)) ∧
    (∀ v n, s.fw.updLen = some n → fwWriting s = false →
      let asked := (maintAsk { s with fw := { s.fw with sigOk := v } } actFWU 0 false).1
      exec (.fwCommit tag v) s = .next (answer asked 0x0D asked.fw.updStatus)) ∧
    (∀ v, updating s = false → s.fw.fuses < v → v ≤ s.fw.runSvn →
      ∃ t, exec (.fuseSvn tag v) s = .next t ∧ t.fw = { s.fw with fuses := v } ∧ t.out = s.out ++ [.colyr 0x8F tag 0 []] ∧ t.mem = s.mem ∧
        t.ctxs = s.ctxs) ∧
    (∀ v, updating s = false → v ≤ s.fw.fuses ∨ s.fw.runSvn < v → exec (.fuseSvn tag v) s = .next (answer s 0x0F 3)) ∧
    (∀ v, updating s = true → exec (.fuseSvn tag v) s = .next (answer s 0x0F 4))

/-- R415 to R418, R464: the commands that write the tenancy table or stage a module request. An entry of a host that is not present is written with
its reserved bits zero, in the flash copy not in use; of a present one the identity must stay, and the change waits for the module boundary; a deletion of a
present host's entry needs FORCE; a module request whose items all pass is staged, and the contexts it names start no further task.
Choices of the model in it: log entries 45 and 48. -/
def Obligations.TenancyAndModuleRequestsComplete : Prop :=  ∀ (s : State) (tag : Nat), s.colyr.deleting = none → fwRuns s = true →
    (∀ k e, entryStatus s k (entryClean e) ≠ 0 →
      exec (.tenantWrite tag k e) s = .next { s with out := s.out ++ [.colyr 0x87 tag (entryStatus s k (entryClean e)) []] }) ∧
    (∀ k e, entryStatus s k (entryClean e) = 0 → entryHost s k = none → k < s.colyr.tenants.length →
      ∃ t : State, exec (.tenantWrite tag k e) s = .next t ∧ tenantBits t k = entryClean e ∧ (∀ j, j ≠ k → tenantBits t j = tenantBits s j) ∧
        (t.colyr.tenFlash.1 = s.colyr.tenFlash.1 ∨ t.colyr.tenFlash.2 = s.colyr.tenFlash.2) ∧
        t.out = s.out ++ [.colyr 0x87 tag 0 []] ∧ t.ctxs = s.ctxs ∧ t.hosts = s.hosts ∧ t.mem = s.mem) ∧
    (∀ e : TenantBits, (entryClean e).toNat % 2 ^ 674 = e.toNat % 2 ^ 674 ∧ (entryClean e).toNat / 2 ^ 674 = 0) ∧
    (∀ k e x, entryStatus s k (entryClean e) = 0 → entryHost s k = some x →
      (teField (entryClean e) 512 0 ≠ teField (tenantBits s k) 512 0 →
        exec (.tenantWrite tag k e) s = .next { s with out := s.out ++ [.colyr 0x87 tag 4 []] }) ∧
      (teField (entryClean e) 512 0 = teField (tenantBits s k) 512 0 → s.colyr.modReq = none →
        exec (.tenantWrite tag k e) s = .next (stageModule s tag (entryItems s k (entryClean e)) (some (k, entryClean e))))) ∧
    (∀ k force, 15 < k → exec (.tenantDelete tag k force) s = .next { s with out := s.out ++ [.colyr 0x88 tag 3 []] }) ∧
    (∀ k force, k ≤ 15 → entryHost s k = none → exec (.tenantDelete tag k force) s = .next (respond (deleteEntry s k) 0x08 tag 0 [])) ∧
    (∀ k x, k ≤ 15 → entryHost s k = some x →
      exec (.tenantDelete tag k false) s = .next { s with out := s.out ++ [.colyr 0x88 tag 4 []] }) ∧
    (∀ k x, k ≤ 15 → entryHost s k = some x →
      let out := forceOut s x.1 x.2
      exec (.tenantDelete tag k true) s = .next (finishDelete { out with colyr := { out.colyr with deleting := some (tag, k) } })) ∧
    (∀ l, moduleArrival s l = 0 →
      ∃ t, exec (.colyrAccord tag l) s = .next t ∧ t.colyr.modReq = some (tag, l, none) ∧ t.out = s.out ∧ t.mem = s.mem ∧
        (∀ cn c, s.ctx? cn = some c → (∃ i ∈ l, iType i = 0x100 ∧ iTarget i = cn) → t.ctx? cn = some { c with stopped := true })) ∧
    (∀ l, moduleArrival s l ≠ 0 → exec (.colyrAccord tag l) s = .next (endModule s 0x09 tag (moduleArrival s l)))

/-- R375, R391, R394, R396, R398, R407: the commands that act on the module: a maintenance request is answered with its status, RESET resets the
compute part, or the module unless the flash is being written, DRYDOWN starts a context's Drydown, and DEBUG_UNLOCK opens the debug lock on a
module with no host and no context for a good token of the current nonce and serial number.
Choices of the model in it: log entries 52, 61 and 87. -/
def Obligations.ActingCommandsComplete : Prop :=  ∀ (s : State) (tag : Nat), s.colyr.deleting = none → fwRuns s = true →
    (∀ act target, act ≠ actFWU → let p := maintAsk s act target false
      exec (.maintReq tag act target) s = .next (respond p.1 0x10 tag 0 (toBytes 1 p.2))) ∧
    exec (.resetComputePart tag) s = .next (respond (partReset s (freeCause s)) 0x12 tag 0 []) ∧
    (fwWriting s = false → exec (.resetModule tag) s = .next (moduleReset (respond s 0x12 tag 0 []) .rom true (freeCause s))) ∧
    (fwWriting s = true → exec (.resetModule tag) s =
      .next { s with out := s.out ++ [.colyr 0x92 tag 0 []], fw := { s.fw with deferredReset := true } }) ∧
    (∀ cn, s.ctx? cn = none → exec (.drydown tag cn) s = .next { s with out := s.out ++ [.colyr 0x93 tag 3 []] }) ∧
    (∀ cn c, s.ctx? cn = some c → exec (.drydown tag cn) s = .next (respond (beginDrydown s cn) 0x13 tag 0 [])) ∧
    (∀ serial nonce ok, hostPresent s = true ∨ s.ctxs ≠ [] ∨ nonce ≠ s.colyr.nonce →
      exec (.debugUnlock tag serial nonce ok) s = .next { s with out := s.out ++ [.colyr 0x94 tag 4 []] }) ∧
    (hostPresent s = false → s.ctxs = [] → exec (.debugUnlock tag Config.serial s.colyr.nonce false) s =
      .next { s with out := s.out ++ [.colyr 0x94 tag 6 []] }) ∧
    (hostPresent s = false → s.ctxs = [] →
      ∃ t, exec (.debugUnlock tag Config.serial s.colyr.nonce true) s = .next t ∧ t.colyr.debugOpen = true ∧ t.out = s.out ++ [.colyr 0x94 tag 0 []] ∧
        t.mem = s.mem ∧ t.hosts = s.hosts ∧ t.fw = s.fw ∧ t.power = s.power)

/-- R403: recovery over a port: bytes in order are kept and acknowledged, bytes out of order are answered with the offset expected, another source or an
open update is refused; DONE writes an image whose signature block has passed and whose body verifies, and resets the module; ten seconds without DATA
end the session.
Choices of the model in it: log entries 53 and 61. -/
def Obligations.RecoveryTakesAnImage : Prop :=  ∀ (s : State) (port source : Nat), recPort s port = true →
    (∀ off data v, data ≠ [] → data.length ≤ 1024 → s.recSession = none → updating s = false → off = 0 → data.length < bodyAt →
      ∃ r : RecSession, r.port = port ∧ r.source = source ∧ r.expect = data.length ∧ r.sigOk = false ∧ Memory.getBytes r.image 0 data.length = data ∧
        exec (.recoveryData port source off data v) s =
          .next { s with recSession := some r, out := s.out ++ [.recoveryAck port source data.length] }) ∧
    (∀ off data v r, s.recSession = some r → r.source = source → updating s = false → data ≠ [] → data.length ≤ 1024 → off ≠ r.expect →
      exec (.recoveryData port source off data v) s = .next { s with out := s.out ++ [.recoveryAck port source r.expect] }) ∧
    (∀ off data v r, s.recSession = some r → r.source ≠ source ∨ updating s = true →
      exec (.recoveryData port source off data v) s = .next { s with out := s.out ++ [.recoveryResult port source 4] }) ∧
    (∀ off data v r, s.recSession = some r → r.source = source → updating s = false → data ≠ [] → data.length ≤ 1024 → off = r.expect →
      off + data.length ≤ bodyAt + 2 ^ 27 → exec (.recoveryData port source off data v) s =
        .next (recStep s { r with port := port, expect := off + data.length, image := Memory.setBytes r.image off data } v)) ∧
    (∀ r, s.recSession = some r → r.source = source → r.sigOk = true → bodyCheck r.image = true → ∃ t : State,
      t = { s with recSession := none, out := s.out ++ [.recoveryResult port source 0], fw := { s.fw with flash := r.image } } ∧
      exec (.recoveryDone port source r.expect) s = .next (moduleReset t .rom false (freeCause s))) ∧
    (∀ r, s.recSession = some r → r.source = source → r.sigOk = false ∨ bodyCheck r.image = false → exec (.recoveryDone port source r.expect) s =
      .next { s with recSession := none, out := s.out ++ [.recoveryResult port source 6] }) ∧
    exec .recoveryTimeout s = .next { s with recSession := none }

/-! ### Boot, power, clocks and pins (chapter 17) -/

/-- R28, R375, R398, R414, R417, R420, R429 to R434, R443, R446: what a module reset keeps and what it loses: the log, the flash, the fuses, the tenancy table
and the settings stay; contexts, hosts, sessions and units are gone, memory outside the Sillage regions reads as zero, and the port modes set take force.
The input's return starts a cold boot with memory and log empty; a shutdown, an overvoltage and a trip lose the module, a trip keeping its latch; a hold of a
working module resets the compute part, and its release lets the module go on.
Choices of the model in it: log entries 55 and 62. -/
def Obligations.ResetAndPowerEmptyTheModule : Prop :=
  (∀ (s : State) (st : BootStage), MemInv s →
     let t := afterReset s st
     t.ctxs = [] ∧ t.hosts = [] ∧ t.sessions = [] ∧ t.units = [] ∧ t.fabric = [] ∧ t.squalls = [] ∧ t.dseq = List.replicate 28 0 ∧
     t.pending = s.pending ∧ t.out = s.out ∧ t.power.boot = st ∧ t.power.cap = 9300 ∧ t.fw.flash = s.fw.flash ∧ t.fw.fuses = s.fw.fuses ∧ t.fw.anchor = s.fw.anchor ∧
     t.fw.boots = s.fw.boots + 1 ∧ t.colyr.log = s.colyr.log ∧ t.colyr.tenFlash = s.colyr.tenFlash ∧ t.colyr.dwSel = 0 ∧ t.colyr.watches = [] ∧ t.colyr.net = s.colyr.net ∧
     t.colyr.portmode = s.colyr.portmode ∧ t.colyr.modReq = none ∧ t.colyr.debugOpen = false ∧
     (∀ n < 8, nth 0 t.portModes n = s.colyr.portmode.toNat / 2 ^ (2 * n) % 4) ∧
     (∀ a, isSillage a = true → Memory.get t.mem a = Memory.get s.mem a) ∧ (∀ a, isSillage a = false → Memory.get t.mem a = 0)) ∧
  (∀ (s : State),
     (s.power.boot = .off → s.power.resetLow = false → s.power.refclk = true →
       ∃ t, exec .powerUp s = .next t ∧ t.power.boot = .rom ∧ t.mem = [] ∧ t.colyr.log.length = 1 ∧ t.ctxs = [] ∧ t.hosts = [] ∧ t.power.railsUp = false ∧
         t.power.thermtrip = false ∧ t.fw.flash = s.fw.flash) ∧
     (∀ i ∈ [Instr.inputShutdown, .inputOvervoltage], ∃ t, exec i s = .next t ∧ t.power.boot = .off ∧ t.mem = [] ∧ t.colyr.log = [] ∧ t.ctxs = [] ∧
       t.hosts = [] ∧ t.power.railsUp = false ∧ t.fw.flash = s.fw.flash ∧ t.fw.fuses = s.fw.fuses ∧ t.colyr.tenFlash = s.colyr.tenFlash) ∧
     (∀ d < 24, s.power.boot ≠ .off → ∃ t, exec (.thermalTrip d) s = .next t ∧ t.power.boot = .off ∧ t.power.thermtrip = true ∧ t.mem = [] ∧ t.ctxs = []) ∧
     (s.power.boot = .ready → s.power.hold = false → exec .computeHold s = .next (partReset { s with
       power := { s.power with hold := true, low := true, holdLocked := s.power.holdLocked, pwrgd := false } } (freeCause s))) ∧
     (s.power.boot ≠ .off → s.power.boot ≠ .ready → s.power.hold = false → exec .computeHold s = .next { s with
       power := { s.power with hold := true, low := true, holdLocked := s.power.holdLocked, pwrgd := false } }) ∧
     (s.power.low = true → s.power.holdLocked = false → exec .computeHoldRelease s = .next { s with
       power := { s.power with low := false, hold := false, pwrgd := s.power.boot == .ready } }) ∧
     (s.power.low = true → s.power.holdLocked = true → exec .computeHoldRelease s = .next { s with
       power := { s.power with low := false, hold := true, pwrgd := false } }))

/-- R387, R400, R401, R430 to R434: the boot goes on from step to step while no hold stands: an image that fails a check leads to recovery and is logged with the
check's number, a good one runs; rails, near and far training and the self-test follow in order, and the last makes the module ready; a unit or control group that fails the self-test is excluded.
Choices of the model in it: log entry 55. -/
def Obligations.BootStepsFollowInOrder : Prop :=  ∀ (s : State), s.power.hold = false →
    let at_ (t : State) (st : BootStage) : State := { t with power := { t.power with boot := st } }
    (∀ v, s.power.boot = .rom → imgCheck s.fw s.fw.flash v ≠ 0 →
      exec (.bootVerify v) s = .next ((at_ s .recovery).logMgmt 0x41 31 31 (imgCheck s.fw s.fw.flash v) 0)) ∧
    (∀ v, s.power.boot = .rom → imgCheck s.fw s.fw.flash v = 0 →
      ∃ t, exec (.bootVerify v) s = .next t ∧ t.power.boot = (if s.power.railsUp then .nearTrain else .rails) ∧
        t.fw.runSvn = imgSvn s.fw.flash ∧ t.fw.runVer = imgVer s.fw.flash ∧ t.fw.flash = s.fw.flash ∧ t.mem = s.mem) ∧
    (s.power.boot = .rails → exec .railsInRegulation s = .next { s with power := { s.power with boot := .nearTrain, railsUp := true } }) ∧
    (s.power.boot = .nearTrain → exec (.nearTrainingDone []) s = .next (at_ s .farTrain)) ∧
    (∀ x, s.power.boot = .nearTrain → x.1 < 24 → x.2.1 < 128 → x.2.2 < 72 →
      exec (.nearTrainingDone [x]) s = .next (checkChannel (declareDead (at_ s .farTrain) x.1 x.2.1 x.2.2) x.1 x.2.1)) ∧
    (s.power.boot = .farTrain → exec (.farTrainingDone []) s = .next (at_ s .selfTest)) ∧
    (∀ x, s.power.boot = .farTrain → stackFitted s.order x.1 = true →
      exec (.farTrainingDone [x]) s = .next (lanesFound (at_ s .selfTest) x.1 [x.2])) ∧
    (s.power.boot = .selfTest → exec (.bootComplete [] []) s = .next { s with power := { s.power with boot := .ready, pwrgd := true } }) ∧
    (∀ u, s.power.boot = .selfTest → u.exists_ s.order = true → exec (.bootComplete [u] []) s =
      .next (excludeUnit { s with power := { s.power with boot := .ready, pwrgd := true } } u)) ∧
    (∀ d, s.power.boot = .selfTest → d < 24 → exec (.bootComplete [] [d]) s =
      .next (excludeDie { s with power := { s.power with boot := .ready, pwrgd := true } } d))

/-- R426, R429, R435 to R439, R445: a lost converter is counted and, below 3,000 W, locks the hold; a sample records itself, raises a die to the highest
thermal level one of its sensors meets and runs the cap loop; a die that has cooled by 4 K leaves a level; the fast limiter lowers every die by one level; a DVFS
step moves a die one level toward its demand; a ramp stage releases dispatch on more dies.
Choices of the model in it: log entries 56, 57 and 58. -/
def Obligations.PowerLoopsStepTheLevels : Prop :=  ∀ (s : State), fwRuns s = true →
    (∀ n, n < 8 → s.power.convLost < 8 →
      let counted := logFree { s with power := { s.power with convLost := s.power.convLost + 1 } } 24
      exec (.converterFailure n) s = .next (if effCapMw counted < 3000000 then enterHold counted true else counted)) ∧
    (∀ x, ∃ t, exec (.sensorSample x) s = .next t ∧ t.power.lastSample = some x ∧ t.mem = s.mem ∧ t.ctxs = s.ctxs ∧
      t.power.coolantWarn = (decide (40000 < x.inletMc) || decide (x.inletMc + 20000 < x.outletMc)) ∧
      (∀ d < 24, nth 0 t.power.thermLevel d = max (nth 0 s.power.thermLevel d) (heatLevel (heat s.order x d)))) ∧
    (∀ x d, s.power.lastSample = some x → nth 0 s.power.thermLevel d ≠ 0 → coolBelow (heat s.order x d) (nth 0 s.power.thermLevel d) = true →
      exec (.thermalLevelExit d) s = .next { s with
        power := { s.power with thermLevel := setNth s.power.thermLevel d (nth 0 s.power.thermLevel d - 1) } }) ∧
    (∃ t, exec .fastLimiter s = .next t ∧ (∀ d < 24, nth 0 t.power.fastLevel d = min 3 (demand s.power d + 1)) ∧ t.mem = s.mem ∧ t.ctxs = s.ctxs) ∧
    (∀ d, d < 24 → nth 0 s.power.level d ≠ demand s.power d → s.power.level.length = 24 →
      ∃ t, exec (.dvfsStep d) s = .next t ∧ (∀ k, k ≠ d → nth 0 t.power.level k = nth 0 s.power.level k) ∧ t.mem = s.mem ∧
        nth 0 t.power.level d = (if nth 0 s.power.level d < demand s.power d then nth 0 s.power.level d + 1 else nth 0 s.power.level d - 1)) ∧
    (s.power.boot = .ready → exec .dispatchRampStage s = .next { s with power := { s.power with rampStage := s.power.rampStage + 1 } })

/-- R407, R442, R443, R451, R452: clocks and pins. The loss of REFCLK holds the module in reset and its return starts the boot ROM; a SerDes reference drops the
ports it serves; RESET# low is a module reset that lasts until it is high, with the flash on its pins when FLASH_SEL is high; JTAG bypasses everything but the
mandatory instructions while the debug lock of a production module is shut.
Choices of the model in it: log entries 55 and 59. -/
def Obligations.ClocksAndPins : Prop :=  ∀ (s : State),
    (s.power.refclk = true → s.power.boot ≠ .off →
      ∃ t, exec .refclkLoss s = .next t ∧ t.power.boot = .inReset ∧ t.power.refclk = false ∧ t.mem = [] ∧ t.ctxs = [] ∧ t.fw.flash = s.fw.flash) ∧
    (s.power.refclk = false → s.power.boot ≠ .off → s.power.resetLow = false →
      ∃ t, exec .refclkReturn s = .next t ∧ t.power.boot = .rom ∧ t.power.refclk = true ∧ t.ctxs = [] ∧ t.fw.flash = s.fw.flash) ∧
    (∀ east, exec (.sdsclkLoss east) s = .next ((rangeFrom (if east then 4 else 0) 4).foldl dropHostPort (setSds s east false))) ∧
    (exec (.sdsclkReturn true) s = .next { s with power := { s.power with sdsE := true } }) ∧
    (exec (.sdsclkReturn false) s = .next { s with power := { s.power with sdsW := true } }) ∧
    (s.power.resetLow = false → s.power.boot ≠ .off →
      ∃ t, exec .resetPin s = .next t ∧ t.power.boot = .inReset ∧ t.power.resetLow = true ∧ t.power.flashOut = s.power.flashSelHigh ∧ t.ctxs = [] ∧
        t.hosts = [] ∧ t.fw.flash = s.fw.flash) ∧
    (s.power.resetLow = true → s.power.boot = .inReset → s.power.refclk = true → exec .resetPinRelease s = .next { s with
      power := { s.power with resetLow := false, flashOut := false, boot := .rom } }) ∧
    (∀ level, exec (.flashSel level) s = .next { s with
      power := { s.power with flashSelHigh := level, flashOut := s.power.resetLow && level } }) ∧
    (∀ ir, s.colyr.debugOpen = true ∨ s.fw.production = false ∨ Config.jtagMandatory ir = true →
      exec (.jtagInstruction ir) s = .next { s with out := s.out ++ [.jtag ir false] }) ∧
    (∀ ir, s.colyr.debugOpen = false → s.fw.production = true → Config.jtagMandatory ir = false →
      exec (.jtagInstruction ir) s = .next { s with out := s.out ++ [.jtag ir true] })

/-! ### Reset and what every command keeps -/

/-- R58, R288, R375, R414, R415, R420, R429: values that the spec gives the module after a reset; those the spec leaves open are log entries of the model.
Choices of the model in it: log entries 3 and 4. -/
def Obligations.ResetValuesOfTheSpec : Prop :=  let s := State.reset
  s.pending = [] ∧ s.mem = [] ∧ s.ctxs = [] ∧ s.hosts = [] ∧ s.units = [] ∧ s.power.boot = .ready ∧ s.power.cap = 9300 ∧ s.power.hold = false ∧
    s.colyr.net.toNat % 8 = 3 ∧ s.colyr.net.toNat / 2 ^ 4 % 2 ^ 6 = 2 ∧ s.colyr.net.toNat / 2 ^ 10 % 2 ^ 4 = 1 ∧ s.colyr.net.toNat / 2 ^ 14 % 2 ^ 10 = 30 ∧
    s.colyr.portmode = 0 ∧ s.colyr.log = [] ∧ (∀ k < 16, teValid (tenantBits s k) = false ∧ teField (tenantBits s k) 534 527 = 1 ∧
    teField (tenantBits s k) 549 535 = 1024 ∧ teField (tenantBits s k) 557 550 = 16 ∧ teField (tenantBits s k) 517 516 = 2) ∧
    (∀ d < 28, nth 1 s.dseq d = 0)

/-- The memory of the reset state and the images it stores have their canonical form.
Choices of the model in it: log entry 5. -/
def Obligations.ResetMemoryIsCanonical : Prop := MemInv State.reset ∧ ImagesInv State.reset

/-- Every step keeps the canonical form of memory, addresses rising and no listed byte zero, and that of the firmware images the module stores: in
flash, running, staged for an update, and of a recovery session.
Choices of the model in it: log entry 5. -/
def Obligations.EveryStepKeepsMemoryCanonical : Prop :=
  (∀ s t : State, MemInv s → step s = .next t → MemInv t) ∧ (∀ s t : State, ImagesInv s → step s = .next t → ImagesInv t)

/-- No command stops the module or touches the queue of waiting commands: every one of them, in every state, answers a next state with the same queue, and a
step on a queue that is not empty takes exactly its front.
Choices of the model in it: log entry 2. -/
def Obligations.EveryCommandGoesOnAndKeepsTheQueue : Prop :=
  (∀ (i : Instr) (s : State), ∃ t, exec i s = .next t) ∧
  ((∀ (i : Instr) (s t : State), exec i s = .next t → t.pending = s.pending) ∧
   (∀ (i : Instr) (rest : List Instr) (s t : State), s.pending = i :: rest → step s = .next t → t.pending = rest))
end

