-- ==== Sys2Proof/Laws/Issue.lean ====
section
/-!
SUPPORT. What the issue of an instruction does, said once: the three ends of an issue event, whichever row it is.
-/

namespace Sys2Proof.Machine

theorem issuing_of_atPc {s : State} {u : UnitId} {r : Run} {c : Ctx} {w : InstrWord} {cl op : Nat} (h : AtPc s u r c w cl op) :
    issuing s u = some (r, c) := by
  simp [issuing, h.run, h.running, h.ctx]

/-- An issue whose word-only check fails is an illegal instruction, whatever the predicate (R66). -/
theorem issue_static_fails {s : State} {u : UnitId} {r : Run} {c : Ctx} {w : InstrWord} {cl op : Nat}
    {static : UnitKind → InstrWord → Bool} {body : State → UnitId → Ctx → Run → InstrWord → Eff}
    (h : AtPc s u r c w cl op) (hs : static u.kind w = false) :
    issue s u cl op static body = .next (unitFault s u r .illegalInstruction (pcIndex r)) := by
  simp [issue, issuing_of_atPc h, h.inside, h.fetched, h.defined, h.cls, h.opc, hs]

/-- An issue whose predicate is false only moves the PC on (R66). -/
theorem issue_predicated_off {s : State} {u : UnitId} {r : Run} {c : Ctx} {w : InstrWord} {cl op : Nat}
    {static : UnitKind → InstrWord → Bool} {body : State → UnitId → Ctx → Run → InstrWord → Eff}
    (h : AtPc s u r c w cl op) (hs : static u.kind w = true) (hp : predicate r w = false) :
    issue s u cl op static body = .next (s.setRun u (advance r)) := by
  simp [issue, issuing_of_atPc h, h.inside, h.fetched, h.defined, h.cls, h.opc, hs, hp]

/-- An issue that executes settles its body's effect. -/
theorem issue_executes {s : State} {u : UnitId} {r : Run} {c : Ctx} {w : InstrWord} {cl op : Nat}
    {static : UnitKind → InstrWord → Bool} {body : State → UnitId → Ctx → Run → InstrWord → Eff}
    (h : Issues s u r c w cl op) (hs : static u.kind w = true) :
    issue s u cl op static body = settle u r (body s u c r w) := by
  simp [issue, issuing_of_atPc h.toAtPc, h.inside, h.fetched, h.defined, h.cls, h.opc, hs, h.pred]

end Sys2Proof.Machine
end

