-- ==== Sys2Proof/Laws/Memory.lean ====
section
/-!
SUPPORT. Laws of the memory's canonical form: every operation keeps it, and what each reads back.
-/

namespace Sys2Proof.Machine

theorem Memory.sortedFrom_mono {lo lo' : Nat} (h : lo' ≤ lo) : ∀ {m : Memory}, Memory.sortedFrom lo m = true → Memory.sortedFrom lo' m = true
  | [], _ => rfl
  | (b, v) :: r, hm => by
    simp only [Memory.sortedFrom, Bool.and_eq_true, decide_eq_true_eq] at hm ⊢
    exact ⟨⟨Nat.le_trans h hm.1.1, hm.1.2⟩, hm.2⟩

/-- Below the first address everything reads as zero. -/
theorem Memory.get_below : ∀ {m : Memory} {lo a : Nat}, Memory.sortedFrom lo m = true → a < lo → Memory.get m a = 0
  | [], _, _, _, _ => rfl
  | (b, v) :: r, lo, a, hm, ha => by
    simp only [Memory.sortedFrom, Bool.and_eq_true, decide_eq_true_eq] at hm
    have : a < b := by omega
    have hne : (b == a) = false := by simp; omega
    simp [Memory.get, hne, this]

theorem Memory.get_cons_of_lt {b : Nat} {v : Byte} {r : Memory} {a : Nat} (h : b < a) : Memory.get ((b, v) :: r) a = Memory.get r a := by
  have hne : (b == a) = false := by simp; omega
  have : ¬ a < b := by omega
  simp [Memory.get, hne, this]

theorem Memory.get_cons_self {b : Nat} {v : Byte} {r : Memory} : Memory.get ((b, v) :: r) b = v := by simp [Memory.get]

theorem Memory.sortedFrom_set : ∀ {m : Memory} {lo a : Nat} {v : Byte}, Memory.sortedFrom lo m = true → lo ≤ a →
    Memory.sortedFrom lo (Memory.set m a v) = true
  | [], lo, a, v, _, ha => by
    unfold Memory.set
    split
    · rfl
    · simp_all [Memory.sortedFrom]
  | (b, w) :: r, lo, a, v, hm, ha => by
    simp only [Memory.sortedFrom, Bool.and_eq_true, decide_eq_true_eq] at hm
    unfold Memory.set
    split
    · split
      · simp_all [Memory.sortedFrom]
      · rename_i hab hv
        simp only [Memory.sortedFrom, Bool.and_eq_true, decide_eq_true_eq]
        exact ⟨⟨ha, by simp_all⟩, ⟨by omega, hm.1.2⟩, hm.2⟩
    · split
      · split
        · exact Memory.sortedFrom_mono (by omega) hm.2
        · rename_i hab hba hv
          have hb : b = a := by simpa using hba
          subst hb
          simp only [Memory.sortedFrom, Bool.and_eq_true, decide_eq_true_eq]
          exact ⟨⟨ha, by simp_all⟩, hm.2⟩
      · rename_i hab hba
        have hlt : b < a := by
          have : b ≠ a := by simpa using hba
          omega
        simp only [Memory.sortedFrom, Bool.and_eq_true, decide_eq_true_eq]
        exact ⟨hm.1, Memory.sortedFrom_set hm.2 hlt⟩

/-- Writing a byte keeps the canonical form. -/
theorem Memory.wf_set {m : Memory} (h : Memory.wf m = true) (a : Nat) (v : Byte) : Memory.wf (Memory.set m a v) = true :=
  Memory.sortedFrom_set h (Nat.zero_le a)

/-- A byte that has been written reads as written. -/
theorem Memory.get_set_same : ∀ {m : Memory} {lo a : Nat} {v : Byte}, Memory.sortedFrom lo m = true → Memory.get (Memory.set m a v) a = v
  | [], lo, a, v, _ => by
    unfold Memory.set
    split <;> simp_all [Memory.get]
  | (b, w) :: r, lo, a, v, hm => by
    simp only [Memory.sortedFrom, Bool.and_eq_true, decide_eq_true_eq] at hm
    unfold Memory.set
    split
    · split
      · rename_i hab hv
        have hv' : v = 0 := by simpa using hv
        have hne : (b == a) = false := by simp; omega
        simp [Memory.get, hne, hab, hv']
      · exact Memory.get_cons_self
    · split
      · rename_i hab hba
        have hb : b = a := by simpa using hba
        subst hb
        split
        · rename_i hv
          have hv' : v = 0 := by simpa using hv
          rw [Memory.get_below hm.2 (Nat.lt_succ_self _), hv']
        · exact Memory.get_cons_self
      · rename_i hab hba
        have hlt : b < a := by
          have : b ≠ a := by simpa using hba
          omega
        rw [Memory.get_cons_of_lt hlt]
        exact Memory.get_set_same hm.2

/-- Every other byte reads as before. -/
theorem Memory.get_set_ne : ∀ {m : Memory} {lo a c : Nat} {v : Byte}, Memory.sortedFrom lo m = true → c ≠ a →
    Memory.get (Memory.set m a v) c = Memory.get m c
  | [], lo, a, c, v, _, hc => by
    unfold Memory.set
    split
    · rfl
    · have : (a == c) = false := by simp; omega
      simp [Memory.get, this]
  | (b, w) :: r, lo, a, c, v, hm, hc => by
    simp only [Memory.sortedFrom, Bool.and_eq_true, decide_eq_true_eq] at hm
    unfold Memory.set
    split
    · rename_i hab
      split
      · rfl
      · rcases Nat.lt_trichotomy a c with h | h | h
        · rw [Memory.get_cons_of_lt h]
        · exact absurd h.symm hc
        · have h1 : (a == c) = false := by simp; omega
          have h2 : (b == c) = false := by simp; omega
          have h3 : c < b := by omega
          simp [Memory.get, h1, h2, h3, h]
    · split
      · rename_i hab hba
        have hb : b = a := by simpa using hba
        subst hb
        have h2 : (b == c) = false := by simp; omega
        split
        · rcases Nat.lt_or_ge c b with h | h
          · rw [Memory.get_below hm.2 (by omega)]
            simp [Memory.get, h2, h]
          · rw [Memory.get_cons_of_lt (by omega)]
        · simp [Memory.get, h2]
      · rename_i hab hba
        have hlt : b < a := by
          have : b ≠ a := by simpa using hba
          omega
        rcases Nat.lt_trichotomy c b with h | h | h
        · have h2 : (b == c) = false := by simp; omega
          simp [Memory.get, h2, h]
        · subst h; simp [Memory.get]
        · rw [Memory.get_cons_of_lt h, Memory.get_cons_of_lt h]
          exact Memory.get_set_ne hm.2 hc

/-- One law for a read after a write. -/
theorem Memory.get_set {m : Memory} (h : Memory.wf m = true) (a c : Nat) (v : Byte) :
    Memory.get (Memory.set m a v) c = if c = a then v else Memory.get m c := by
  split
  · rename_i hc; subst hc; exact Memory.get_set_same h
  · rename_i hc; exact Memory.get_set_ne h hc

/-- A list of bytes written one by one. -/
theorem Memory.wf_foldl_set {α : Type} (f : α → Nat) (g : α → Byte) : ∀ (l : List α) {m : Memory}, Memory.wf m = true →
    Memory.wf (l.foldl (fun m x => Memory.set m (f x) (g x)) m) = true
  | [], _, h => h
  | x :: r, _, h => Memory.wf_foldl_set f g r (Memory.wf_set h (f x) (g x))

/-! ### Filtering -/

theorem Memory.sortedFrom_filter (p : Nat → Bool) : ∀ {m : Memory} {lo : Nat}, Memory.sortedFrom lo m = true →
    Memory.sortedFrom lo (m.filter (fun c => p c.1)) = true
  | [], _, _ => rfl
  | (b, v) :: r, lo, hm => by
    simp only [Memory.sortedFrom, Bool.and_eq_true, decide_eq_true_eq] at hm
    have ih := Memory.sortedFrom_filter p hm.2
    rw [List.filter_cons]
    split
    · simp only [Memory.sortedFrom, Bool.and_eq_true, decide_eq_true_eq]
      exact ⟨hm.1, ih⟩
    · exact Memory.sortedFrom_mono (by omega) ih

/-- A part of memory is in the canonical form. -/
theorem Memory.wf_filter {m : Memory} (h : Memory.wf m = true) (p : Nat → Bool) : Memory.wf (m.filter (fun c => p c.1)) = true :=
  Memory.sortedFrom_filter p h

/-- A filtered memory reads as before where the filter holds, as zero elsewhere. -/
theorem Memory.get_filter (p : Nat → Bool) : ∀ {m : Memory} {lo : Nat} (a : Nat), Memory.sortedFrom lo m = true →
    Memory.get (m.filter (fun c => p c.1)) a = if p a then Memory.get m a else 0
  | [], _, a, _ => by simp [Memory.get]
  | (b, v) :: r, lo, a, hm => by
    simp only [Memory.sortedFrom, Bool.and_eq_true, decide_eq_true_eq] at hm
    have ih := Memory.get_filter p a hm.2
    rw [List.filter_cons]
    rcases Nat.lt_trichotomy a b with h | h | h
    · have hz : Memory.get ((b, v) :: r) a = 0 := by
        have h2 : (b == a) = false := by simp; omega
        simp [Memory.get, h2, h]
      have hz' : Memory.get (r.filter (fun c => p c.1)) a = 0 :=
        Memory.get_below (Memory.sortedFrom_filter p hm.2) (by omega)
      rw [hz]
      split
      · have h2 : (b == a) = false := by simp; omega
        simp [Memory.get, h2, h]
      · simp [hz']
    · subst h
      split
      · simp [Memory.get]
      · rename_i hp
        rw [ih]
        simp [hp]
    · rw [Memory.get_cons_of_lt h]
      split
      · rw [Memory.get_cons_of_lt h, ih]
      · exact ih

/-- Erasing a range keeps the canonical form. -/
theorem Memory.wf_erase {m : Memory} (h : Memory.wf m = true) (a n : Nat) : Memory.wf (Memory.erase m a n) = true :=
  Memory.wf_filter h (fun x => decide (x < a) || decide (a + n ≤ x))

/-- An erased range reads as zero, the rest as before. -/
theorem Memory.get_erase {m : Memory} (h : Memory.wf m = true) (a n c : Nat) :
    Memory.get (Memory.erase m a n) c = if c < a ∨ a + n ≤ c then Memory.get m c else 0 := by
  have := Memory.get_filter (fun x => decide (x < a) || decide (a + n ≤ x)) c h
  simpa [Memory.erase] using this

/-! ### Blocks -/

theorem Memory.sortedFrom_append : ∀ {m : Memory} {r : Memory} {lo hi : Nat}, Memory.sortedFrom lo m = true → Memory.sortedFrom hi r = true →
    lo ≤ hi → (∀ c ∈ m, c.1 < hi) → Memory.sortedFrom lo (m ++ r) = true
  | [], _, _, _, _, hr, hle, _ => Memory.sortedFrom_mono hle hr
  | (b, v) :: t, r, lo, hi, hm, hr, _, hlt => by
    simp only [Memory.sortedFrom, Bool.and_eq_true, decide_eq_true_eq, List.cons_append] at hm ⊢
    refine ⟨hm.1, Memory.sortedFrom_append hm.2 hr ?_ (fun c hc => hlt c (List.mem_cons_of_mem _ hc))⟩
    exact hlt (b, v) (List.mem_cons_self)

theorem Memory.get_append_left : ∀ {m r : Memory} {lo hi a : Nat}, Memory.sortedFrom lo m = true → Memory.sortedFrom hi r = true →
    a < hi → Memory.get (m ++ r) a = Memory.get m a
  | [], r, _, _, _, _, hr, ha => by simp [Memory.get, Memory.get_below hr ha]
  | (b, v) :: t, r, lo, hi, a, hm, hr, ha => by
    simp only [Memory.sortedFrom, Bool.and_eq_true, decide_eq_true_eq] at hm
    have ih := Memory.get_append_left hm.2 hr ha
    simp only [List.cons_append, Memory.get]
    split
    · rfl
    · split
      · rfl
      · exact ih

theorem Memory.get_append_right : ∀ {m r : Memory} {a : Nat}, (∀ c ∈ m, c.1 < a) → Memory.get (m ++ r) a = Memory.get r a
  | [], _, _, _ => rfl
  | (b, v) :: t, r, a, h => by
    rw [List.cons_append, Memory.get_cons_of_lt (h (b, v) List.mem_cons_self)]
    exact Memory.get_append_right (fun c hc => h c (List.mem_cons_of_mem _ hc))

/-- A block lies in a range: it is in the canonical form from the range's start on, and ends within it. -/
def Memory.Block (b : Memory) (a n : Nat) : Prop := Memory.sortedFrom a b = true ∧ ∀ c ∈ b, c.1 < a + n

theorem Memory.sortedFrom_tail (m : Memory) (h : Memory.wf m = true) (k : Nat) :
    Memory.sortedFrom k (m.filter (fun c => decide (k ≤ c.1))) = true := by
  have : ∀ {m : Memory} {lo : Nat}, Memory.sortedFrom lo m = true → Memory.sortedFrom k (m.filter (fun c => decide (k ≤ c.1))) = true := by
    intro m
    induction m with
    | nil => intro _ _; rfl
    | cons x r ih =>
      intro lo hm
      obtain ⟨b, v⟩ := x
      simp only [Memory.sortedFrom, Bool.and_eq_true, decide_eq_true_eq] at hm
      rw [List.filter_cons]
      split
      · rename_i hk
        simp only [Memory.sortedFrom, Bool.and_eq_true, decide_eq_true_eq] at hk ⊢
        exact ⟨⟨hk, hm.1.2⟩, Memory.sortedFrom_filter (fun x => decide (k ≤ x)) hm.2⟩
      · exact ih hm.2
  exact this h

/-- Placing a block keeps the canonical form. -/
theorem Memory.wf_setBlock {m b : Memory} {a n : Nat} (h : Memory.wf m = true) (hb : Memory.Block b a n) :
    Memory.wf (Memory.setBlock m a n b) = true := by
  unfold Memory.setBlock Memory.wf
  rw [List.append_assoc]
  refine Memory.sortedFrom_append (Memory.sortedFrom_filter (fun x => decide (x < a)) h) ?_ (Nat.zero_le a) ?_
  · exact Memory.sortedFrom_append hb.1 (Memory.sortedFrom_tail m h (a + n)) (Nat.le_add_right a n) hb.2
  · intro c hc
    simpa using (List.mem_filter.mp hc).2

/-- What a placed block leaves: the block inside its range, the old bytes outside. -/
theorem Memory.get_setBlock {m b : Memory} {a n : Nat} (h : Memory.wf m = true) (hb : Memory.Block b a n) (c : Nat) :
    Memory.get (Memory.setBlock m a n b) c = if c < a ∨ a + n ≤ c then Memory.get m c else Memory.get b c := by
  have h1 := Memory.sortedFrom_filter (fun x => decide (x < a)) h
  have h3 := Memory.sortedFrom_tail m h (a + n)
  have h23 := Memory.sortedFrom_append hb.1 h3 (Nat.le_add_right a n) hb.2
  have l1 : ∀ d ∈ m.filter (fun c => decide (c.1 < a)), d.1 < a := fun d hd => by simpa using (List.mem_filter.mp hd).2
  unfold Memory.setBlock
  rw [List.append_assoc]
  rcases Nat.lt_or_ge c a with hc | hc
  · rw [Memory.get_append_left h1 h23 hc, Memory.get_filter (fun x => decide (x < a)) c h]
    simp [hc]
  · rw [Memory.get_append_right (fun d hd => Nat.lt_of_lt_of_le (l1 d hd) hc)]
    rcases Nat.lt_or_ge c (a + n) with hc' | hc'
    · rw [Memory.get_append_left hb.1 h3 hc']
      simp [Nat.not_lt.mpr hc, Nat.not_le.mpr hc']
    · rw [Memory.get_append_right (fun d hd => Nat.lt_of_lt_of_le (hb.2 d hd) hc'),
        Memory.get_filter (fun x => decide (a + n ≤ x)) c h]
      simp [hc']

theorem Memory.block_cells : ∀ (bs : Bytes) (a : Nat), Memory.Block (Memory.cells a bs) a bs.length
  | [], _ => ⟨rfl, by simp [Memory.cells]⟩
  | v :: r, a => by
    obtain ⟨h1, h2⟩ := Memory.block_cells r (a + 1)
    unfold Memory.cells
    split
    · refine ⟨Memory.sortedFrom_mono (Nat.le_succ a) h1, fun c hc => ?_⟩
      have := h2 c hc
      simp only [List.length_cons]
      omega
    · rename_i hv
      refine ⟨?_, fun c hc => ?_⟩
      · simp only [Memory.sortedFrom, Bool.and_eq_true, decide_eq_true_eq]
        exact ⟨⟨Nat.le_refl a, by simp_all⟩, h1⟩
      · simp only [List.length_cons]
        rcases List.mem_cons.mp hc with rfl | hc
        · simp
        · have := h2 c hc
          omega

theorem Memory.get_cells : ∀ (bs : Bytes) (a k : Nat), k < bs.length → Memory.get (Memory.cells a bs) (a + k) = bs.getD k 0
  | [], _, _, h => by simp at h
  | v :: r, a, k, h => by
    unfold Memory.cells
    obtain _ | k := k
    · split
      · rename_i hv
        rw [Memory.get_below (Memory.block_cells r (a + 1)).1 (by omega)]
        simp_all
      · simp [Memory.get]
    · have ih := Memory.get_cells r (a + 1) k (by simpa using h)
      have e : a + (k + 1) = a + 1 + k := by omega
      split
      · rw [e, ih]; simp
      · rw [e, Memory.get_cons_of_lt (by omega), ih]; simp

/-- Writing bytes keeps the canonical form. -/
theorem Memory.wf_setBytes {m : Memory} (h : Memory.wf m = true) (a : Nat) (bs : Bytes) : Memory.wf (Memory.setBytes m a bs) = true :=
  Memory.wf_setBlock h (Memory.block_cells bs a)

/-- Written bytes read as written, the rest as before. -/
theorem Memory.get_setBytes {m : Memory} (h : Memory.wf m = true) (a : Nat) (bs : Bytes) (c : Nat) :
    Memory.get (Memory.setBytes m a bs) c = if c < a ∨ a + bs.length ≤ c then Memory.get m c else bs.getD (c - a) 0 := by
  unfold Memory.setBytes
  rw [Memory.get_setBlock h (Memory.block_cells bs a)]
  split
  · rfl
  · rename_i hc
    have hc' : a ≤ c ∧ c < a + bs.length := by omega
    have e : a + (c - a) = c := by omega
    have := Memory.get_cells bs a (c - a) (by omega)
    rwa [e] at this

theorem length_rangeFrom : ∀ (lo n : Nat), (rangeFrom lo n).length = n
  | _, 0 => rfl
  | lo, n + 1 => by simp [rangeFrom, length_rangeFrom]

theorem mem_rangeFrom : ∀ {lo n x : Nat}, x ∈ rangeFrom lo n ↔ lo ≤ x ∧ x < lo + n
  | lo, 0, x => by simp [rangeFrom]
  | lo, n + 1, x => by
    simp only [rangeFrom, List.mem_cons, mem_rangeFrom]
    omega

theorem Memory.getBytes_length (m : Memory) (a n : Nat) : (Memory.getBytes m a n).length = n := by
  simp [Memory.getBytes, length_rangeFrom]

theorem map_rangeFrom_getD : ∀ (bs : Bytes) (f : Nat → Byte) (a : Nat), (∀ k < bs.length, f (a + k) = bs.getD k 0) →
    (rangeFrom a bs.length).map f = bs
  | [], _, _, _ => rfl
  | v :: r, f, a, h => by
    have h0 : f a = v := by simpa using h 0 (by simp)
    simp only [List.length_cons, rangeFrom, List.map_cons, h0, List.cons.injEq, true_and]
    refine map_rangeFrom_getD r f (a + 1) (fun k hk => ?_)
    have := h (k + 1) (by simpa using hk)
    simpa [Nat.add_assoc, Nat.add_comm 1 k] using this

/-- Reading back what was written gives the bytes. -/
theorem Memory.getBytes_setBytes {m : Memory} (h : Memory.wf m = true) (a : Nat) (bs : Bytes) :
    Memory.getBytes (Memory.setBytes m a bs) a bs.length = bs := by
  refine map_rangeFrom_getD bs _ a (fun k hk => ?_)
  rw [Memory.get_setBytes h]
  split
  · omega
  · simp

theorem Memory.sortedFrom_shift (src dst : Nat) : ∀ {m : Memory} {lo : Nat}, Memory.sortedFrom lo m = true → src ≤ lo →
    Memory.sortedFrom (lo - src + dst) (m.map (fun c => (c.1 - src + dst, c.2))) = true
  | [], _, _, _ => rfl
  | (b, v) :: r, lo, hm, hlo => by
    simp only [Memory.sortedFrom, Bool.and_eq_true, decide_eq_true_eq] at hm
    simp only [List.map_cons, Memory.sortedFrom, Bool.and_eq_true, decide_eq_true_eq]
    have ih := Memory.sortedFrom_shift src dst hm.2 (by omega)
    refine ⟨⟨by omega, hm.1.2⟩, ?_⟩
    have e : b + 1 - src + dst = b - src + dst + 1 := by omega
    rw [← e]
    exact ih

theorem Memory.get_shift (src dst : Nat) : ∀ {m : Memory} {lo a : Nat}, Memory.sortedFrom lo m = true → src ≤ lo → src ≤ a →
    Memory.get (m.map (fun c => (c.1 - src + dst, c.2))) (a - src + dst) = Memory.get m a
  | [], _, _, _, _, _ => rfl
  | (b, v) :: r, lo, a, hm, hlo, ha => by
    simp only [Memory.sortedFrom, Bool.and_eq_true, decide_eq_true_eq] at hm
    have ih := Memory.get_shift src dst (a := a) hm.2 (by omega) ha
    have e1 : ((b - src + dst) == (a - src + dst)) = (b == a) := by
      rcases Nat.decEq b a with h | h
      · have h' : b - src ≠ a - src := by omega
        simp [h, h']
      · simp [h]
    have e2 : (a - src + dst < b - src + dst) ↔ a < b := by omega
    simp only [List.map_cons, Memory.get, e1, e2, ih]

theorem Memory.block_copy {m : Memory} (h : Memory.wf m = true) (src dst n : Nat) :
    Memory.Block ((m.filter (fun c => decide (src ≤ c.1) && decide (c.1 < src + n))).map (fun c => (c.1 - src + dst, c.2))) dst n := by
  have hf : m.filter (fun c => decide (src ≤ c.1) && decide (c.1 < src + n)) =
      (m.filter (fun c => decide (c.1 < src + n))).filter (fun c => decide (src ≤ c.1)) := by
    rw [List.filter_filter]
  constructor
  · rw [hf]
    have := Memory.sortedFrom_shift src dst
      (Memory.sortedFrom_tail _ (Memory.wf_filter h (fun x => decide (x < src + n))) src) (Nat.le_refl src)
    simpa using this
  · intro c hc
    obtain ⟨d, hd, rfl⟩ := List.mem_map.mp hc
    have := (List.mem_filter.mp hd).2
    simp only [Bool.and_eq_true, decide_eq_true_eq] at this
    show d.1 - src + dst < dst + n
    omega

/-- Copying a range keeps the canonical form. -/
theorem Memory.wf_copy {m : Memory} (h : Memory.wf m = true) (src dst n : Nat) : Memory.wf (Memory.copy m src dst n) = true :=
  Memory.wf_setBlock h (Memory.block_copy h src dst n)

/-- The copy reads as the source did, the rest as before. -/
theorem Memory.get_copy {m : Memory} (h : Memory.wf m = true) (src dst n c : Nat) :
    Memory.get (Memory.copy m src dst n) c = if c < dst ∨ dst + n ≤ c then Memory.get m c else Memory.get m (c - dst + src) := by
  unfold Memory.copy
  rw [Memory.get_setBlock h (Memory.block_copy h src dst n)]
  split
  · rfl
  · rename_i hc
    have hf : m.filter (fun c => decide (src ≤ c.1) && decide (c.1 < src + n)) =
        (m.filter (fun c => decide (c.1 < src + n))).filter (fun c => decide (src ≤ c.1)) := by
      rw [List.filter_filter]
    have hs := Memory.sortedFrom_tail _ (Memory.wf_filter h (fun x => decide (x < src + n))) src
    have := Memory.get_shift src dst (a := c - dst + src) hs (Nat.le_refl src) (by omega)
    rw [hf]
    have e : c - dst + src - src + dst = c := by omega
    rw [e] at this
    rw [this, Memory.get_filter (fun x => decide (src ≤ x)) _ (Memory.wf_filter h (fun x => decide (x < src + n))),
      Memory.get_filter (fun x => decide (x < src + n)) _ h]
    have c1 : src ≤ c - dst + src := by omega
    have c2 : c - dst + src < src + n := by omega
    simp [c1, c2]

end Sys2Proof.Machine
end

