-- ==== Sys2Proof/Laws/Keeps.lean ====
section
/-!
SUPPORT. What no shared operation does: it never touches the queue of waiting commands, and it keeps memory and the stored
firmware images in their canonical form. One lemma
per operation, `<operation>_keeps`, from the same of the state it is given.
-/

namespace Sys2Proof.Machine

set_option linter.unusedTactic false
set_option linter.unreachableTactic false
set_option linter.unusedVariables false

/-- A queue, a memory and stored images that come from the state `s` by operations that leave the queue of waiting commands alone and keep the
canonical form of the rest. -/
def Keeps (s : State) (p : List Instr) (m : Memory) (w : Firmware) (r : Option RecSession) : Prop :=
  p = s.pending ∧ (MemInv s → Memory.wf m = true) ∧ (ImagesInv s → imagesWf w r = true)

theorem Keeps.refl (s : State) : Keeps s s.pending s.mem s.fw s.recSession := ⟨rfl, id, id⟩

theorem Keeps.mem {s : State} {p : List Instr} {w : Firmware} {r : Option RecSession} {m m' : Memory}
    (f : Memory.wf m = true → Memory.wf m' = true) (h : Keeps s p m w r) : Keeps s p m' w r :=
  ⟨h.1, fun i => f (h.2.1 i), h.2.2⟩

theorem Keeps.images {s : State} {p : List Instr} {w w' : Firmware} {r r' : Option RecSession} {m : Memory}
    (f : imagesWf w r = true → imagesWf w' r' = true) (h : Keeps s p m w r) : Keeps s p m w' r' :=
  ⟨h.1, h.2.1, fun i => f (h.2.2 i)⟩

theorem Keeps.set {s : State} {p : List Instr} {w : Firmware} {r : Option RecSession} {m : Memory} {a : Nat} {v : Byte}
    (h : Keeps s p m w r) : Keeps s p (Memory.set m a v) w r :=
  h.mem (fun w => Memory.wf_set w a v)

theorem Keeps.setBytes {s : State} {p : List Instr} {w : Firmware} {r : Option RecSession} {m : Memory} {a : Nat} {bs : Bytes}
    (h : Keeps s p m w r) : Keeps s p (Memory.setBytes m a bs) w r :=
  h.mem (fun w => Memory.wf_setBytes w a bs)

theorem Keeps.erase {s : State} {p : List Instr} {w : Firmware} {r : Option RecSession} {m : Memory} {a n : Nat} (h : Keeps s p m w r) : Keeps s p
    (Memory.erase m a n) w r :=
  h.mem (fun w => Memory.wf_erase w a n)

theorem Keeps.copy {s : State} {p : List Instr} {w : Firmware} {r : Option RecSession} {m : Memory} {a b n : Nat}
    (h : Keeps s p m w r) : Keeps s p (Memory.copy m a b n) w r :=
  h.mem (fun w => Memory.wf_copy w a b n)

theorem Keeps.nil {s : State} {p : List Instr} {w : Firmware} {r : Option RecSession} {m : Memory}
    (h : Keeps s p m w r) : Keeps s p [] w r := h.mem (fun _ => rfl)

theorem Keeps.foldMem {α : Type} {s : State} {p : List Instr} {w : Firmware} {r : Option RecSession} {f : Memory → α → Memory} (hf :
    ∀ m x, Keeps s p m w r → Keeps s p (f m x) w r) :
    ∀ (l : List α) {m : Memory}, Keeps s p m w r → Keeps s p (l.foldl f m) w r
  | [], _, h => h
  | x :: r, _, h => Keeps.foldMem hf r (hf _ x h)

theorem Keeps.foldl {α : Type} {s0 : State} {f : State → α → State}
    (hf : ∀ s x, Keeps s0 s.pending s.mem s.fw s.recSession → Keeps s0 (f s x).pending (f s x).mem (f s x).fw (f s x).recSession) :
    ∀ (l : List α) {s : State}, Keeps s0 s.pending s.mem s.fw s.recSession → Keeps s0 (l.foldl f s).pending (l.foldl f s).mem (l.foldl f s).fw
    (l.foldl f s).recSession
  | [], _, h => h
  | x :: r, _, h => Keeps.foldl hf r (hf _ x h)

/-- The same of a result that may be an error, an absent state, or a state with a second part. -/
def KeepsX (s0 : State) (r : X State) : Prop := ∀ t, r = .ok t → Keeps s0 t.pending t.mem t.fw t.recSession
def KeepsO (s0 : State) (r : Option State) : Prop := ∀ t, r = some t → Keeps s0 t.pending t.mem t.fw t.recSession
def KeepsP {β : Type} (s0 : State) (r : State × β) : Prop := Keeps s0 r.1.pending r.1.mem r.1.fw r.1.recSession
def KeepsQ {β : Type} (s0 : State) (r : Option (State × β)) : Prop := ∀ t b, r = some (t, b) → Keeps s0 t.pending t.mem t.fw t.recSession
def KeepsY {β : Type} (s0 : State) (r : X (State × β)) : Prop := ∀ t b, r = .ok (t, b) → Keeps s0 t.pending t.mem t.fw t.recSession
def KeepsR (s0 : State) (r : Res) : Prop := ∀ t, r = .next t → Keeps s0 t.pending t.mem t.fw t.recSession

theorem KeepsX.elim {s0 t : State} {r : X State} (k : KeepsX s0 r) (e : r = .ok t) : Keeps s0 t.pending t.mem t.fw t.recSession := k t e
theorem KeepsO.elim {s0 t : State} {r : Option State} (k : KeepsO s0 r) (e : r = some t) : Keeps s0 t.pending t.mem t.fw t.recSession := k t e
theorem KeepsP.elim {β : Type} {s0 t : State} {b : β} {r : State × β} (k : KeepsP s0 r) (e : r =
    (t, b)) : Keeps s0 t.pending t.mem t.fw t.recSession := by
  subst e; exact k
theorem KeepsQ.elim {β : Type} {s0 t : State} {b : β} {r : Option (State × β)} (k : KeepsQ s0 r) (e : r = some (t, b)) :
    Keeps s0 t.pending t.mem t.fw t.recSession := k t b e
theorem KeepsY.elim {β : Type} {s0 t : State} {b : β} {r : X (State × β)} (k : KeepsY s0 r) (e : r = .ok (t, b)) :
    Keeps s0 t.pending t.mem t.fw t.recSession := k t b e

theorem KeepsX.ok {s0 s : State} (h : Keeps s0 s.pending s.mem s.fw s.recSession) : KeepsX s0 (.ok s) := fun _ e => by cases e; exact h
theorem KeepsX.error {s0 : State} {e : CFault} : KeepsX s0 (.error e) := fun _ e => by cases e
theorem KeepsO.some {s0 s : State} (h : Keeps s0 s.pending s.mem s.fw s.recSession) : KeepsO s0 (.some s) := fun _ e => by cases e; exact h
theorem KeepsO.none {s0 : State} : KeepsO s0 .none := fun _ e => by cases e
theorem KeepsP.mk {β : Type} {s0 s : State} {b : β} (h : Keeps s0 s.pending s.mem s.fw s.recSession) : KeepsP s0 (s, b) := h
theorem KeepsQ.some {β : Type} {s0 s : State} {b : β} (h : Keeps s0 s.pending s.mem s.fw s.recSession) : KeepsQ s0 (.some
    (s, b)) := fun _ _ e => by cases e; exact h
theorem KeepsQ.none {β : Type} {s0 : State} : KeepsQ s0 (.none : Option (State × β)) := fun _ _ e => by cases e
theorem KeepsY.ok {β : Type} {s0 s : State} {b : β} (h : Keeps s0 s.pending s.mem s.fw s.recSession) : KeepsY s0 (.ok
    (s, b)) := fun _ _ e => by cases e; exact h
theorem KeepsY.error {β : Type} {s0 : State} {e : CFault} : KeepsY s0 (.error e : X (State × β)) := fun _ _ e => by cases e
theorem KeepsR.next {s0 s : State} (h : Keeps s0 s.pending s.mem s.fw s.recSession) : KeepsR s0 (.next s) := fun _ e => by cases e; exact h

theorem KeepsX.foldE {α : Type} {s0 : State} {f : State → α → X State} (hf : ∀ s x, Keeps s0 s.pending s.mem s.fw s.recSession → KeepsX s0 (f s x)) :
    ∀ (l : List α) {s : State}, Keeps s0 s.pending s.mem s.fw s.recSession → KeepsX s0 (foldE f s l)
  | [], _, h => KeepsX.ok h
  | x :: r, s, h => by
    simp only [Machine.foldE]
    split
    · rename_i s' h'; exact KeepsX.foldE hf r ((hf _ _ h).elim h')
    · exact KeepsX.error

theorem Keeps.getD {s0 s : State} {o : Option State} (k : KeepsO s0 o) (h : Keeps s0 s.pending s.mem s.fw s.recSession) :
    Keeps s0 (o.getD s).pending (o.getD s).mem (o.getD s).fw (o.getD s).recSession := by
  cases o with
  | none => exact h
  | some t => exact k t rfl

theorem KeepsP.fst {β : Type} {s0 : State} {r : State × β} (k : KeepsP s0 r) : Keeps s0 r.1.pending r.1.mem r.1.fw r.1.recSession := k

theorem KeepsP.foldl {α β : Type} {s0 : State} {f : State × β → α → State × β} (hf : ∀ p x, KeepsP s0 p → KeepsP s0 (f p x)) :
    ∀ (l : List α) {p : State × β}, KeepsP s0 p → KeepsP s0 (l.foldl f p)
  | [], _, h => h
  | x :: r, _, h => KeepsP.foldl hf r (hf _ x h)

theorem KeepsY.foldE {α β : Type} {s0 : State} {f : State × β → α → X (State × β)} (hf : ∀ p x, KeepsP s0 p → KeepsY s0 (f p x)) :
    ∀ (l : List α) {p : State × β}, KeepsP s0 p → KeepsY s0 (foldE f p l)
  | [], p, h => KeepsY.ok h
  | x :: r, p, h => by
    simp only [Machine.foldE]
    split
    · rename_i p' h'; exact KeepsY.foldE hf r ((hf _ _ h).elim h')
    · exact KeepsY.error

theorem KeepsP.of {β : Type} {s0 : State} {p : State × β} (h : Keeps s0 p.1.pending p.1.mem p.1.fw p.1.recSession) : KeepsP s0 p := h

/-- What the effect of an instruction hands on. -/
def KeepsE (s0 : State) : Eff → Prop
  | .go s _ | .jump s _ | .stop s _ => Keeps s0 s.pending s.mem s.fw s.recSession

theorem KeepsE.go {s0 s : State} {r : Run} (h : Keeps s0 s.pending s.mem s.fw s.recSession) : KeepsE s0 (.go s r) := h
theorem KeepsE.jump {s0 s : State} {r : Run} (h : Keeps s0 s.pending s.mem s.fw s.recSession) : KeepsE s0 (.jump s r) := h
theorem KeepsE.stop {s0 s : State} {f : CFault} (h : Keeps s0 s.pending s.mem s.fw s.recSession) : KeepsE s0 (.stop s f) := h
theorem KeepsE.tryX {α : Type} {s0 s : State} {x : X α} {k : α → Eff} (h : Keeps s0 s.pending s.mem s.fw s.recSession) (hk :
    ∀ a, x = .ok a → KeepsE s0 (k a)) :
    KeepsE s0 (tryX s x k) := by
  unfold Machine.tryX
  split
  · exact hk _ rfl
  · exact KeepsE.stop h
theorem KeepsE.check {s0 s : State} {b : Bool} {f : CFault} {k : Unit → Eff} (h : Keeps s0 s.pending s.mem s.fw s.recSession) (hk : ∀ u, KeepsE s0
    (k u)) :
    KeepsE s0 (check s b f k) := by
  unfold Machine.check
  split
  · exact hk _
  · exact KeepsE.stop h
theorem KeepsE.finishWrites {s0 : State} {p : State × Option CFault} {cn : Nat} {ws : List WItem} {r : Run} (h : KeepsP s0 p) :
    KeepsE s0 (finishWrites p cn ws r) := by
  unfold Machine.finishWrites
  split
  · exact KeepsE.stop h
  · exact KeepsE.go h

theorem sortedFrom_entries (p : Nat) : ∀ n i lo, lo ≤ p + 8 * i + 4 →
    Memory.sortedFrom lo ((rangeFrom i n).map (fun i => (p + 8 * i + 4, (0x7F : Byte)))) = true
  | 0, _, _, _ => rfl
  | n + 1, i, lo, h => by
    simp only [rangeFrom, List.map_cons, Memory.sortedFrom, Bool.and_eq_true, decide_eq_true_eq]
    refine ⟨⟨h, by decide⟩, sortedFrom_entries p n (i + 1) _ (by omega)⟩

theorem initPage0_keeps {s0 : State} {l : List Instr} {m : Memory} {w : Firmware} {r : Option RecSession} {p : Nat} (h : Keeps s0 l m w r) :
    Keeps s0 l (initPage0 m p) w r := by
  unfold initPage0
  refine Keeps.foldMem (fun _ _ h => Keeps.setBytes h) _ (h.mem (fun w => Memory.wf_setBlock w ⟨?_, ?_⟩))
  · exact sortedFrom_entries p 4096 0 p (by omega)
  · intro c hc
    obtain ⟨i, hi, rfl⟩ := List.mem_map.1 hc
    have : i < 4096 := by simpa using (mem_rangeFrom.1 hi).2
    simp only [pageSize]
    omega

theorem KeepsX.map {s0 : State} {r : X State} {f : State → State} (k : KeepsX s0 r)
    (hf : ∀ s, Keeps s0 s.pending s.mem s.fw s.recSession → Keeps s0 (f s).pending (f s).mem (f s).fw (f s).recSession) : KeepsX s0
    (Except.map f r) := by
  intro t e
  cases r with
  | error x => cases e
  | ok s => cases e; exact hf s (k s rfl)

theorem imagesWf_iff {w : Firmware} {r : Option RecSession} : imagesWf w r = true ↔
    Memory.wf w.flash = true ∧ Memory.wf w.runBlock = true ∧ Memory.wf w.staged = true ∧ ∀ x, r = some x → Memory.wf x.image = true := by
  simp only [imagesWf, Bool.and_eq_true, Option.all_eq_true, and_assoc]

theorem State.setRun_keeps {s0 s : State} {a1 : UnitId} {a2 : Run} (h : Keeps s0 s.pending s.mem s.fw s.recSession) : Keeps s0 (State.setRun s a1
    a2).pending (State.setRun s a1 a2).mem (State.setRun s a1 a2).fw (State.setRun s a1 a2).recSession := by
  unfold State.setRun
  repeat' (first | with_reducible assumption | dsimp only | split | intro _)

theorem State.dropUnit_keeps {s0 s : State} {a1 : Nat} (h : Keeps s0 s.pending s.mem s.fw s.recSession) : Keeps s0 (State.dropUnit s a1).pending
    (State.dropUnit s a1).mem (State.dropUnit s a1).fw (State.dropUnit s a1).recSession := by
  unfold State.dropUnit
  repeat' (first | with_reducible assumption | dsimp only | split | intro _)

theorem State.freeUnit_keeps {s0 s : State} {a1 : UnitId} (h : Keeps s0 s.pending s.mem s.fw s.recSession) : Keeps s0 (State.freeUnit s a1).pending
    (State.freeUnit s a1).mem (State.freeUnit s a1).fw (State.freeUnit s a1).recSession := by
  unfold State.freeUnit
  repeat' (first | with_reducible assumption | with_reducible apply State.dropUnit_keeps | dsimp only | split | intro _)

theorem State.setCtx_keeps {s0 s : State} {a1 : Nat} {a2 : Ctx} (h : Keeps s0 s.pending s.mem s.fw s.recSession) : Keeps s0 (State.setCtx s a1
    a2).pending (State.setCtx s a1 a2).mem (State.setCtx s a1 a2).fw (State.setCtx s a1 a2).recSession := by
  unfold State.setCtx
  repeat' (first | with_reducible assumption | dsimp only | split | intro _)

theorem State.modCtx_keeps {s0 s : State} {a1 : Nat} {a2 : Ctx → Ctx} (h : Keeps s0 s.pending s.mem s.fw s.recSession) : Keeps s0 (State.modCtx s a1
    a2).pending (State.modCtx s a1 a2).mem (State.modCtx s a1 a2).fw (State.modCtx s a1 a2).recSession := by
  unfold State.modCtx
  repeat' (first | with_reducible assumption | dsimp only | split | intro _)

theorem State.setHost_keeps {s0 s : State} {a1 : Nat} {a2 : HostRec} (h : Keeps s0 s.pending s.mem s.fw s.recSession) : Keeps s0 (State.setHost s a1
    a2).pending (State.setHost s a1 a2).mem (State.setHost s a1 a2).fw (State.setHost s a1 a2).recSession := by
  unfold State.setHost
  repeat' (first | with_reducible assumption | dsimp only | split | intro _)

theorem State.emit_keeps {s0 s : State} {a1 : Out} (h : Keeps s0 s.pending s.mem s.fw s.recSession) : Keeps s0 (State.emit s a1).pending (State.emit s
    a1).mem (State.emit s a1).fw (State.emit s a1).recSession := by
  unfold State.emit
  repeat' (first | with_reducible assumption | dsimp only | split | intro _)

theorem State.tick_keeps {s0 s : State} (h : Keeps s0 s.pending s.mem s.fw s.recSession) : Keeps s0 (State.tick s).pending (State.tick s).mem
    (State.tick s).fw (State.tick s).recSession := by
  unfold State.tick
  repeat' (first | with_reducible assumption | dsimp only | split | intro _)

theorem State.modRun_keeps {s0 s : State} {a1 : UnitId} {a2 : Run → Run} (h : Keeps s0 s.pending s.mem s.fw s.recSession) : Keeps s0 (State.modRun s
    a1 a2).pending (State.modRun s a1 a2).mem (State.modRun s a1 a2).fw (State.modRun s a1 a2).recSession := by
  unfold State.modRun
  repeat' (first | with_reducible assumption | dsimp only | split | intro _)

theorem State.log_keeps {s0 s : State} {a1 : Nat} {a2 : Nat} {a3 : Nat} {a4 : Nat} (h : Keeps s0 s.pending s.mem s.fw s.recSession) : Keeps s0
    (State.log s a1 a2 a3 a4).pending (State.log s a1 a2 a3 a4).mem (State.log s a1 a2 a3 a4).fw (State.log s a1 a2 a3 a4).recSession := by
  unfold State.log
  repeat' (first | with_reducible assumption | dsimp only | split | intro _)

theorem State.logMgmt_keeps {s0 s : State} {a1 : Nat} {a2 : Nat} {a3 : Nat} {a4 : Nat} {a5 : Nat} (h : Keeps s0 s.pending s.mem s.fw s.recSession) :
    Keeps s0 (State.logMgmt s a1 a2 a3 a4 a5).pending (State.logMgmt s a1 a2 a3 a4 a5).mem (State.logMgmt s a1 a2 a3 a4 a5).fw (State.logMgmt s a1 a2
    a3 a4 a5).recSession := by
  unfold State.logMgmt
  repeat' (first | with_reducible assumption | with_reducible apply State.log_keeps | dsimp only | split | intro _)

theorem State.logRec_keeps {s0 s : State} {a1 : Nat} {a2 : Nat} {a3 : Nat} {a4 : Nat} {a5 : Nat} {a6 : Nat} {a7 : Nat} {a8 : Nat} {a9 : Nat} {a10 :
    Nat} (h : Keeps s0 s.pending s.mem s.fw s.recSession) : Keeps s0 (State.logRec s a1 a2 a3 a4 a5 a6 a7 a8 a9 a10).pending (State.logRec s a1 a2 a3
    a4 a5 a6 a7 a8 a9 a10).mem (State.logRec s a1 a2 a3 a4 a5 a6 a7 a8 a9 a10).fw (State.logRec s a1 a2 a3 a4 a5 a6 a7 a8 a9 a10).recSession := by
  unfold State.logRec
  repeat' (first | with_reducible assumption | with_reducible apply State.log_keeps | dsimp only | split | intro _)

theorem modPort_keeps {s0 s : State} {a1 : Nat} {a2 : PortRec → PortRec} (h : Keeps s0 s.pending s.mem s.fw s.recSession) : Keeps s0 (modPort s a1
    a2).pending (modPort s a1 a2).mem (modPort s a1 a2).fw (modPort s a1 a2).recSession := by
  unfold modPort
  repeat' (first | with_reducible assumption | dsimp only | split | intro _)

theorem State.sendItem_keeps {s0 s : State} {a1 : Nat} {a2 : TxItem} (h : Keeps s0 s.pending s.mem s.fw s.recSession) : Keeps s0 (State.sendItem s a1
    a2).pending (State.sendItem s a1 a2).mem (State.sendItem s a1 a2).fw (State.sendItem s a1 a2).recSession := by
  unfold State.sendItem
  repeat' (first | with_reducible assumption | with_reducible apply modPort_keeps | with_reducible apply State.emit_keeps | dsimp only |
                  split | intro _)

theorem State.toHost_keeps {s0 s : State} {a1 : Nat} {a2 : Option Nat} {a3 : Option CqRec} {a4 : Out} (h : Keeps s0 s.pending s.mem s.fw s.recSession)
    : Keeps s0 (State.toHost s a1 a2 a3 a4).pending (State.toHost s a1 a2 a3 a4).mem (State.toHost s a1 a2 a3 a4).fw (State.toHost s a1 a2 a3
    a4).recSession := by
  unfold State.toHost
  repeat' (first | with_reducible assumption | with_reducible apply State.sendItem_keeps | dsimp only | split | intro _)

theorem clearBadLines_keeps {s0 s : State} {a1 : Nat} {a2 : Nat} {a3 : Nat} (h : Keeps s0 s.pending s.mem s.fw s.recSession) : Keeps s0 (clearBadLines
    s a1 a2 a3).pending (clearBadLines s a1 a2 a3).mem (clearBadLines s a1 a2 a3).fw (clearBadLines s a1 a2 a3).recSession := by
  unfold clearBadLines
  repeat' (first | with_reducible assumption | with_reducible apply State.modCtx_keeps | dsimp only | split | intro _)

theorem foulBytes_keeps {s0 s : State} {a1 : Nat} {a2 : Nat} {a3 : Nat} (h : Keeps s0 s.pending s.mem s.fw s.recSession) : Keeps s0 (foulBytes s a1 a2
    a3).pending (foulBytes s a1 a2 a3).mem (foulBytes s a1 a2 a3).fw (foulBytes s a1 a2 a3).recSession := by
  unfold foulBytes
  repeat' (first | with_reducible assumption | with_reducible apply State.modCtx_keeps | dsimp only | split | intro _)

theorem fwWrite_keeps {s0 s : State} {a1 : Nat} {a2 : Nat} {a3 : Bytes} (h : Keeps s0 s.pending s.mem s.fw s.recSession) : Keeps s0 (fwWrite s a1 a2
    a3).pending (fwWrite s a1 a2 a3).mem (fwWrite s a1 a2 a3).fw (fwWrite s a1 a2 a3).recSession := by
  unfold fwWrite
  repeat' (first | with_reducible assumption | with_reducible apply Keeps.foldl | with_reducible apply KeepsP.foldl |
                  with_reducible refine KeepsP.fst (KeepsP.foldl ?_ _ ?_) | with_reducible apply Keeps.foldMem |
                  with_reducible apply Keeps.set | with_reducible apply Keeps.setBytes | with_reducible apply Keeps.erase |
                  with_reducible apply Keeps.copy | with_reducible apply Keeps.nil | dsimp only | split | intro _)

theorem freePage_keeps {s0 s : State} {a1 : Nat} {a2 : Nat} (h : Keeps s0 s.pending s.mem s.fw s.recSession) : Keeps s0 (freePage s a1 a2).pending
    (freePage s a1 a2).mem (freePage s a1 a2).fw (freePage s a1 a2).recSession := by
  unfold freePage
  repeat' (first | with_reducible assumption | with_reducible apply fwWrite_keeps | with_reducible apply State.tick_keeps | dsimp only |
                  split | intro _)

theorem hostWrite_keeps {s0 s : State} {a1 : Nat} {a2 : Nat} {a3 : Bytes} (h : Keeps s0 s.pending s.mem s.fw s.recSession) : Keeps s0 (hostWrite s a1
    a2 a3).pending (hostWrite s a1 a2 a3).mem (hostWrite s a1 a2 a3).fw (hostWrite s a1 a2 a3).recSession := by
  unfold hostWrite
  repeat' (first | with_reducible assumption | with_reducible apply clearBadLines_keeps | with_reducible apply foulBytes_keeps |
                  with_reducible apply fwWrite_keeps | with_reducible apply freePage_keeps | with_reducible apply State.modCtx_keeps |
                  with_reducible apply Keeps.foldl | with_reducible apply KeepsP.foldl |
                  with_reducible refine KeepsP.fst (KeepsP.foldl ?_ _ ?_) | dsimp only | split | intro _)

theorem writeRec_keeps {s0 s : State} {a1 : Nat} {a2 : Ctx} {a3 : CqRec} (h : Keeps s0 s.pending s.mem s.fw s.recSession) : Keeps s0 (writeRec s a1 a2
    a3).pending (writeRec s a1 a2 a3).mem (writeRec s a1 a2 a3).fw (writeRec s a1 a2 a3).recSession := by
  unfold writeRec
  repeat' (first | with_reducible assumption | with_reducible apply hostWrite_keeps | with_reducible apply State.toHost_keeps |
                  with_reducible apply State.setCtx_keeps | with_reducible apply Keeps.getD | dsimp only | split | intro _)

theorem dropTx_keeps {s0 s : State} {a1 : TxItem → Bool} (h : Keeps s0 s.pending s.mem s.fw s.recSession) : Keeps s0 (dropTx s a1).pending (dropTx s
    a1).mem (dropTx s a1).fw (dropTx s a1).recSession := by
  unfold dropTx
  repeat' (first | with_reducible assumption | dsimp only | split | intro _)

theorem drainRecs_keeps {s0 : State} {a2 : Nat} : ∀ {n : Nat} {s : State}, Keeps s0 s.pending s.mem s.fw s.recSession →
    Keeps s0 (drainRecs n s a2).pending (drainRecs n s a2).mem (drainRecs n s a2).fw (drainRecs n s a2).recSession
  | 0, _, h => h
  | n + 1, s, h => by
    unfold drainRecs
    repeat' (first | with_reducible exact h | exact drainRecs_keeps (writeRec_keeps h) | exact State.setCtx_keeps h | split)

theorem post_keeps {s0 s : State} {a1 : Nat} {a2 : Nat} (h : Keeps s0 s.pending s.mem s.fw s.recSession) : Keeps s0 (post s a1 a2).pending (post s a1
    a2).mem (post s a1 a2).fw (post s a1 a2).recSession := by
  unfold post
  repeat' (first | with_reducible assumption | with_reducible apply drainRecs_keeps | with_reducible apply State.setCtx_keeps | dsimp only |
                  split | intro _)

theorem releasePage_keeps {s0 s : State} {a1 : Nat} (h : Keeps s0 s.pending s.mem s.fw s.recSession) : Keeps s0 (releasePage s a1).pending
    (releasePage s a1).mem (releasePage s a1).fw (releasePage s a1).recSession := by
  unfold releasePage
  repeat' (first | with_reducible assumption | dsimp only | split | intro _)

theorem recyclePage_keeps {s0 s : State} {a1 : Nat} (h : Keeps s0 s.pending s.mem s.fw s.recSession) : Keeps s0 (recyclePage s a1).pending
    (recyclePage s a1).mem (recyclePage s a1).fw (recyclePage s a1).recSession := by
  unfold recyclePage
  repeat' (first | with_reducible assumption | with_reducible apply Keeps.foldMem | with_reducible apply Keeps.set |
                  with_reducible apply Keeps.setBytes | with_reducible apply Keeps.erase | with_reducible apply Keeps.copy |
                  with_reducible apply Keeps.nil | dsimp only | split | intro _)

theorem takePage_keeps {s0 s : State} {a1 : Bool} (h : Keeps s0 s.pending s.mem s.fw s.recSession) : ∀ {l : List Nat}, KeepsQ s0 (takePage s a1 l)
  | [] => KeepsQ.none
  | d :: r => by
    unfold takePage
    dsimp only
    split
    · exact takePage_keeps h
    · apply KeepsQ.some
      split <;> exact h

theorem makeShadow_keeps {s0 s : State} {a1 : Nat} {a2 : Nat} (h : Keeps s0 s.pending s.mem s.fw s.recSession) : KeepsX s0 (makeShadow s a1 a2) := by
  unfold makeShadow
  repeat' (first | with_reducible assumption | with_reducible apply takePage_keeps | with_reducible apply State.setCtx_keeps |
                  with_reducible apply Keeps.foldMem | with_reducible apply Keeps.set | with_reducible apply Keeps.setBytes |
                  with_reducible apply Keeps.erase | with_reducible apply Keeps.copy | with_reducible apply Keeps.nil |
                  with_reducible apply KeepsX.ok | with_reducible exact KeepsX.error | with_reducible apply KeepsQ.some |
                  with_reducible exact KeepsQ.none | dsimp only | split | with_reducible refine KeepsX.elim ?_ (by assumption) |
                  with_reducible refine KeepsQ.elim ?_ (by assumption) | intro _)

theorem prepareWrite_keeps {s0 s : State} {a1 : Nat} {a2 : Nat} {a3 : Nat} {a4 : Bool} (h : Keeps s0 s.pending s.mem s.fw s.recSession) : KeepsX s0
    (prepareWrite s a1 a2 a3 a4) := by
  unfold prepareWrite
  repeat' (first | with_reducible assumption | with_reducible apply makeShadow_keeps | with_reducible apply KeepsX.foldE |
                  with_reducible apply KeepsY.foldE | with_reducible apply KeepsX.ok | with_reducible exact KeepsX.error | dsimp only |
                  split | with_reducible refine KeepsX.elim ?_ (by assumption) | intro _)

theorem putByte_keeps {s0 s : State} {a1 : Nat} {a2 : Nat} {a3 : Byte} (h : Keeps s0 s.pending s.mem s.fw s.recSession) : KeepsX s0 (putByte s a1 a2
    a3) := by
  unfold putByte
  repeat' (first | with_reducible assumption | with_reducible apply Keeps.foldMem | with_reducible apply Keeps.set |
                  with_reducible apply Keeps.setBytes | with_reducible apply Keeps.erase | with_reducible apply Keeps.copy |
                  with_reducible apply Keeps.nil | with_reducible apply KeepsX.ok | with_reducible exact KeepsX.error | dsimp only | split |
                  with_reducible refine KeepsX.elim ?_ (by assumption) | intro _)

theorem putBytes_keeps {s0 : State} {cn : Nat} : ∀ {bs : Bytes} {s : State} {va : Nat}, Keeps s0 s.pending s.mem s.fw s.recSession → KeepsX s0
    (putBytes s cn va bs)
  | [], _, _, h => KeepsX.ok h
  | v :: r, s, va, h => by
    unfold putBytes
    split
    · rename_i s' h'; exact putBytes_keeps ((putByte_keeps h).elim h')
    · exact KeepsX.error

theorem devWrite_keeps {s0 s : State} {a1 : Nat} {a2 : Nat} {a3 : Bytes} (h : Keeps s0 s.pending s.mem s.fw s.recSession) : KeepsX s0 (devWrite s a1
    a2 a3) := by
  unfold devWrite
  repeat' (first | with_reducible assumption | with_reducible apply fwWrite_keeps | with_reducible apply KeepsX.ok |
                  with_reducible exact KeepsX.error | dsimp only | split | with_reducible refine KeepsX.elim ?_ (by assumption) | intro _)

theorem taskWrite_keeps {s0 s : State} {a1 : Nat} {a2 : Nat} {a3 : Bytes} (h : Keeps s0 s.pending s.mem s.fw s.recSession) : KeepsX s0 (taskWrite s a1
    a2 a3) := by
  unfold taskWrite
  repeat' (first | with_reducible assumption | with_reducible apply prepareWrite_keeps | with_reducible apply putBytes_keeps |
                  with_reducible apply clearBadLines_keeps | with_reducible apply KeepsX.ok | with_reducible exact KeepsX.error |
                  dsimp only | split | with_reducible refine KeepsX.elim ?_ (by assumption) | intro _)

theorem countedWrite_keeps {s0 s : State} {a1 : Nat} {a2 : Nat} {a3 : Bytes} (h : Keeps s0 s.pending s.mem s.fw s.recSession) : KeepsX s0
    (countedWrite s a1 a2 a3) := by
  unfold countedWrite
  repeat' (first | with_reducible assumption | with_reducible apply prepareWrite_keeps | with_reducible apply putBytes_keeps |
                  with_reducible apply clearBadLines_keeps | with_reducible apply KeepsX.ok | with_reducible exact KeepsX.error |
                  dsimp only | split | with_reducible refine KeepsX.elim ?_ (by assumption) | intro _)

theorem State.sendSquall_keeps {s0 s : State} {a1 : Squall} (h : Keeps s0 s.pending s.mem s.fw s.recSession) : Keeps s0 (State.sendSquall s
    a1).pending (State.sendSquall s a1).mem (State.sendSquall s a1).fw (State.sendSquall s a1).recSession := by
  unfold State.sendSquall
  repeat' (first | with_reducible assumption | with_reducible apply State.logRec_keeps | with_reducible apply Keeps.getD | dsimp only |
                  split | intro _)

theorem contextFault_keeps {s0 s : State} {a1 : Nat} {a2 : Nat} {a3 : CFault} {a4 : Bits32} {a5 : Bits32} {a6 : Bits32} {a7 : Bits32} (h : Keeps s0
    s.pending s.mem s.fw s.recSession) : Keeps s0 (contextFault s a1 a2 a3 a4 a5 a6 a7).pending (contextFault s a1 a2 a3 a4 a5 a6 a7).mem
    (contextFault s a1 a2 a3 a4 a5 a6 a7).fw (contextFault s a1 a2 a3 a4 a5 a6 a7).recSession := by
  unfold contextFault
  repeat' (first | with_reducible assumption | with_reducible apply post_keeps | with_reducible apply State.setCtx_keeps |
                  with_reducible apply State.logRec_keeps | with_reducible apply State.sendSquall_keeps | with_reducible apply Keeps.getD |
                  dsimp only | split | intro _)

theorem taskFault_keeps {s0 s : State} {a1 : Nat} {a2 : Nat} {a3 : CFault} {a4 : Nat} {a5 : Bits32} (h : Keeps s0 s.pending s.mem s.fw s.recSession) :
    Keeps s0 (taskFault s a1 a2 a3 a4 a5).pending (taskFault s a1 a2 a3 a4 a5).mem (taskFault s a1 a2 a3 a4 a5).fw (taskFault s a1 a2 a3 a4
    a5).recSession := by
  unfold taskFault
  repeat' (first | with_reducible assumption | with_reducible apply contextFault_keeps | dsimp only | split | intro _)

theorem unitFault_keeps {s0 s : State} {a1 : UnitId} {a2 : Run} {a3 : CFault} {a4 : Nat} (h : Keeps s0 s.pending s.mem s.fw s.recSession) : Keeps s0
    (unitFault s a1 a2 a3 a4).pending (unitFault s a1 a2 a3 a4).mem (unitFault s a1 a2 a3 a4).fw (unitFault s a1 a2 a3 a4).recSession := by
  unfold unitFault
  repeat' (first | with_reducible assumption | with_reducible apply taskFault_keeps | with_reducible apply State.freeUnit_keeps |
                  dsimp only | split | intro _)

theorem dataStrike_keeps {s0 s : State} {a1 : UnitId} {a2 : Nat × Word64 × Nat} (h : Keeps s0 s.pending s.mem s.fw s.recSession) : Keeps s0
    (dataStrike s a1 a2).pending (dataStrike s a1 a2).mem (dataStrike s a1 a2).fw (dataStrike s a1 a2).recSession := by
  unfold dataStrike
  repeat' (first | with_reducible assumption | dsimp only | split | intro _)

theorem unitStrike_keeps {s0 s : State} {a1 : UnitId} (h : Keeps s0 s.pending s.mem s.fw s.recSession) : Keeps s0 (unitStrike s a1).pending
    (unitStrike s a1).mem (unitStrike s a1).fw (unitStrike s a1).recSession := by
  unfold unitStrike
  repeat' (first | with_reducible assumption | dsimp only | split | intro _)

theorem stepDataError_keeps {s0 s : State} {a1 : UnitId} {a2 : Nat} (h : Keeps s0 s.pending s.mem s.fw s.recSession) : Keeps s0 (stepDataError s a1
    a2).pending (stepDataError s a1 a2).mem (stepDataError s a1 a2).fw (stepDataError s a1 a2).recSession := by
  unfold stepDataError
  repeat' (first | with_reducible assumption | with_reducible apply dataStrike_keeps | with_reducible apply State.sendSquall_keeps |
                  with_reducible apply Keeps.getD | dsimp only | split | intro _)

theorem stopChecked_keeps {s0 s : State} {a1 : UnitId} {a2 : Run} (h : Keeps s0 s.pending s.mem s.fw s.recSession) : Keeps s0 (stopChecked s a1
    a2).pending (stopChecked s a1 a2).mem (stopChecked s a1 a2).fw (stopChecked s a1 a2).recSession := by
  unfold stopChecked
  repeat' (first | with_reducible assumption | with_reducible apply stepDataError_keeps | with_reducible apply State.setRun_keeps |
                  dsimp only | split | intro _)

theorem moveRecord_keeps {s0 : State} {p : State × Nat} {cn : Nat} {r : Nat × Slot} (h : KeepsP s0 p) : KeepsY s0 (moveRecord p cn r) := by
  unfold moveRecord
  have h : Keeps s0 p.1.pending p.1.mem p.1.fw p.1.recSession := h
  dsimp only
  repeat' (first | exact KeepsY.error | exact KeepsY.ok h | split)
  all_goals
    rename_i h1 _ _ h2
    exact KeepsY.ok ((devWrite_keeps ((devWrite_keeps h).elim h1)).elim h2)

theorem compactPool_keeps {s0 s : State} {cn : Nat} (h : Keeps s0 s.pending s.mem s.fw s.recSession) : KeepsX s0 (compactPool s cn) := by
  unfold compactPool
  repeat' (first | exact KeepsX.error | split)
  rename_i h1
  exact KeepsX.ok (State.modCtx_keeps ((KeepsY.foldE (fun _ _ h => moveRecord_keeps h) _ (p := (s, 0)) h).elim h1))

theorem bumpCharge_keeps {s0 s : State} {a1 : Nat} {a2 : CIndex} {a3 : Nat} {a4 : Nat} (h : Keeps s0 s.pending s.mem s.fw s.recSession) : KeepsX s0
    (bumpCharge s a1 a2 a3 a4) := by
  unfold bumpCharge
  repeat' (first | with_reducible assumption | with_reducible apply devWrite_keeps | with_reducible apply State.modCtx_keeps |
                  with_reducible apply KeepsX.ok | with_reducible exact KeepsX.error | dsimp only | split |
                  with_reducible refine KeepsX.elim ?_ (by assumption) | intro _)

theorem placeLines_keeps {s0 s : State} {a1 : Nat} {a2 : Nat} (h : Keeps s0 s.pending s.mem s.fw s.recSession) : KeepsY s0 (placeLines s a1 a2) := by
  unfold placeLines
  repeat' (first | with_reducible assumption | with_reducible apply compactPool_keeps | with_reducible apply State.setCtx_keeps |
                  with_reducible apply KeepsX.ok | with_reducible exact KeepsX.error | with_reducible apply KeepsY.ok |
                  with_reducible exact KeepsY.error | dsimp only | split | with_reducible refine KeepsX.elim ?_ (by assumption) |
                  with_reducible refine KeepsY.elim ?_ (by assumption) | intro _)

theorem writeUnit_keeps {s0 s : State} {a1 : Nat} {a2 : TD} {a3 : Nat} {a4 : List (Nat × Bytes)} {a5 : Bool} (h : Keeps s0 s.pending s.mem s.fw
    s.recSession) : KeepsX s0 (writeUnit s a1 a2 a3 a4 a5) := by
  unfold writeUnit
  repeat' (first | with_reducible assumption | with_reducible apply devWrite_keeps | with_reducible apply placeLines_keeps |
                  with_reducible apply bumpCharge_keeps | with_reducible apply State.setCtx_keeps | with_reducible apply Keeps.getD |
                  with_reducible apply KeepsX.ok | with_reducible exact KeepsX.error | with_reducible apply KeepsY.ok |
                  with_reducible exact KeepsY.error | dsimp only | split | with_reducible refine KeepsX.elim ?_ (by assumption) |
                  with_reducible refine KeepsY.elim ?_ (by assumption) | intro _)

theorem commitUnits_keeps {s0 s : State} {a1 : Nat} {a2 : List (Nat × Nat × BitVec 512)} (h : Keeps s0 s.pending s.mem s.fw s.recSession) : KeepsX s0
    (commitUnits s a1 a2) := by
  unfold commitUnits
  repeat' (first | with_reducible assumption | with_reducible apply bumpCharge_keeps | with_reducible apply KeepsX.foldE |
                  with_reducible apply KeepsY.foldE | with_reducible apply KeepsX.ok | with_reducible exact KeepsX.error | dsimp only |
                  split | with_reducible refine KeepsX.elim ?_ (by assumption) | intro _)

theorem restoreUnits_keeps {s0 s : State} {a1 : Nat} {a2 : List (Nat × Nat × BitVec 512)} (h : Keeps s0 s.pending s.mem s.fw s.recSession) : KeepsX s0
    (restoreUnits s a1 a2) := by
  unfold restoreUnits
  repeat' (first | with_reducible assumption | with_reducible apply bumpCharge_keeps | with_reducible apply fwWrite_keeps |
                  with_reducible apply KeepsX.foldE | with_reducible apply KeepsY.foldE | with_reducible apply Keeps.getD |
                  with_reducible apply KeepsX.ok | with_reducible exact KeepsX.error | dsimp only | split |
                  with_reducible refine KeepsX.elim ?_ (by assumption) | intro _)

theorem plainWrites_keeps {s0 s : State} {a1 : Nat} {a2 : List WItem} (h : Keeps s0 s.pending s.mem s.fw s.recSession) : KeepsX s0 (plainWrites s a1
    a2) := by
  unfold plainWrites
  repeat' (first | with_reducible assumption | with_reducible apply taskWrite_keeps | with_reducible apply KeepsX.foldE |
                  with_reducible apply KeepsY.foldE | with_reducible apply KeepsX.ok | with_reducible exact KeepsX.error | dsimp only |
                  split | with_reducible refine KeepsX.elim ?_ (by assumption) | intro _)

theorem foulWrites_keeps {s0 s : State} {a1 : Nat} {a2 : List WItem} (h : Keeps s0 s.pending s.mem s.fw s.recSession) : Keeps s0 (foulWrites s a1
    a2).pending (foulWrites s a1 a2).mem (foulWrites s a1 a2).fw (foulWrites s a1 a2).recSession := by
  unfold foulWrites
  repeat' (first | with_reducible assumption | with_reducible apply foulBytes_keeps | with_reducible apply Keeps.foldl |
                  with_reducible apply KeepsP.foldl | with_reducible refine KeepsP.fst (KeepsP.foldl ?_ _ ?_) | dsimp only | split |
                  intro _)

theorem doWrites_keeps {s0 s : State} {a1 : Nat} {a2 : List WItem} (h : Keeps s0 s.pending s.mem s.fw s.recSession) : KeepsX s0 (doWrites s a1 a2) :=
    by
  unfold doWrites
  repeat' (first | with_reducible assumption | with_reducible apply plainWrites_keeps | with_reducible apply foulWrites_keeps |
                  with_reducible apply KeepsX.ok | with_reducible exact KeepsX.error | dsimp only | split |
                  with_reducible refine KeepsX.elim ?_ (by assumption) | intro _)

theorem drainStep_keeps {s0 : State} {cn : Nat} {banks : List Nat} {d : Drain} {tc : TD} {chain : Option (BitVec 512)} {a t : DrainRes} {b : Nat}
    (h : Keeps s0 a.s.pending a.s.mem a.s.fw a.s.recSession)
    (e : drainStep cn banks d tc chain a b = .ok t) : Keeps s0 t.s.pending t.s.mem t.s.fw t.s.recSession := by
  unfold drainStep at e
  split at e
  · cases e
  · split at e
    · cases e
    · dsimp only at e
      split at e
      · cases e
      · rename_i h'; cases e; exact (doWrites_keeps h).elim h'

theorem drainSteps_keeps {s0 : State} {cn : Nat} {banks : List Nat} {d : Drain} {tc : TD} {chain : Option (BitVec 512)} :
    ∀ (l : List Nat) {a t : DrainRes}, Keeps s0 a.s.pending a.s.mem a.s.fw a.s.recSession → foldE (drainStep cn banks d tc chain) a l = .ok t →
      Keeps s0 t.s.pending t.s.mem t.s.fw t.s.recSession
  | [], _, _, h, e => by cases e; exact h
  | x :: r, a, t, h, e => by
    simp only [foldE] at e
    split at e
    · rename_i a' h'; exact drainSteps_keeps r (drainStep_keeps h h') e
    · cases e

theorem someWrites_keeps {s0 s : State} {a1 : Nat} {a2 : List WItem} (h : Keeps s0 s.pending s.mem s.fw s.recSession) : Keeps s0 (someWrites s a1
    a2).pending (someWrites s a1 a2).mem (someWrites s a1 a2).fw (someWrites s a1 a2).recSession := by
  unfold someWrites
  repeat' (first | with_reducible assumption | with_reducible apply taskWrite_keeps | with_reducible apply State.tick_keeps |
                  with_reducible apply Keeps.foldl | with_reducible apply KeepsP.foldl |
                  with_reducible refine KeepsP.fst (KeepsP.foldl ?_ _ ?_) | with_reducible apply KeepsX.ok |
                  with_reducible exact KeepsX.error | dsimp only | split | with_reducible refine KeepsX.elim ?_ (by assumption) | intro _)

theorem storeUnits_keeps {s0 s : State} {a1 : Nat} {a2 : TD} {a3 : Bool} {a4 : List (Nat × List (Nat × Bytes))} (h : Keeps s0 s.pending s.mem s.fw
    s.recSession) : KeepsX s0 (storeUnits s a1 a2 a3 a4) := by
  unfold storeUnits
  repeat' (first | with_reducible assumption | with_reducible apply writeUnit_keeps | with_reducible apply KeepsX.foldE |
                  with_reducible apply KeepsY.foldE | with_reducible apply KeepsX.ok | with_reducible exact KeepsX.error | dsimp only |
                  split | with_reducible refine KeepsX.elim ?_ (by assumption) | intro _)

theorem someUnits_keeps {s0 s : State} {a1 : Nat} {a2 : TD} {a3 : Bool} {a4 : List (Nat × List (Nat × Bytes))} (h : Keeps s0 s.pending s.mem s.fw
    s.recSession) : Keeps s0 (someUnits s a1 a2 a3 a4).pending (someUnits s a1 a2 a3 a4).mem (someUnits s a1 a2 a3 a4).fw (someUnits s a1 a2 a3
    a4).recSession := by
  unfold someUnits
  repeat' (first | with_reducible assumption | with_reducible apply writeUnit_keeps | with_reducible apply State.tick_keeps |
                  with_reducible apply Keeps.foldl | with_reducible apply KeepsP.foldl |
                  with_reducible refine KeepsP.fst (KeepsP.foldl ?_ _ ?_) | with_reducible apply KeepsX.ok |
                  with_reducible exact KeepsX.error | dsimp only | split | with_reducible refine KeepsX.elim ?_ (by assumption) | intro _)

theorem storeAll_keeps {s0 s : State} {a1 : Nat} {a2 : TD} {a3 : Bool} {a4 : List WItem} (h : Keeps s0 s.pending s.mem s.fw s.recSession) : KeepsP s0
    (storeAll s a1 a2 a3 a4) := by
  unfold storeAll
  repeat' (first | with_reducible assumption | with_reducible apply doWrites_keeps | with_reducible apply someWrites_keeps |
                  with_reducible apply someUnits_keeps | with_reducible apply storeUnits_keeps | with_reducible apply KeepsP.mk |
                  with_reducible apply KeepsX.ok | with_reducible exact KeepsX.error | dsimp only | split |
                  with_reducible refine KeepsX.elim ?_ (by assumption) | with_reducible refine KeepsP.elim ?_ (by assumption) | intro _)

theorem runWrites_keeps {s0 s : State} {a1 : Nat} {a2 : TD} {a3 : Bool} {a4 : List WItem} (h : Keeps s0 s.pending s.mem s.fw s.recSession) : KeepsP s0
    (runWrites s a1 a2 a3 a4) := by
  unfold runWrites
  repeat' (first | with_reducible assumption | with_reducible apply storeAll_keeps | with_reducible apply State.tick_keeps |
                  with_reducible refine KeepsP.fst (storeAll_keeps ?_) | with_reducible apply KeepsP.mk | dsimp only | split |
                  with_reducible refine KeepsP.elim ?_ (by assumption) | intro _)

theorem runBytes_keeps {s0 s : State} {a1 : Nat} {a2 : List WItem} (h : Keeps s0 s.pending s.mem s.fw s.recSession) : KeepsP s0 (runBytes s a1 a2) :=
    by
  unfold runBytes
  repeat' (first | with_reducible assumption | with_reducible apply doWrites_keeps | with_reducible apply someWrites_keeps |
                  with_reducible apply KeepsP.mk | with_reducible apply KeepsX.ok | with_reducible exact KeepsX.error | dsimp only | split |
                  with_reducible refine KeepsX.elim ?_ (by assumption) | with_reducible refine KeepsP.elim ?_ (by assumption) | intro _)

theorem prepareAll_keeps {s0 s : State} {a1 : Nat} {a2 : List WItem} (h : Keeps s0 s.pending s.mem s.fw s.recSession) : KeepsX s0 (prepareAll s a1 a2)
    := by
  unfold prepareAll
  repeat' (first | with_reducible assumption | with_reducible apply prepareWrite_keeps | with_reducible apply KeepsX.foldE |
                  with_reducible apply KeepsY.foldE | with_reducible apply KeepsX.ok | with_reducible exact KeepsX.error | dsimp only |
                  split | with_reducible refine KeepsX.elim ?_ (by assumption) | intro _)

theorem gatherAmax_keeps {s0 s : State} {a1 : Nat} {a2 : Nat} {a3 : Bits32} {a4 : Fmt} (h : Keeps s0 s.pending s.mem s.fw s.recSession) : KeepsX s0
    (gatherAmax s a1 a2 a3 a4) := by
  unfold gatherAmax
  repeat' (first | with_reducible assumption | with_reducible apply taskWrite_keeps | with_reducible apply State.modCtx_keeps |
                  with_reducible apply KeepsX.ok | with_reducible exact KeepsX.error | dsimp only | split |
                  with_reducible refine KeepsX.elim ?_ (by assumption) | intro _)

theorem settle_keeps {s0 : State} {u : UnitId} {r : Run} {e : Eff} (h : KeepsE s0 e) : KeepsR s0 (settle u r e) := by
  unfold settle
  cases e with
  | go s r' => exact KeepsR.next (State.setRun_keeps h)
  | jump s r' => exact KeepsR.next (State.setRun_keeps h)
  | stop s f => exact KeepsR.next (unitFault_keeps h)

theorem issue_keeps {s0 s : State} {u : UnitId} {cl op : Nat} {st : UnitKind → InstrWord → Bool} {body : State → UnitId → Ctx → Run → InstrWord → Eff}
    (h : Keeps s0 s.pending s.mem s.fw s.recSession) (hb : ∀ c r w, KeepsE s0 (body s u c r w)) : KeepsR s0 (issue s u cl op st body) := by
  unfold issue
  repeat' (first | exact KeepsR.next h | exact KeepsR.next (unitFault_keeps h) | exact KeepsR.next (State.setRun_keeps h) |
    exact settle_keeps (hb _ _ _) | split)

theorem setBankState_keeps {s0 s : State} {a1 : Nat} {a2 : Nat} {a3 : Nat} {a4 : Bank} (h : Keeps s0 s.pending s.mem s.fw s.recSession) : Keeps s0
    (setBankState s a1 a2 a3 a4).pending (setBankState s a1 a2 a3 a4).mem (setBankState s a1 a2 a3 a4).fw (setBankState s a1 a2 a3 a4).recSession :=
    by
  unfold setBankState
  repeat' (first | with_reducible assumption | with_reducible apply State.modCtx_keeps | dsimp only | split | intro _)

theorem asyncWrites_keeps {s0 s : State} {a1 : Nat} {a2 : TD} {a3 : Bool} {a4 : List WItem} (h : Keeps s0 s.pending s.mem s.fw s.recSession) : KeepsP
    s0 (asyncWrites s a1 a2 a3 a4) := by
  unfold asyncWrites
  repeat' (first | with_reducible assumption | with_reducible apply prepareAll_keeps | with_reducible apply runWrites_keeps |
                  with_reducible refine KeepsP.fst (runWrites_keeps ?_) | with_reducible apply KeepsP.mk | with_reducible apply KeepsX.ok |
                  with_reducible exact KeepsX.error | dsimp only | split | with_reducible refine KeepsX.elim ?_ (by assumption) |
                  with_reducible refine KeepsP.elim ?_ (by assumption) | intro _)

theorem asyncFault_keeps {s0 s : State} {a1 : UnitId} {a2 : Run} {a3 : CFault} {a4 : Nat} (h : Keeps s0 s.pending s.mem s.fw s.recSession) : Keeps s0
    (asyncFault s a1 a2 a3 a4).pending (asyncFault s a1 a2 a3 a4).mem (asyncFault s a1 a2 a3 a4).fw (asyncFault s a1 a2 a3 a4).recSession := by
  unfold asyncFault
  repeat' (first | with_reducible assumption | with_reducible apply unitFault_keeps | dsimp only | split | intro _)

theorem sendElem_keeps {s0 s : State} {a1 : Nat} {a2 : Nat} {a3 : Window × Nat × Bytes} (h : Keeps s0 s.pending s.mem s.fw s.recSession) : Keeps s0
    (sendElem a1 a2 s a3).pending (sendElem a1 a2 s a3).mem (sendElem a1 a2 s a3).fw (sendElem a1 a2 s a3).recSession := by
  unfold sendElem
  repeat' (first | with_reducible assumption | with_reducible apply hostWrite_keeps | with_reducible apply State.toHost_keeps | dsimp only |
                  split | intro _)

theorem emitHostWrites_keeps {s0 s : State} {a1 : Nat} {a2 : Nat} {a3 : List (X (Window × Nat × Bytes))} (h : Keeps s0 s.pending s.mem s.fw
    s.recSession) : KeepsP s0 (emitHostWrites s a1 a2 a3) := by
  unfold emitHostWrites
  repeat' (first | with_reducible assumption | with_reducible apply sendElem_keeps | with_reducible apply State.tick_keeps |
                  with_reducible apply Keeps.foldl | with_reducible apply KeepsP.foldl |
                  with_reducible refine KeepsP.fst (KeepsP.foldl ?_ _ ?_) | with_reducible apply KeepsP.mk | dsimp only | split |
                  with_reducible refine KeepsP.elim ?_ (by assumption) | intro _)

theorem settleMove_keeps {s0 : State} {u : UnitId} {r : Run} {sn : Snapshot} {rest : List Snapshot} {p : State × Option (Option CFault)}
    (h : KeepsP s0 p) : Keeps s0 (settleMove u r sn rest p).pending (settleMove u r sn rest p).mem (settleMove u r sn rest p).fw
    (settleMove u r sn rest p).recSession := by
  unfold settleMove
  repeat' (first | exact h | exact State.setRun_keeps h | exact asyncFault_keeps h | split)

theorem moveSpoilt_keeps {s0 s : State} {a1 : UnitId} {a2 : Run} {a3 : Nat} (h : Keeps s0 s.pending s.mem s.fw s.recSession) : Keeps s0 (moveSpoilt s
    a1 a2 a3).pending (moveSpoilt s a1 a2 a3).mem (moveSpoilt s a1 a2 a3).fw (moveSpoilt s a1 a2 a3).recSession := by
  unfold moveSpoilt
  repeat' (first | with_reducible assumption | with_reducible apply stopChecked_keeps | dsimp only | split | intro _)

theorem decToken_keeps {s0 s : State} {a1 : Nat} {a2 : Nat} (h : Keeps s0 s.pending s.mem s.fw s.recSession) : KeepsX s0 (decToken s a1 a2) := by
  unfold decToken
  repeat' (first | with_reducible assumption | with_reducible apply taskWrite_keeps | with_reducible apply KeepsX.ok |
                  with_reducible exact KeepsX.error | dsimp only | split | with_reducible refine KeepsX.elim ?_ (by assumption) | intro _)

theorem addFlights_keeps {s0 s : State} {a1 : UnitId} {a2 : Run} {a3 : Ctx} {a4 : Bool} {a5 : List (List (Nat × Bytes) × Nat)} (h : Keeps s0 s.pending
    s.mem s.fw s.recSession) : Keeps s0 (addFlights s a1 a2 a3 a4 a5).pending (addFlights s a1 a2 a3 a4 a5).mem (addFlights s a1 a2 a3 a4 a5).fw
    (addFlights s a1 a2 a3 a4 a5).recSession := by
  unfold addFlights
  repeat' (first | with_reducible assumption | dsimp only | split | intro _)

theorem drainFinish_keeps {s0 : State} {cn : Nat} {d : Drain} {tc : TD} {chain : Option (BitVec 512)} {asm : List (Nat × Bytes)} {a : DrainRes}
    (h : Keeps s0 a.s.pending a.s.mem a.s.fw a.s.recSession) : KeepsX s0 (drainFinish cn d tc chain asm a) := by
  unfold drainFinish
  split
  · exact KeepsX.error
  · rename_i s h'
    have hs : Keeps s0 s.pending s.mem s.fw s.recSession := (KeepsX.foldE (fun s x h => gatherAmax_keeps h) _ h).elim h'
    split
    · exact KeepsX.ok hs
    · dsimp only
      split
      · exact KeepsX.error
      · rename_i s1 h1
        refine KeepsX.foldE (fun s x h => decToken_keeps h) _ (KeepsX.elim ?_ h1)
        split
        · exact KeepsX.ok hs
        · split
          · rename_i h2; exact KeepsX.ok ((runWrites_keeps hs).elim h2)
          · exact KeepsX.error

theorem drainRun_keeps {s0 s : State} {u : UnitId} {r : Run} {rest : List Drain} {c : Ctx} {d : Drain} {tc : TD} {chain : Option (BitVec 512)}
    (h : Keeps s0 s.pending s.mem s.fw s.recSession) : KeepsX s0 (drainRun s u r rest c d tc chain) := by
  unfold drainRun
  split
  · exact KeepsX.error
  · rename_i a h1
    split
    · exact KeepsX.error
    · rename_i s1 h2
      exact KeepsX.ok (addFlights_keeps (State.setRun_keeps ((drainFinish_keeps (drainSteps_keeps _ h h1)).elim h2)))

theorem partWrites_keeps {s0 s : State} {a1 : Nat} {a2 : TD} {a3 : Bool} {a4 : List WItem} (h : Keeps s0 s.pending s.mem s.fw s.recSession) : Keeps s0
    (partWrites s a1 a2 a3 a4).pending (partWrites s a1 a2 a3 a4).mem (partWrites s a1 a2 a3 a4).fw (partWrites s a1 a2 a3 a4).recSession := by
  unfold partWrites
  repeat' (first | with_reducible assumption | with_reducible apply someWrites_keeps | with_reducible apply someUnits_keeps | dsimp only |
                  split | intro _)

theorem partDrained_keeps {s0 s : State} {a1 : Nat} {a2 : Option TD} {a3 : Nat} {a4 : Int} (h : Keeps s0 s.pending s.mem s.fw s.recSession) : Keeps s0
    (partDrained s a1 a2 a3 a4).pending (partDrained s a1 a2 a3 a4).mem (partDrained s a1 a2 a3 a4).fw (partDrained s a1 a2 a3 a4).recSession := by
  unfold partDrained
  repeat' (first | with_reducible assumption | with_reducible apply partWrites_keeps | dsimp only | split | intro _)

theorem partPush_keeps {s0 s : State} {a1 : Nat} {a2 : Ctx} {a3 : Run} {a4 : InstrWord} {a5 : TD} (h : Keeps s0 s.pending s.mem s.fw s.recSession) :
    Keeps s0 (partPush s a1 a2 a3 a4 a5).pending (partPush s a1 a2 a3 a4 a5).mem (partPush s a1 a2 a3 a4 a5).fw (partPush s a1 a2 a3 a4 a5).recSession
    := by
  unfold partPush
  repeat' (first | with_reducible assumption | with_reducible apply State.tick_keeps | with_reducible apply Keeps.foldl |
                  with_reducible apply KeepsP.foldl | with_reducible refine KeepsP.fst (KeepsP.foldl ?_ _ ?_) |
                  with_reducible apply Keeps.foldMem | with_reducible apply Keeps.set | with_reducible apply Keeps.setBytes |
                  with_reducible apply Keeps.erase | with_reducible apply Keeps.copy | with_reducible apply Keeps.nil | dsimp only | split |
                  intro _)

theorem deliver_keeps {s0 s : State} {f : Flight} (h : Keeps s0 s.pending s.mem s.fw s.recSession) : Keeps s0 (deliver s f).pending
    (deliver s f).mem (deliver s f).fw (deliver s f).recSession := by
  unfold deliver decWindow
  exact State.modRun_keeps (Keeps.setBytes (Keeps.foldMem (fun _ _ h => Keeps.setBytes h) _ h))

theorem fwAdd_keeps {s0 s : State} {a1 : Nat} {a2 : Nat} {a3 : Int} (h : Keeps s0 s.pending s.mem s.fw s.recSession) : Keeps s0 (fwAdd s a1 a2
    a3).pending (fwAdd s a1 a2 a3).mem (fwAdd s a1 a2 a3).fw (fwAdd s a1 a2 a3).recSession := by
  unfold fwAdd
  repeat' (first | with_reducible assumption | with_reducible apply Keeps.foldl | with_reducible apply KeepsP.foldl |
                  with_reducible refine KeepsP.fst (KeepsP.foldl ?_ _ ?_) | with_reducible apply Keeps.foldMem |
                  with_reducible apply Keeps.set | with_reducible apply Keeps.setBytes | with_reducible apply Keeps.erase |
                  with_reducible apply Keeps.copy | with_reducible apply Keeps.nil | dsimp only | split | intro _)

theorem setEntry_keeps {s0 s : State} {a1 : Nat} {a2 : SeqRec} {a3 : Nat} {a4 : Nat} {a5 : Nat} (h : Keeps s0 s.pending s.mem s.fw s.recSession) :
    Keeps s0 (setEntry s a1 a2 a3 a4 a5).pending (setEntry s a1 a2 a3 a4 a5).mem (setEntry s a1 a2 a3 a4 a5).fw (setEntry s a1 a2 a3 a4 a5).recSession
    := by
  unfold setEntry
  repeat' (first | with_reducible assumption | with_reducible apply fwWrite_keeps | dsimp only | split | intro _)

theorem setSeqState_keeps {s0 s : State} {a1 : Nat} {a2 : SeqRec} {a3 : Nat} (h : Keeps s0 s.pending s.mem s.fw s.recSession) : Keeps s0 (setSeqState
    s a1 a2 a3).pending (setSeqState s a1 a2 a3).mem (setSeqState s a1 a2 a3).fw (setSeqState s a1 a2 a3).recSession := by
  unfold setSeqState
  repeat' (first | with_reducible assumption | with_reducible apply fwWrite_keeps | dsimp only | split | intro _)

theorem State.modSeq_keeps {s0 s : State} {a1 : Nat} {a2 : Nat} {a3 : SeqRec → SeqRec} (h : Keeps s0 s.pending s.mem s.fw s.recSession) : Keeps s0
    (State.modSeq s a1 a2 a3).pending (State.modSeq s a1 a2 a3).mem (State.modSeq s a1 a2 a3).fw (State.modSeq s a1 a2 a3).recSession := by
  unfold State.modSeq
  repeat' (first | with_reducible assumption | with_reducible apply State.modCtx_keeps | dsimp only | split | intro _)

theorem State.modKv_keeps {s0 s : State} {a1 : Nat} {a2 : KvPool → KvPool} (h : Keeps s0 s.pending s.mem s.fw s.recSession) : Keeps s0 (State.modKv s
    a1 a2).pending (State.modKv s a1 a2).mem (State.modKv s a1 a2).fw (State.modKv s a1 a2).recSession := by
  unfold State.modKv
  repeat' (first | with_reducible assumption | with_reducible apply State.modCtx_keeps | dsimp only | split | intro _)

theorem giveSlot_keeps {s0 s : State} {a1 : Nat} {a2 : Nat} {a3 : Nat} (h : Keeps s0 s.pending s.mem s.fw s.recSession) : Keeps s0 (giveSlot s a1 a2
    a3).pending (giveSlot s a1 a2 a3).mem (giveSlot s a1 a2 a3).fw (giveSlot s a1 a2 a3).recSession := by
  unfold giveSlot
  repeat' (first | with_reducible assumption | with_reducible apply State.modSeq_keeps | dsimp only | split | intro _)

theorem returnSlot_keeps {s0 s : State} {a1 : Nat} {a2 : Nat} {a3 : Nat} (h : Keeps s0 s.pending s.mem s.fw s.recSession) : Keeps s0 (returnSlot s a1
    a2 a3).pending (returnSlot s a1 a2 a3).mem (returnSlot s a1 a2 a3).fw (returnSlot s a1 a2 a3).recSession := by
  unfold returnSlot
  repeat' (first | with_reducible assumption | with_reducible apply State.modCtx_keeps | dsimp only | split | intro _)

theorem leafEdit_keeps {s0 s : State} {a1 : Nat} {a2 : Nat} {a3 : Nat} {a4 : Nat} {a5 : Nat} (h : Keeps s0 s.pending s.mem s.fw s.recSession) : Keeps
    s0 (leafEdit s a1 a2 a3 a4 a5).pending (leafEdit s a1 a2 a3 a4 a5).mem (leafEdit s a1 a2 a3 a4 a5).fw (leafEdit s a1 a2 a3 a4 a5).recSession := by
  unfold leafEdit
  repeat' (first | with_reducible assumption | with_reducible apply fwWrite_keeps | with_reducible apply State.modSeq_keeps | dsimp only |
                  split | intro _)

theorem giveSwap_keeps {s0 s : State} {a1 : Nat} {a2 : Nat} (h : Keeps s0 s.pending s.mem s.fw s.recSession) : KeepsO s0 (giveSwap s a1 a2) := by
  unfold giveSwap
  repeat' (first | with_reducible assumption | with_reducible apply fwWrite_keeps | with_reducible apply State.modSeq_keeps |
                  with_reducible apply KeepsO.some | with_reducible exact KeepsO.none | dsimp only | split |
                  with_reducible refine KeepsO.elim ?_ (by assumption) | intro _)

theorem sendCopy_keeps {s0 s : State} {a1 : Nat} {a2 : Nat} {a3 : Nat} (h : Keeps s0 s.pending s.mem s.fw s.recSession) : Keeps s0 (sendCopy s a1 a2
    a3).pending (sendCopy s a1 a2 a3).mem (sendCopy s a1 a2 a3).fw (sendCopy s a1 a2 a3).recSession := by
  unfold sendCopy
  repeat' (first | with_reducible assumption | with_reducible apply hostWrite_keeps | with_reducible apply State.toHost_keeps | dsimp only |
                  split | intro _)

theorem outNext_keeps {s0 s : State} {a1 : Nat} {a2 : Nat} (h : Keeps s0 s.pending s.mem s.fw s.recSession) : Keeps s0 (outNext s a1 a2).pending
    (outNext s a1 a2).mem (outNext s a1 a2).fw (outNext s a1 a2).recSession := by
  unfold outNext
  repeat' (first | with_reducible assumption | with_reducible apply sendCopy_keeps | with_reducible apply setEntry_keeps |
                  with_reducible apply setSeqState_keeps | dsimp only | split | intro _)

theorem startOut_keeps {s0 s : State} {a1 : Nat} {a2 : Nat} (h : Keeps s0 s.pending s.mem s.fw s.recSession) : Keeps s0 (startOut s a1 a2).pending
    (startOut s a1 a2).mem (startOut s a1 a2).fw (startOut s a1 a2).recSession := by
  unfold startOut
  repeat' (first | with_reducible assumption | with_reducible apply outNext_keeps | with_reducible apply setSeqState_keeps | dsimp only |
                  split | intro _)

theorem kvCapacityFault_keeps {s0 s : State} {a1 : Nat} {a2 : Nat} (h : Keeps s0 s.pending s.mem s.fw s.recSession) : Keeps s0 (kvCapacityFault s a1
    a2).pending (kvCapacityFault s a1 a2).mem (kvCapacityFault s a1 a2).fw (kvCapacityFault s a1 a2).recSession := by
  unfold kvCapacityFault
  repeat' (first | with_reducible assumption | with_reducible apply taskFault_keeps | with_reducible apply State.dropUnit_keeps |
                  with_reducible apply Keeps.foldl | with_reducible apply KeepsP.foldl |
                  with_reducible refine KeepsP.fst (KeepsP.foldl ?_ _ ?_) | dsimp only | split | intro _)

theorem kvPressure_keeps {s0 s : State} {a1 : Nat} (h : Keeps s0 s.pending s.mem s.fw s.recSession) : Keeps s0 (kvPressure s a1).pending (kvPressure s
    a1).mem (kvPressure s a1).fw (kvPressure s a1).recSession := by
  unfold kvPressure
  repeat' (first | with_reducible assumption | with_reducible apply giveSwap_keeps | with_reducible apply startOut_keeps |
                  with_reducible apply kvCapacityFault_keeps | with_reducible apply State.modKv_keeps | with_reducible apply KeepsO.some |
                  with_reducible exact KeepsO.none | dsimp only | split | with_reducible refine KeepsO.elim ?_ (by assumption) | intro _)

theorem askSlot_keeps {s0 s : State} {a1 : Nat} {a2 : Option UnitId} {a3 : Nat} {a4 : Nat} (h : Keeps s0 s.pending s.mem s.fw s.recSession) : KeepsP
    s0 (askSlot s a1 a2 a3 a4) := by
  unfold askSlot
  repeat' (first | with_reducible assumption | with_reducible apply kvPressure_keeps | with_reducible apply State.modKv_keeps |
                  with_reducible apply KeepsP.mk | dsimp only | split | with_reducible refine KeepsP.elim ?_ (by assumption) | intro _)

theorem startFetch_keeps {s0 s : State} {a1 : Nat} {a2 : Nat} {a3 : Nat} {a4 : Nat} (h : Keeps s0 s.pending s.mem s.fw s.recSession) : Keeps s0
    (startFetch s a1 a2 a3 a4).pending (startFetch s a1 a2 a3 a4).mem (startFetch s a1 a2 a3 a4).fw (startFetch s a1 a2 a3 a4).recSession := by
  unfold startFetch
  repeat' (first | with_reducible assumption | with_reducible apply setEntry_keeps | with_reducible apply giveSlot_keeps | dsimp only |
                  split | intro _)

theorem inNext_keeps {s0 s : State} {a1 : Nat} {a2 : Nat} (h : Keeps s0 s.pending s.mem s.fw s.recSession) : Keeps s0 (inNext s a1 a2).pending (inNext
    s a1 a2).mem (inNext s a1 a2).fw (inNext s a1 a2).recSession := by
  unfold inNext
  repeat' (first | with_reducible assumption | with_reducible apply askSlot_keeps | with_reducible apply startFetch_keeps |
                  with_reducible apply setSeqState_keeps | with_reducible refine KeepsP.fst (askSlot_keeps ?_) |
                  with_reducible apply KeepsP.mk | dsimp only | split | with_reducible refine KeepsP.elim ?_ (by assumption) | intro _)

theorem needResident_keeps {s0 s : State} {a1 : Nat} {a2 : Nat} (h : Keeps s0 s.pending s.mem s.fw s.recSession) : Keeps s0 (needResident s a1
    a2).pending (needResident s a1 a2).mem (needResident s a1 a2).fw (needResident s a1 a2).recSession := by
  unfold needResident
  repeat' (first | with_reducible assumption | with_reducible apply inNext_keeps | with_reducible apply setSeqState_keeps |
                  with_reducible apply State.modSeq_keeps | dsimp only | split | intro _)

theorem allocPage_keeps {s0 s : State} {a1 : Nat} {a2 : Nat} {a3 : Nat} {a4 : Nat} (h : Keeps s0 s.pending s.mem s.fw s.recSession) : KeepsX s0
    (allocPage s a1 a2 a3 a4) := by
  unfold allocPage
  repeat' (first | with_reducible assumption | with_reducible apply countedWrite_keeps | with_reducible apply setEntry_keeps |
                  with_reducible apply giveSlot_keeps | with_reducible apply State.modCtx_keeps | with_reducible apply KeepsX.ok |
                  with_reducible exact KeepsX.error | dsimp only | split | with_reducible refine KeepsX.elim ?_ (by assumption) | intro _)

theorem allocRange_keeps {s0 s : State} {a1 : Nat} {a2 : UnitId} {a3 : Nat} {a4 : List Nat} (h : Keeps s0 s.pending s.mem s.fw s.recSession) : KeepsX
    s0 (allocRange s a1 a2 a3 a4) := by
  unfold allocRange
  repeat' (first | with_reducible assumption | with_reducible apply askSlot_keeps | with_reducible apply allocPage_keeps |
                  with_reducible apply KeepsX.foldE | with_reducible apply KeepsY.foldE |
                  with_reducible refine KeepsP.fst (askSlot_keeps ?_) | with_reducible apply KeepsP.mk | with_reducible apply KeepsX.ok |
                  with_reducible exact KeepsX.error | dsimp only | split | with_reducible refine KeepsX.elim ?_ (by assumption) |
                  with_reducible refine KeepsP.elim ?_ (by assumption) | intro _)

theorem appendBytes_keeps {s0 s : State} {a1 : Nat} {a2 : List WItem} (h : Keeps s0 s.pending s.mem s.fw s.recSession) : KeepsP s0 (appendBytes s a1
    a2) := by
  unfold appendBytes
  repeat' (first | with_reducible assumption | with_reducible apply plainWrites_keeps | with_reducible apply someWrites_keeps |
                  with_reducible apply KeepsP.mk | with_reducible apply KeepsX.ok | with_reducible exact KeepsX.error | dsimp only | split |
                  with_reducible refine KeepsX.elim ?_ (by assumption) | with_reducible refine KeepsP.elim ?_ (by assumption) | intro _)

theorem beginHead_keeps {s0 s : State} {a1 : UnitId} (h : Keeps s0 s.pending s.mem s.fw s.recSession) : Keeps s0 (beginHead s a1).pending (beginHead s
    a1).mem (beginHead s a1).fw (beginHead s a1).recSession := by
  unfold beginHead
  repeat' (first | with_reducible assumption | with_reducible apply asyncFault_keeps | with_reducible apply needResident_keeps |
                  with_reducible apply State.setRun_keeps | dsimp only | split | intro _)

theorem resumeWaiters_keeps {s0 s : State} {a1 : Nat} {a2 : Nat} (h : Keeps s0 s.pending s.mem s.fw s.recSession) : Keeps s0 (resumeWaiters s a1
    a2).pending (resumeWaiters s a1 a2).mem (resumeWaiters s a1 a2).fw (resumeWaiters s a1 a2).recSession := by
  unfold resumeWaiters
  repeat' (first | with_reducible assumption | with_reducible apply asyncFault_keeps | with_reducible apply allocRange_keeps |
                  with_reducible apply beginHead_keeps | with_reducible apply Keeps.foldl | with_reducible apply KeepsP.foldl |
                  with_reducible refine KeepsP.fst (KeepsP.foldl ?_ _ ?_) | with_reducible apply Keeps.getD |
                  with_reducible apply KeepsX.ok | with_reducible exact KeepsX.error | dsimp only | split |
                  with_reducible refine KeepsX.elim ?_ (by assumption) | intro _)

theorem kvContinue_keeps {s0 s : State} {a1 : Nat} {a2 : Nat} (h : Keeps s0 s.pending s.mem s.fw s.recSession) : Keeps s0 (kvContinue s a1 a2).pending
    (kvContinue s a1 a2).mem (kvContinue s a1 a2).fw (kvContinue s a1 a2).recSession := by
  unfold kvContinue
  repeat' (first | with_reducible assumption | with_reducible apply outNext_keeps | with_reducible apply needResident_keeps |
                  with_reducible apply inNext_keeps | with_reducible apply setSeqState_keeps | with_reducible apply resumeWaiters_keeps |
                  with_reducible apply State.modSeq_keeps | dsimp only | split | intro _)

theorem grantSlot_keeps {s0 s : State} {a1 : Nat} (h : Keeps s0 s.pending s.mem s.fw s.recSession) : Keeps s0 (grantSlot s a1).pending (grantSlot s
    a1).mem (grantSlot s a1).fw (grantSlot s a1).recSession := by
  unfold grantSlot
  repeat' (first | with_reducible assumption | with_reducible apply startFetch_keeps | with_reducible apply allocPage_keeps |
                  with_reducible apply unitFault_keeps | with_reducible apply kvPressure_keeps | with_reducible apply State.modKv_keeps |
                  with_reducible apply KeepsX.ok | with_reducible exact KeepsX.error | dsimp only | split |
                  with_reducible refine KeepsX.elim ?_ (by assumption) | intro _)

theorem dropPage_keeps {s0 s : State} {a1 : Nat} {a2 : Nat} {a3 : Nat} {a4 : Nat} (h : Keeps s0 s.pending s.mem s.fw s.recSession) : Keeps s0
    (dropPage s a1 a2 a3 a4).pending (dropPage s a1 a2 a3 a4).mem (dropPage s a1 a2 a3 a4).fw (dropPage s a1 a2 a3 a4).recSession := by
  unfold dropPage
  repeat' (first | with_reducible assumption | with_reducible apply setEntry_keeps | with_reducible apply returnSlot_keeps |
                  with_reducible apply fwAdd_keeps | with_reducible apply State.modKv_keeps | dsimp only | split | intro _)

theorem evictMarked_keeps {s0 s : State} {a1 : Nat} (h : Keeps s0 s.pending s.mem s.fw s.recSession) : Keeps s0 (evictMarked s a1).pending
    (evictMarked s a1).mem (evictMarked s a1).fw (evictMarked s a1).recSession := by
  unfold evictMarked
  repeat' (first | with_reducible assumption | with_reducible apply dropPage_keeps | with_reducible apply kvContinue_keeps |
                  with_reducible apply State.modSeq_keeps | with_reducible apply Keeps.foldl | with_reducible apply KeepsP.foldl |
                  with_reducible refine KeepsP.fst (KeepsP.foldl ?_ _ ?_) | dsimp only | split | intro _)

theorem selectSeq_keeps {s0 s : State} {cn sn : Nat} (h : Keeps s0 s.pending s.mem s.fw s.recSession) :
    Keeps s0 (selectSeq s cn sn).pending (selectSeq s cn sn).mem (selectSeq s cn sn).fw (selectSeq s cn sn).recSession := by
  unfold selectSeq
  split
  · exact h
  · split
    · exact h
    · split
      · exact h
      · dsimp only
        refine State.modSeq_keeps (KeepsP.fst (KeepsP.foldl (fun p x h => ?_) _ h))
        split
        · exact h
        · exact fwWrite_keeps h

theorem selectEvictions_keeps {s0 s : State} {a1 : Nat} (h : Keeps s0 s.pending s.mem s.fw s.recSession) : Keeps s0 (selectEvictions s a1).pending
    (selectEvictions s a1).mem (selectEvictions s a1).fw (selectEvictions s a1).recSession := by
  unfold selectEvictions
  repeat' (first | with_reducible assumption | with_reducible apply selectSeq_keeps | with_reducible apply Keeps.foldl |
                  with_reducible apply KeepsP.foldl | with_reducible refine KeepsP.fst (KeepsP.foldl ?_ _ ?_) | dsimp only | split |
                  intro _)

theorem dropFrom_keeps {s0 s : State} {a1 : Nat} {a2 : Nat} {a3 : Nat} (h : Keeps s0 s.pending s.mem s.fw s.recSession) : Keeps s0 (dropFrom s a1 a2
    a3).pending (dropFrom s a1 a2 a3).mem (dropFrom s a1 a2 a3).fw (dropFrom s a1 a2 a3).recSession := by
  unfold dropFrom
  repeat' (first | with_reducible assumption | with_reducible apply setEntry_keeps | with_reducible apply dropPage_keeps |
                  with_reducible apply Keeps.foldl | with_reducible apply KeepsP.foldl |
                  with_reducible refine KeepsP.fst (KeepsP.foldl ?_ _ ?_) | dsimp only | split | intro _)

theorem kvRestore_keeps {s0 s : State} {a1 : Nat} {a2 : List (Nat × Nat)} (h : Keeps s0 s.pending s.mem s.fw s.recSession) : Keeps s0 (kvRestore s a1
    a2).pending (kvRestore s a1 a2).mem (kvRestore s a1 a2).fw (kvRestore s a1 a2).recSession := by
  unfold kvRestore
  repeat' (first | with_reducible assumption | with_reducible apply setEntry_keeps | with_reducible apply returnSlot_keeps |
                  with_reducible apply fwAdd_keeps | with_reducible apply kvContinue_keeps | with_reducible apply State.modKv_keeps |
                  with_reducible apply Keeps.foldl | with_reducible apply KeepsP.foldl |
                  with_reducible refine KeepsP.fst (KeepsP.foldl ?_ _ ?_) | dsimp only | split | intro _)

theorem kvHalt_keeps {s0 s : State} {a1 : Nat} (h : Keeps s0 s.pending s.mem s.fw s.recSession) : Keeps s0 (kvHalt s a1).pending (kvHalt s a1).mem
    (kvHalt s a1).fw (kvHalt s a1).recSession := by
  unfold kvHalt
  repeat' (first | with_reducible assumption | with_reducible apply setEntry_keeps | with_reducible apply returnSlot_keeps |
                  with_reducible apply setSeqState_keeps | with_reducible apply State.modKv_keeps |
                  with_reducible apply State.modSeq_keeps | with_reducible apply Keeps.foldl | with_reducible apply KeepsP.foldl |
                  with_reducible refine KeepsP.fst (KeepsP.foldl ?_ _ ?_) | dsimp only | split | intro _)

theorem addMass_keeps {s0 s : State} {a1 : Nat} {a2 : Nat} {a3 : List (Nat × Nat)} (h : Keeps s0 s.pending s.mem s.fw s.recSession) : KeepsX s0
    (addMass s a1 a2 a3) := by
  unfold addMass
  repeat' (first | with_reducible assumption | with_reducible apply countedWrite_keeps | with_reducible apply KeepsX.foldE |
                  with_reducible apply KeepsY.foldE | with_reducible apply KeepsX.ok | with_reducible exact KeepsX.error | dsimp only |
                  split | with_reducible refine KeepsX.elim ?_ (by assumption) | intro _)

theorem prepareMass_keeps {s0 s : State} {a1 : Nat} {a2 : Nat} {a3 : List (Nat × Nat)} (h : Keeps s0 s.pending s.mem s.fw s.recSession) : KeepsX s0
    (prepareMass s a1 a2 a3) := by
  unfold prepareMass
  repeat' (first | with_reducible assumption | with_reducible apply prepareWrite_keeps | with_reducible apply KeepsX.foldE |
                  with_reducible apply KeepsY.foldE | with_reducible apply KeepsX.ok | with_reducible exact KeepsX.error | dsimp only |
                  split | with_reducible refine KeepsX.elim ?_ (by assumption) | intro _)

theorem fwErase_keeps {s0 s : State} {a1 : Nat} {a2 : Nat} {a3 : Nat} (h : Keeps s0 s.pending s.mem s.fw s.recSession) : Keeps s0 (fwErase s a1 a2
    a3).pending (fwErase s a1 a2 a3).mem (fwErase s a1 a2 a3).fw (fwErase s a1 a2 a3).recSession := by
  unfold fwErase
  repeat' (first | with_reducible assumption | with_reducible apply Keeps.foldl | with_reducible apply KeepsP.foldl |
                  with_reducible refine KeepsP.fst (KeepsP.foldl ?_ _ ?_) | with_reducible apply Keeps.foldMem |
                  with_reducible apply Keeps.set | with_reducible apply Keeps.setBytes | with_reducible apply Keeps.erase |
                  with_reducible apply Keeps.copy | with_reducible apply Keeps.nil | dsimp only | split | intro _)

theorem mapPage_keeps {s0 s : State} {a1 : Nat} {a2 : Bool} {a3 : Bool} {a4 : Nat} {a5 : Nat} (h : Keeps s0 s.pending s.mem s.fw s.recSession) : Keeps
    s0 (mapPage a1 a2 a3 a4 s a5).pending (mapPage a1 a2 a3 a4 s a5).mem (mapPage a1 a2 a3 a4 s a5).fw (mapPage a1 a2 a3 a4 s a5).recSession := by
  unfold mapPage
  repeat' (first | with_reducible assumption | with_reducible apply takePage_keeps | with_reducible apply State.modCtx_keeps |
                  with_reducible apply Keeps.foldMem | with_reducible apply Keeps.set | with_reducible apply Keeps.setBytes |
                  with_reducible apply Keeps.erase | with_reducible apply Keeps.copy | with_reducible apply Keeps.nil |
                  with_reducible apply KeepsQ.some | with_reducible exact KeepsQ.none | dsimp only | split |
                  with_reducible refine KeepsQ.elim ?_ (by assumption) | intro _)

theorem unmapPage_keeps {s0 s : State} {a1 : Nat} {a2 : Nat} (h : Keeps s0 s.pending s.mem s.fw s.recSession) : Keeps s0 (unmapPage a1 s a2).pending
    (unmapPage a1 s a2).mem (unmapPage a1 s a2).fw (unmapPage a1 s a2).recSession := by
  unfold unmapPage
  repeat' (first | with_reducible assumption | with_reducible apply releasePage_keeps | with_reducible apply State.modCtx_keeps |
                  dsimp only | split | intro _)

theorem resumeItems_keeps {s0 s : State} {a1 : Nat} {a2 : List ItemBits} (h : Keeps s0 s.pending s.mem s.fw s.recSession) : Keeps s0 (resumeItems s a1
    a2).pending (resumeItems s a1 a2).mem (resumeItems s a1 a2).fw (resumeItems s a1 a2).recSession := by
  unfold resumeItems
  repeat' (first | with_reducible assumption | with_reducible apply needResident_keeps | with_reducible apply Keeps.foldl |
                  with_reducible apply KeepsP.foldl | with_reducible refine KeepsP.fst (KeepsP.foldl ?_ _ ?_) | dsimp only | split |
                  intro _)

theorem applyKv_keeps {s0 s : State} {a1 : Nat} {a2 : ItemBits} (h : Keeps s0 s.pending s.mem s.fw s.recSession) : Keeps s0 (applyKv s a1 a2).pending
    (applyKv s a1 a2).mem (applyKv s a1 a2).fw (applyKv s a1 a2).recSession := by
  unfold applyKv
  repeat' (first | with_reducible assumption | with_reducible apply fwErase_keeps | with_reducible apply fwWrite_keeps |
                  with_reducible apply dropFrom_keeps | with_reducible apply returnSlot_keeps | with_reducible apply kvContinue_keeps |
                  with_reducible apply State.modCtx_keeps | with_reducible apply State.modKv_keeps | with_reducible apply Keeps.foldl |
                  with_reducible apply KeepsP.foldl | with_reducible refine KeepsP.fst (KeepsP.foldl ?_ _ ?_) | dsimp only | split |
                  intro _)

theorem applyEvict_keeps {s0 s : State} {a1 : Nat} {a2 : ItemBits} (h : Keeps s0 s.pending s.mem s.fw s.recSession) : Keeps s0 (applyEvict s a1
    a2).pending (applyEvict s a1 a2).mem (applyEvict s a1 a2).fw (applyEvict s a1 a2).recSession := by
  unfold applyEvict
  repeat' (first | with_reducible assumption | with_reducible apply fwWrite_keeps | dsimp only | split | intro _)

theorem dropTensor_keeps {s0 s : State} {a1 : Nat} {a2 : Nat} (h : Keeps s0 s.pending s.mem s.fw s.recSession) : Keeps s0 (dropTensor s a1 a2).pending
    (dropTensor s a1 a2).mem (dropTensor s a1 a2).fw (dropTensor s a1 a2).recSession := by
  unfold dropTensor
  repeat' (first | with_reducible assumption | with_reducible apply State.modCtx_keeps | dsimp only | split | intro _)

theorem applyComp_keeps {s0 s : State} {a1 : Nat} {a2 : ItemBits} (h : Keeps s0 s.pending s.mem s.fw s.recSession) : Keeps s0 (applyComp s a1
    a2).pending (applyComp s a1 a2).mem (applyComp s a1 a2).fw (applyComp s a1 a2).recSession := by
  unfold applyComp
  repeat' (first | with_reducible assumption | with_reducible apply fwWrite_keeps | with_reducible apply dropTensor_keeps |
                  with_reducible apply fwErase_keeps | with_reducible apply State.modCtx_keeps | with_reducible apply Keeps.foldl |
                  with_reducible apply KeepsP.foldl | with_reducible refine KeepsP.fst (KeepsP.foldl ?_ _ ?_) | dsimp only | split |
                  intro _)

theorem applyXlate_keeps {s0 s : State} {a1 : Nat} {a2 : ItemBits} (h : Keeps s0 s.pending s.mem s.fw s.recSession) : Keeps s0 (applyXlate s a1
    a2).pending (applyXlate s a1 a2).mem (applyXlate s a1 a2).fw (applyXlate s a1 a2).recSession := by
  unfold applyXlate
  repeat' (first | with_reducible assumption | with_reducible apply mapPage_keeps | with_reducible apply unmapPage_keeps |
                  with_reducible apply State.modCtx_keeps | with_reducible apply Keeps.foldl | with_reducible apply KeepsP.foldl |
                  with_reducible refine KeepsP.fst (KeepsP.foldl ?_ _ ?_) | dsimp only | split | intro _)

theorem applyScale_keeps {s0 s : State} {a1 : Nat} {a2 : ItemBits} (h : Keeps s0 s.pending s.mem s.fw s.recSession) : Keeps s0 (applyScale s a1
    a2).pending (applyScale s a1 a2).mem (applyScale s a1 a2).fw (applyScale s a1 a2).recSession := by
  unfold applyScale
  repeat' (first | with_reducible assumption | with_reducible apply fwWrite_keeps | dsimp only | split | intro _)

theorem applyItem_keeps {s0 s : State} {a1 : Nat} {a2 : ItemBits} (h : Keeps s0 s.pending s.mem s.fw s.recSession) : Keeps s0 (applyItem s a1
    a2).pending (applyItem s a1 a2).mem (applyItem s a1 a2).fw (applyItem s a1 a2).recSession := by
  unfold applyItem
  repeat' (first | with_reducible assumption | with_reducible apply applyScale_keeps | with_reducible apply applyEvict_keeps |
                  with_reducible apply applyComp_keeps | with_reducible apply applyKv_keeps | with_reducible apply applyXlate_keeps |
                  with_reducible apply State.modCtx_keeps | dsimp only | split | intro _)

theorem applyItems_keeps {s0 s : State} {a1 : Nat} {a2 : List ItemBits} (h : Keeps s0 s.pending s.mem s.fw s.recSession) : Keeps s0 (applyItems s a1
    a2).pending (applyItems s a1 a2).mem (applyItems s a1 a2).fw (applyItems s a1 a2).recSession := by
  unfold applyItems
  repeat' (first | with_reducible assumption | with_reducible apply applyItem_keeps | with_reducible apply Keeps.foldl |
                  with_reducible apply KeepsP.foldl | with_reducible refine KeepsP.fst (KeepsP.foldl ?_ _ ?_) | dsimp only | split |
                  intro _)

theorem releaseRecs_keeps {s0 s : State} {a1 : Nat} (h : Keeps s0 s.pending s.mem s.fw s.recSession) : Keeps s0 (releaseRecs s a1).pending
    (releaseRecs s a1).mem (releaseRecs s a1).fw (releaseRecs s a1).recSession := by
  unfold releaseRecs
  repeat' (first | with_reducible assumption | with_reducible apply drainRecs_keeps | dsimp only | split | intro _)

theorem fetchPacket_keeps {s0 s : State} {a1 : Nat} {a2 : Nat} (h : Keeps s0 s.pending s.mem s.fw s.recSession) : KeepsQ s0 (fetchPacket s a1 a2) :=
    by
  unfold fetchPacket
  repeat' (first | with_reducible assumption | with_reducible apply State.setCtx_keeps | with_reducible apply KeepsQ.some |
                  with_reducible exact KeepsQ.none | dsimp only | split | with_reducible refine KeepsQ.elim ?_ (by assumption) | intro _)

theorem postOpen_keeps {s0 s : State} {a1 : Nat} {a2 : Nat} {a3 : Nat} {a4 : Bits32} (h : Keeps s0 s.pending s.mem s.fw s.recSession) : Keeps s0
    (postOpen s a1 a2 a3 a4).pending (postOpen s a1 a2 a3 a4).mem (postOpen s a1 a2 a3 a4).fw (postOpen s a1 a2 a3 a4).recSession := by
  unfold postOpen
  repeat' (first | with_reducible assumption | with_reducible apply post_keeps | with_reducible apply State.tick_keeps | dsimp only |
                  split | intro _)

theorem refusePacket_keeps {s0 s : State} {a1 : Nat} {a2 : Nat} {a3 : Nat} (h : Keeps s0 s.pending s.mem s.fw s.recSession) : Keeps s0 (refusePacket s
    a1 a2 a3).pending (refusePacket s a1 a2 a3).mem (refusePacket s a1 a2 a3).fw (refusePacket s a1 a2 a3).recSession := by
  unfold refusePacket
  repeat' (first | with_reducible assumption | with_reducible apply postOpen_keeps | dsimp only | split | intro _)

theorem packetFault_keeps {s0 s : State} {a1 : Nat} {a2 : CFault} {a3 : Bits32} {a4 : Bits32} (h : Keeps s0 s.pending s.mem s.fw s.recSession) : Keeps
    s0 (packetFault s a1 a2 a3 a4).pending (packetFault s a1 a2 a3 a4).mem (packetFault s a1 a2 a3 a4).fw (packetFault s a1 a2 a3 a4).recSession := by
  unfold packetFault
  repeat' (first | with_reducible assumption | with_reducible apply contextFault_keeps | dsimp only | split | intro _)

theorem packetEvent_keeps {s0 s : State} {cn q : Nat} {row : Nat → Bool} {k : State → Ctx → Nat → State}
    (h : Keeps s0 s.pending s.mem s.fw s.recSession)
    (hk : ∀ s c p, Keeps s0 s.pending s.mem s.fw s.recSession → Keeps s0 (k s c p).pending (k s c p).mem (k s c p).fw
    (k s c p).recSession) : KeepsR s0 (packetEvent s cn q row k) := by
  unfold packetEvent
  split
  · exact KeepsR.next h
  · rename_i h'; exact KeepsR.next (packetFault_keeps (State.tick_keeps ((fetchPacket_keeps h).elim h')))
  · rename_i h'
    split
    · exact KeepsR.next (hk _ _ _ ((fetchPacket_keeps h).elim h'))
    · exact KeepsR.next h

theorem accordContext_keeps {s0 s : State} {a1 : Nat} {a2 : Ctx} {a3 : Nat} {a4 : Unit → X (List ItemBits)} (h : Keeps s0 s.pending s.mem s.fw
    s.recSession) : Keeps s0 (accordContext s a1 a2 a3 a4).pending (accordContext s a1 a2 a3 a4).mem (accordContext s a1 a2 a3 a4).fw (accordContext s
    a1 a2 a3 a4).recSession := by
  unfold accordContext
  repeat' (first | with_reducible assumption | with_reducible apply postOpen_keeps | with_reducible apply packetFault_keeps |
                  with_reducible apply State.tick_keeps | with_reducible apply State.setCtx_keeps | dsimp only | split | intro _)

theorem accordStream_keeps {s0 s : State} {a1 : Nat} {a2 : Ctx} {a3 : Nat} {a4 : Unit → X (List ItemBits)} (h : Keeps s0 s.pending s.mem s.fw
    s.recSession) : Keeps s0 (accordStream s a1 a2 a3 a4).pending (accordStream s a1 a2 a3 a4).mem (accordStream s a1 a2 a3 a4).fw (accordStream s a1
    a2 a3 a4).recSession := by
  unfold accordStream
  repeat' (first | with_reducible assumption | with_reducible apply postOpen_keeps | with_reducible apply packetFault_keeps |
                  with_reducible apply State.tick_keeps | with_reducible apply State.setCtx_keeps | dsimp only | split | intro _)

theorem takeBound_keeps {s0 s : State} {a1 : Nat} {a2 : Nat} (h : Keeps s0 s.pending s.mem s.fw s.recSession) : Keeps s0 (takeBound s a1 a2).pending
    (takeBound s a1 a2).mem (takeBound s a1 a2).fw (takeBound s a1 a2).recSession := by
  unfold takeBound
  repeat' (first | with_reducible assumption | with_reducible apply postOpen_keeps | with_reducible apply State.modCtx_keeps |
                  with_reducible apply Keeps.foldl | with_reducible apply KeepsP.foldl |
                  with_reducible refine KeepsP.fst (KeepsP.foldl ?_ _ ?_) | dsimp only | split | intro _)

theorem startTask_keeps {s0 s : State} {a1 : Nat} {a2 : Nat} {a3 : Unit → Option UnitId} (h : Keeps s0 s.pending s.mem s.fw s.recSession) : Keeps s0
    (startTask s a1 a2 a3).pending (startTask s a1 a2 a3).mem (startTask s a1 a2 a3).fw (startTask s a1 a2 a3).recSession := by
  unfold startTask
  repeat' (first | with_reducible assumption | with_reducible apply taskFault_keeps | with_reducible apply takeBound_keeps |
                  with_reducible apply State.setCtx_keeps | with_reducible apply State.setRun_keeps | dsimp only | split | intro _)

theorem dispatchOne_keeps {s0 s : State} {a1 : Nat} {a2 : UnitKind} {a3 : Nat} (h : Keeps s0 s.pending s.mem s.fw s.recSession) : KeepsO s0
    (dispatchOne s a1 a2 a3) := by
  unfold dispatchOne
  repeat' (first | with_reducible assumption | with_reducible apply startTask_keeps | with_reducible apply Keeps.getD |
                  with_reducible apply KeepsO.some | with_reducible exact KeepsO.none | dsimp only | split |
                  with_reducible refine KeepsO.elim ?_ (by assumption) | intro _)

theorem decrement_keeps {s0 s : State} {a1 : Nat} {a2 : Nat} (h : Keeps s0 s.pending s.mem s.fw s.recSession) : KeepsX s0 (decrement s a1 a2) := by
  unfold decrement
  repeat' (first | with_reducible assumption | with_reducible apply taskWrite_keeps | with_reducible apply State.setCtx_keeps |
                  with_reducible apply KeepsX.ok | with_reducible exact KeepsX.error | dsimp only | split |
                  with_reducible refine KeepsX.elim ?_ (by assumption) | intro _)

theorem completeTask_keeps {s0 s : State} {a1 : UnitId} {a2 : Run} {a3 : Ctx} {a4 : Epoch} {a5 : TaskRec} (h : Keeps s0 s.pending s.mem s.fw
    s.recSession) : Keeps s0 (completeTask s a1 a2 a3 a4 a5).pending (completeTask s a1 a2 a3 a4 a5).mem (completeTask s a1 a2 a3 a4 a5).fw
    (completeTask s a1 a2 a3 a4 a5).recSession := by
  unfold completeTask
  repeat' (first | with_reducible assumption | with_reducible apply taskWrite_keeps | with_reducible apply decrement_keeps |
                  with_reducible apply taskFault_keeps | with_reducible apply State.setCtx_keeps |
                  with_reducible apply State.freeUnit_keeps | with_reducible apply State.modCtx_keeps | with_reducible apply KeepsX.foldE |
                  with_reducible apply KeepsY.foldE | with_reducible apply KeepsX.ok | with_reducible exact KeepsX.error | dsimp only |
                  split | with_reducible refine KeepsX.elim ?_ (by assumption) | intro _)

theorem postNotice_keeps {s0 s : State} {a1 : Nat} {a2 : Nat} {a3 : Nat} {a4 : Nat} (h : Keeps s0 s.pending s.mem s.fw s.recSession) : Keeps s0
    (postNotice s a1 a2 a3 a4).pending (postNotice s a1 a2 a3 a4).mem (postNotice s a1 a2 a3 a4).fw (postNotice s a1 a2 a3 a4).recSession := by
  unfold postNotice
  repeat' (first | with_reducible assumption | with_reducible apply post_keeps | with_reducible apply State.tick_keeps | dsimp only |
                  split | intro _)

theorem notice_keeps {s0 s : State} {a1 : Nat} {a2 : Nat} {a3 : Nat → Ctx → Bool} (h : Keeps s0 s.pending s.mem s.fw s.recSession) : Keeps s0 (notice
    s a1 a2 a3).pending (notice s a1 a2 a3).mem (notice s a1 a2 a3).fw (notice s a1 a2 a3).recSession := by
  unfold notice
  repeat' (first | with_reducible assumption | with_reducible apply postNotice_keeps | with_reducible apply Keeps.foldl |
                  with_reducible apply KeepsP.foldl | with_reducible refine KeepsP.fst (KeepsP.foldl ?_ _ ?_) | dsimp only | split |
                  intro _)

theorem logExclusion_keeps {s0 s : State} {a1 : Nat} {a2 : Nat} {a3 : Nat} {a4 : Nat} (h : Keeps s0 s.pending s.mem s.fw s.recSession) : Keeps s0
    (logExclusion s a1 a2 a3 a4).pending (logExclusion s a1 a2 a3 a4).mem (logExclusion s a1 a2 a3 a4).fw (logExclusion s a1 a2 a3 a4).recSession :=
    by
  unfold logExclusion
  repeat' (first | with_reducible assumption | with_reducible apply State.logRec_keeps | dsimp only | split | intro _)

theorem takeBacking_keeps {s0 : State} {cn die : Nat} : ∀ {n : Nat} {s : State}, Keeps s0 s.pending s.mem s.fw s.recSession →
    Keeps s0 (takeBacking n s cn die).pending (takeBacking n s cn die).mem (takeBacking n s cn die).fw (takeBacking n s cn die).recSession
  | 0, _, h => h
  | n + 1, s, h => by
    unfold takeBacking
    split
    · exact h
    · rename_i h'; exact takeBacking_keeps (State.modCtx_keeps ((takePage_keeps h).elim h'))

theorem placeUnit_keeps {s0 s : State} {a1 : Nat} {a2 : Nat × Nat} {a3 : Ctx} {a4 : Nat} {a5 : Nat} (h : Keeps s0 s.pending s.mem s.fw s.recSession) :
    Keeps s0 (placeUnit a1 s a2 a3 a4 a5).pending (placeUnit a1 s a2 a3 a4 a5).mem (placeUnit a1 s a2 a3 a4 a5).fw (placeUnit a1 s a2 a3 a4
    a5).recSession := by
  unfold placeUnit
  repeat' (first | with_reducible assumption | with_reducible apply takeBacking_keeps | with_reducible apply State.setCtx_keeps |
                  dsimp only | split | intro _)

theorem replaceUnit_keeps {s0 s : State} {a1 : Nat} {a2 : Nat × Nat} (h : Keeps s0 s.pending s.mem s.fw s.recSession) : Keeps s0 (replaceUnit a1 s
    a2).pending (replaceUnit a1 s a2).mem (replaceUnit a1 s a2).fw (replaceUnit a1 s a2).recSession := by
  unfold replaceUnit
  repeat' (first | with_reducible assumption | with_reducible apply placeUnit_keeps | dsimp only | split | intro _)

theorem replan_keeps {s0 s : State} {a1 : Nat} (h : Keeps s0 s.pending s.mem s.fw s.recSession) : Keeps s0 (replan s a1).pending (replan s a1).mem
    (replan s a1).fw (replan s a1).recSession := by
  unfold replan
  repeat' (first | with_reducible assumption | with_reducible apply replaceUnit_keeps | with_reducible apply State.setCtx_keeps |
                  with_reducible apply Keeps.foldl | with_reducible apply KeepsP.foldl |
                  with_reducible refine KeepsP.fst (KeepsP.foldl ?_ _ ?_) | dsimp only | split | intro _)

theorem moveStreams_keeps {s0 s : State} {a1 : Nat} (h : Keeps s0 s.pending s.mem s.fw s.recSession) : Keeps s0 (moveStreams s a1).pending
    (moveStreams s a1).mem (moveStreams s a1).fw (moveStreams s a1).recSession := by
  unfold moveStreams
  repeat' (first | with_reducible assumption | with_reducible apply State.modCtx_keeps | with_reducible apply Keeps.foldl |
                  with_reducible apply KeepsP.foldl | with_reducible refine KeepsP.fst (KeepsP.foldl ?_ _ ?_) | dsimp only | split |
                  intro _)

theorem clearFailed_keeps {s0 s : State} (h : Keeps s0 s.pending s.mem s.fw s.recSession) : Keeps s0 (clearFailed s).pending (clearFailed s).mem
    (clearFailed s).fw (clearFailed s).recSession := by
  unfold clearFailed
  repeat' (first | with_reducible assumption | dsimp only | split | intro _)

theorem excludeUnit_keeps {s0 s : State} {a1 : UnitId} (h : Keeps s0 s.pending s.mem s.fw s.recSession) : Keeps s0 (excludeUnit s a1).pending
    (excludeUnit s a1).mem (excludeUnit s a1).fw (excludeUnit s a1).recSession := by
  unfold excludeUnit
  repeat' (first | with_reducible assumption | with_reducible apply notice_keeps | with_reducible apply logExclusion_keeps |
                  with_reducible apply clearFailed_keeps | with_reducible apply moveStreams_keeps | dsimp only | split | intro _)

theorem excludeDie_keeps {s0 s : State} {a1 : Nat} (h : Keeps s0 s.pending s.mem s.fw s.recSession) : Keeps s0 (excludeDie s a1).pending (excludeDie s
    a1).mem (excludeDie s a1).fw (excludeDie s a1).recSession := by
  unfold excludeDie
  repeat' (first | with_reducible assumption | with_reducible apply notice_keeps | with_reducible apply logExclusion_keeps |
                  with_reducible apply clearFailed_keeps | dsimp only | split | intro _)

theorem excludePersistent_keeps {s0 s : State} (h : Keeps s0 s.pending s.mem s.fw s.recSession) : Keeps s0 (excludePersistent s).pending
    (excludePersistent s).mem (excludePersistent s).fw (excludePersistent s).recSession := by
  unfold excludePersistent
  repeat' (first | with_reducible assumption | with_reducible apply excludeUnit_keeps | with_reducible apply Keeps.foldl |
                  with_reducible apply KeepsP.foldl | with_reducible refine KeepsP.fst (KeepsP.foldl ?_ _ ?_) |
                  with_reducible apply Keeps.getD | dsimp only | split | intro _)

theorem updateSlot_keeps {s0 s : State} {a1 : Nat} {a2 : Nat} (h : Keeps s0 s.pending s.mem s.fw s.recSession) : Keeps s0 (updateSlot a1 s a2).pending
    (updateSlot a1 s a2).mem (updateSlot a1 s a2).fw (updateSlot a1 s a2).recSession := by
  unfold updateSlot
  repeat' (first | with_reducible assumption | with_reducible apply fwWrite_keeps | dsimp only | split | intro _)

theorem updateSlots_keeps {s0 s : State} {a1 : Nat} (h : Keeps s0 s.pending s.mem s.fw s.recSession) : Keeps s0 (updateSlots s a1).pending
    (updateSlots s a1).mem (updateSlots s a1).fw (updateSlots s a1).recSession := by
  unfold updateSlots
  repeat' (first | with_reducible assumption | with_reducible apply updateSlot_keeps | with_reducible apply Keeps.foldl |
                  with_reducible apply KeepsP.foldl | with_reducible refine KeepsP.fst (KeepsP.foldl ?_ _ ?_) | dsimp only | split |
                  intro _)

theorem applyRequest_keeps {s0 : State} {cn : Nat} {a : State × List (Bits32 × Nat)} {q : AccordReq} (h : KeepsP s0 a) :
    KeepsP s0 (applyRequest cn a q) := by
  unfold applyRequest
  split
  · exact h
  · dsimp only
    apply KeepsP.mk
    split
    · exact applyItems_keeps h
    · exact h

theorem commitShadow_keeps {s0 s : State} {a1 : Nat} {a2 : Nat × ShadowEnt} (h : Keeps s0 s.pending s.mem s.fw s.recSession) : Keeps s0 (commitShadow
    a1 s a2).pending (commitShadow a1 s a2).mem (commitShadow a1 s a2).fw (commitShadow a1 s a2).recSession := by
  unfold commitShadow
  repeat' (first | with_reducible assumption | with_reducible apply recyclePage_keeps | with_reducible apply releasePage_keeps |
                  with_reducible apply State.setCtx_keeps | dsimp only | split | intro _)

theorem commitShadows_keeps {s0 s : State} {a1 : Nat} (h : Keeps s0 s.pending s.mem s.fw s.recSession) : Keeps s0 (commitShadows s a1).pending
    (commitShadows s a1).mem (commitShadows s a1).fw (commitShadows s a1).recSession := by
  unfold commitShadows
  repeat' (first | with_reducible assumption | with_reducible apply commitShadow_keeps | with_reducible apply State.modCtx_keeps |
                  with_reducible apply Keeps.foldl | with_reducible apply KeepsP.foldl |
                  with_reducible refine KeepsP.fst (KeepsP.foldl ?_ _ ?_) | dsimp only | split | intro _)

theorem closeEpoch_keeps {s0 s : State} {a1 : Nat} {a2 : Epoch} (h : Keeps s0 s.pending s.mem s.fw s.recSession) : Keeps s0 (closeEpoch s a1
    a2).pending (closeEpoch s a1 a2).mem (closeEpoch s a1 a2).fw (closeEpoch s a1 a2).recSession := by
  unfold closeEpoch
  repeat' (first | with_reducible assumption | with_reducible apply State.modCtx_keeps | dsimp only | split | intro _)

theorem packPool_keeps {s0 s : State} {a1 : Nat} (h : Keeps s0 s.pending s.mem s.fw s.recSession) : Keeps s0 (packPool s a1).pending (packPool s
    a1).mem (packPool s a1).fw (packPool s a1).recSession := by
  unfold packPool
  repeat' (first | with_reducible assumption | with_reducible apply compactPool_keeps | with_reducible apply KeepsX.ok |
                  with_reducible exact KeepsX.error | dsimp only | split | with_reducible refine KeepsX.elim ?_ (by assumption) | intro _)

theorem resumeTaken_keeps {s0 s : State} {a1 : Nat} {a2 : List (AccordReq × (Bits32 × Nat))} (h : Keeps s0 s.pending s.mem s.fw s.recSession) : Keeps
    s0 (resumeTaken s a1 a2).pending (resumeTaken s a1 a2).mem (resumeTaken s a1 a2).fw (resumeTaken s a1 a2).recSession := by
  unfold resumeTaken
  repeat' (first | with_reducible assumption | with_reducible apply resumeItems_keeps | with_reducible apply Keeps.foldl |
                  with_reducible apply KeepsP.foldl | with_reducible refine KeepsP.fst (KeepsP.foldl ?_ _ ?_) | dsimp only | split |
                  intro _)

theorem commitBoundary_keeps {s0 s : State} {a1 : Nat} (h : Keeps s0 s.pending s.mem s.fw s.recSession) : Keeps s0 (commitBoundary s a1).pending
    (commitBoundary s a1).mem (commitBoundary s a1).fw (commitBoundary s a1).recSession := by
  unfold commitBoundary
  repeat' (first | with_reducible assumption | with_reducible apply commitUnits_keeps | with_reducible apply updateSlots_keeps |
                  with_reducible apply contextFault_keeps | with_reducible apply applyRequest_keeps | with_reducible apply replan_keeps |
                  with_reducible apply packPool_keeps | with_reducible apply closeEpoch_keeps | with_reducible apply commitShadows_keeps |
                  with_reducible apply evictMarked_keeps | with_reducible apply postOpen_keeps | with_reducible apply post_keeps |
                  with_reducible apply resumeTaken_keeps | with_reducible apply selectEvictions_keeps | with_reducible apply Keeps.foldl |
                  with_reducible apply KeepsP.foldl | with_reducible refine KeepsP.fst (KeepsP.foldl ?_ _ ?_) |
                  with_reducible refine KeepsP.fst (applyRequest_keeps ?_) | with_reducible apply KeepsP.mk |
                  with_reducible apply KeepsX.ok | with_reducible exact KeepsX.error | dsimp only | split |
                  with_reducible refine KeepsX.elim ?_ (by assumption) | with_reducible refine KeepsP.elim ?_ (by assumption) | intro _)

theorem State.modTier_keeps {s0 s : State} {a1 : Bool} {a2 : Nat} {a3 : Tier → Tier} (h : Keeps s0 s.pending s.mem s.fw s.recSession) : Keeps s0
    (State.modTier s a1 a2 a3).pending (State.modTier s a1 a2 a3).mem (State.modTier s a1 a2 a3).fw (State.modTier s a1 a2 a3).recSession := by
  unfold State.modTier
  repeat' (first | with_reducible assumption | dsimp only | split | intro _)

theorem logMemoryN_keeps {s0 s : State} {a1 : Nat} {a2 : Bool} {a3 : Nat} {a4 : Nat} {a5 : Nat} {a6 : Nat} {a7 : Nat} (h : Keeps s0 s.pending s.mem
    s.fw s.recSession) : Keeps s0 (logMemoryN s a1 a2 a3 a4 a5 a6 a7).pending (logMemoryN s a1 a2 a3 a4 a5 a6 a7).mem (logMemoryN s a1 a2 a3 a4 a5 a6
    a7).fw (logMemoryN s a1 a2 a3 a4 a5 a6 a7).recSession := by
  unfold logMemoryN
  repeat' (first | with_reducible assumption | with_reducible apply State.log_keeps | dsimp only | split | intro _)

theorem logMemory_keeps {s0 s : State} {a1 : Nat} {a2 : Bool} {a3 : Nat} {a4 : Nat} {a5 : Nat} {a6 : Nat} (h : Keeps s0 s.pending s.mem s.fw
    s.recSession) : Keeps s0 (logMemory s a1 a2 a3 a4 a5 a6).pending (logMemory s a1 a2 a3 a4 a5 a6).mem (logMemory s a1 a2 a3 a4 a5 a6).fw (logMemory
    s a1 a2 a3 a4 a5 a6).recSession := by
  unfold logMemory
  repeat' (first | with_reducible assumption | with_reducible apply logMemoryN_keeps | dsimp only | split | intro _)

theorem corrected_keeps {s0 s : State} {a1 : Nat} {a2 : Bool} {a3 a4 a5 a6 : Nat} (h : Keeps s0 s.pending s.mem s.fw s.recSession) :
    Keeps s0 (corrected s a1 a2 a3 a4 a5 a6).pending (corrected s a1 a2 a3 a4 a5 a6).mem (corrected s a1 a2 a3 a4 a5 a6).fw
    (corrected s a1 a2 a3 a4 a5 a6).recSession := by
  unfold corrected
  repeat' (first | with_reducible assumption | with_reducible apply State.log_keeps | dsimp only | split)

theorem flushCorrected_keeps {s0 s : State} {a1 : Bool} {a2 : Nat} (h : Keeps s0 s.pending s.mem s.fw s.recSession) : Keeps s0 (flushCorrected s a1
    a2).pending (flushCorrected s a1 a2).mem (flushCorrected s a1 a2).fw (flushCorrected s a1 a2).recSession := by
  unfold flushCorrected
  repeat' (first | with_reducible assumption | with_reducible apply logMemoryN_keeps | with_reducible apply corrected_keeps |
                  with_reducible apply Keeps.foldl | with_reducible apply KeepsP.foldl |
                  with_reducible refine KeepsP.fst (KeepsP.foldl ?_ _ ?_) | dsimp only | split | intro _)

theorem logPath_keeps {s0 s : State} {a1 : Nat} {a2 : Nat} (h : Keeps s0 s.pending s.mem s.fw s.recSession) : Keeps s0 (logPath s a1 a2).pending
    (logPath s a1 a2).mem (logPath s a1 a2).fw (logPath s a1 a2).recSession := by
  unfold logPath
  repeat' (first | with_reducible assumption | with_reducible apply State.log_keeps | dsimp only | split | intro _)

theorem beginMove_keeps {s0 s : State} {cn vp : Nat} (h : Keeps s0 s.pending s.mem s.fw s.recSession) :
    ∀ {l : List (Bool × List Nat)}, KeepsO s0 (beginMove s cn vp l)
  | [] => KeepsO.none
  | (far, dies) :: r => by
    unfold beginMove
    split
    · exact beginMove_keeps h
    · rename_i h'; exact KeepsO.some (State.modCtx_keeps ((takePage_keeps h).elim h'))

theorem moveShadow_keeps {s0 s : State} {a1 : Nat} {a2 : Nat} {a3 : Bool} {a4 : List Nat} (h : Keeps s0 s.pending s.mem s.fw s.recSession) : Keeps s0
    (moveShadow s a1 a2 a3 a4).pending (moveShadow s a1 a2 a3 a4).mem (moveShadow s a1 a2 a3 a4).fw (moveShadow s a1 a2 a3 a4).recSession := by
  unfold moveShadow
  repeat' (first | with_reducible assumption | with_reducible apply takePage_keeps | with_reducible apply releasePage_keeps |
                  with_reducible apply State.modCtx_keeps | with_reducible apply Keeps.foldMem | with_reducible apply Keeps.set |
                  with_reducible apply Keeps.setBytes | with_reducible apply Keeps.erase | with_reducible apply Keeps.copy |
                  with_reducible apply Keeps.nil | with_reducible apply KeepsQ.some | with_reducible exact KeepsQ.none | dsimp only |
                  split | with_reducible refine KeepsQ.elim ?_ (by assumption) | intro _)

theorem moveBackingPage_keeps {s0 s : State} {a1 : Nat} {a2 : Nat} (h : Keeps s0 s.pending s.mem s.fw s.recSession) : Keeps s0 (moveBackingPage s a1
    a2).pending (moveBackingPage s a1 a2).mem (moveBackingPage s a1 a2).fw (moveBackingPage s a1 a2).recSession := by
  unfold moveBackingPage
  repeat' (first | with_reducible assumption | with_reducible apply takePage_keeps | with_reducible apply releasePage_keeps |
                  with_reducible apply State.modCtx_keeps | with_reducible apply KeepsQ.some | with_reducible exact KeepsQ.none |
                  dsimp only | split | with_reducible refine KeepsQ.elim ?_ (by assumption) | intro _)

theorem startMoves_keeps {s0 s : State} (h : Keeps s0 s.pending s.mem s.fw s.recSession) : Keeps s0 (startMoves s).pending (startMoves s).mem
    (startMoves s).fw (startMoves s).recSession := by
  have h1 : ∀ (l : NMap Ctx) (s : State), Keeps s0 s.pending s.mem s.fw s.recSession →
      ∀ t, t = l.foldl (fun s p => (stranded s p.2).foldl (fun s e =>
        match pageOf e.2.phys with
        | none => s
        | some (far, d, _) => (beginMove s p.1 e.1 (moveOrder s far d)).getD s) s) s →
      Keeps s0 t.pending t.mem t.fw t.recSession := fun l s h t e => by
    subst e
    refine Keeps.foldl (fun s x h => Keeps.foldl (fun s y h => ?_) _ h) _ h
    split
    · exact h
    · exact Keeps.getD (beginMove_keeps h) h
  unfold startMoves
  exact Keeps.foldl (fun s x h => Keeps.foldl (fun s y h => moveBackingPage_keeps h) _ h) _
    (Keeps.foldl (fun s x h => Keeps.foldl (fun s y h => moveShadow_keeps h) _ h) _ (h1 _ s h _ rfl))

theorem moveBacking_keeps {s0 s : State} {a1 : Nat} (h : Keeps s0 s.pending s.mem s.fw s.recSession) : Keeps s0 (moveBacking s a1).pending
    (moveBacking s a1).mem (moveBacking s a1).fw (moveBacking s a1).recSession := by
  unfold moveBacking
  repeat' (first | with_reducible assumption | with_reducible apply releasePage_keeps | with_reducible apply takeBacking_keeps |
                  with_reducible apply State.modCtx_keeps | with_reducible apply Keeps.foldl | with_reducible apply KeepsP.foldl |
                  with_reducible refine KeepsP.fst (KeepsP.foldl ?_ _ ?_) | dsimp only | split | intro _)

theorem evacuate_keeps {s0 s : State} {a1 : Bool} {a2 : Nat} (h : Keeps s0 s.pending s.mem s.fw s.recSession) : Keeps s0 (evacuate s a1 a2).pending
    (evacuate s a1 a2).mem (evacuate s a1 a2).fw (evacuate s a1 a2).recSession := by
  unfold evacuate
  repeat' (first | with_reducible assumption | with_reducible apply logMemory_keeps | with_reducible apply startMoves_keeps |
                  with_reducible apply moveBacking_keeps | with_reducible apply State.modTier_keeps | dsimp only | split | intro _)

theorem moveAway_keeps {s0 s : State} {a1 : Bool} {a2 : Nat} {a3 : List Nat} (h : Keeps s0 s.pending s.mem s.fw s.recSession) : Keeps s0 (moveAway s
    a1 a2 a3).pending (moveAway s a1 a2 a3).mem (moveAway s a1 a2 a3).fw (moveAway s a1 a2 a3).recSession := by
  unfold moveAway
  repeat' (first | with_reducible assumption | with_reducible apply beginMove_keeps | with_reducible apply moveShadow_keeps |
                  with_reducible apply moveBackingPage_keeps | with_reducible apply Keeps.getD | with_reducible apply KeepsO.some |
                  with_reducible exact KeepsO.none | dsimp only | split | with_reducible refine KeepsO.elim ?_ (by assumption) | intro _)

theorem poisonLine_keeps {s0 s : State} {a1 : Nat} {a2 : Nat} {a3 : Nat} (h : Keeps s0 s.pending s.mem s.fw s.recSession) : Keeps s0 (poisonLine s a1
    a2 a3).pending (poisonLine s a1 a2 a3).mem (poisonLine s a1 a2 a3).fw (poisonLine s a1 a2 a3).recSession := by
  unfold poisonLine
  repeat' (first | with_reducible assumption | with_reducible apply postNotice_keeps | with_reducible apply State.setCtx_keeps |
                  with_reducible apply State.logRec_keeps | with_reducible apply State.sendSquall_keeps | with_reducible apply Keeps.getD |
                  dsimp only | split | intro _)

theorem lineError_keeps {s0 s : State} {a1 : Nat} {a2 : Nat} {a3 : Nat} {a4 : Nat} (h : Keeps s0 s.pending s.mem s.fw s.recSession) : Keeps s0
    (lineError s a1 a2 a3 a4).pending (lineError s a1 a2 a3 a4).mem (lineError s a1 a2 a3 a4).fw (lineError s a1 a2 a3 a4).recSession := by
  unfold lineError
  repeat' (first | with_reducible assumption | with_reducible apply poisonLine_keeps | with_reducible apply State.setCtx_keeps |
                  with_reducible apply State.sendSquall_keeps | dsimp only | split | intro _)

theorem startReset_keeps {s0 s : State} {a1 : ResetDomain} (h : Keeps s0 s.pending s.mem s.fw s.recSession) : Keeps s0 (startReset s a1).pending
    (startReset s a1).mem (startReset s a1).fw (startReset s a1).recSession := by
  unfold startReset
  repeat' (first | with_reducible assumption | dsimp only | split | intro _)

theorem declareDead_keeps {s0 s : State} {a1 : Nat} {a2 : Nat} {a3 : Nat} (h : Keeps s0 s.pending s.mem s.fw s.recSession) : Keeps s0 (declareDead s
    a1 a2 a3).pending (declareDead s a1 a2 a3).mem (declareDead s a1 a2 a3).fw (declareDead s a1 a2 a3).recSession := by
  unfold declareDead
  repeat' (first | with_reducible assumption | with_reducible apply logMemory_keeps | with_reducible apply State.modTier_keeps |
                  with_reducible apply Keeps.getD | dsimp only | split | intro _)

theorem checkChannel_keeps {s0 s : State} {a1 : Nat} {a2 : Nat} (h : Keeps s0 s.pending s.mem s.fw s.recSession) : Keeps s0 (checkChannel s a1
    a2).pending (checkChannel s a1 a2).mem (checkChannel s a1 a2).fw (checkChannel s a1 a2).recSession := by
  unfold checkChannel
  repeat' (first | with_reducible assumption | with_reducible apply evacuate_keeps | with_reducible apply Keeps.getD | dsimp only | split |
                  intro _)

theorem backingError_keeps {s0 s : State} {a1 : Nat} {a2 : Nat} (h : Keeps s0 s.pending s.mem s.fw s.recSession) : Keeps s0 (backingError s a1
    a2).pending (backingError s a1 a2).mem (backingError s a1 a2).fw (backingError s a1 a2).recSession := by
  unfold backingError
  repeat' (first | with_reducible assumption | with_reducible apply State.sendSquall_keeps | dsimp only | split | intro _)

theorem capture_keeps {s0 s : State} {a1 : Nat} {a2 : Nat} {a3 : Nat} {a4 : List Nat} {a5 : List Nat} (h : Keeps s0 s.pending s.mem s.fw s.recSession)
    : Keeps s0 (capture s a1 a2 a3 a4 a5).pending (capture s a1 a2 a3 a4 a5).mem (capture s a1 a2 a3 a4 a5).fw (capture s a1 a2 a3 a4 a5).recSession
    := by
  unfold capture
  repeat' (first | with_reducible assumption | with_reducible apply State.logRec_keeps | with_reducible apply Keeps.foldl |
                  with_reducible apply KeepsP.foldl | with_reducible refine KeepsP.fst (KeepsP.foldl ?_ _ ?_) |
                  with_reducible apply Keeps.foldMem | with_reducible apply Keeps.set | with_reducible apply Keeps.setBytes |
                  with_reducible apply Keeps.erase | with_reducible apply Keeps.copy | with_reducible apply Keeps.nil | dsimp only | split |
                  intro _)

theorem captureDie_keeps {s0 s : State} {a1 : Nat} {a2 : Nat} {a3 : Nat} (h : Keeps s0 s.pending s.mem s.fw s.recSession) : Keeps s0 (captureDie s a1
    a2 a3).pending (captureDie s a1 a2 a3).mem (captureDie s a1 a2 a3).fw (captureDie s a1 a2 a3).recSession := by
  unfold captureDie
  repeat' (first | with_reducible assumption | with_reducible apply capture_keeps | dsimp only | split | intro _)

theorem dropUnits_keeps {s0 s : State} {a1 : Nat → Bool} (h : Keeps s0 s.pending s.mem s.fw s.recSession) : Keeps s0 (dropUnits s a1).pending
    (dropUnits s a1).mem (dropUnits s a1).fw (dropUnits s a1).recSession := by
  unfold dropUnits
  repeat' (first | with_reducible assumption | dsimp only | split | intro _)

theorem squall2_keeps {s0 s : State} {a1 : Nat} {a2 : Nat} (h : Keeps s0 s.pending s.mem s.fw s.recSession) : Keeps s0 (squall2 s a1 a2).pending
    (squall2 s a1 a2).mem (squall2 s a1 a2).fw (squall2 s a1 a2).recSession := by
  unfold squall2
  repeat' (first | with_reducible assumption | with_reducible apply State.sendSquall_keeps | dsimp only | split | intro _)

theorem logMaint_keeps {s0 s : State} {a1 : Nat} {a2 : Nat} {a3 : Nat} (h : Keeps s0 s.pending s.mem s.fw s.recSession) : Keeps s0 (logMaint s a1 a2
    a3).pending (logMaint s a1 a2 a3).mem (logMaint s a1 a2 a3).fw (logMaint s a1 a2 a3).recSession := by
  unfold logMaint
  repeat' (first | with_reducible assumption | with_reducible apply State.logRec_keeps | dsimp only | split | intro _)

theorem abortMaint_keeps {s0 s : State} {a1 : ResetDomain} (h : Keeps s0 s.pending s.mem s.fw s.recSession) : Keeps s0 (abortMaint s a1).pending
    (abortMaint s a1).mem (abortMaint s a1).fw (abortMaint s a1).recSession := by
  unfold abortMaint
  repeat' (first | with_reducible assumption | with_reducible apply logMaint_keeps | with_reducible apply Keeps.foldl |
                  with_reducible apply KeepsP.foldl | with_reducible refine KeepsP.fst (KeepsP.foldl ?_ _ ?_) | dsimp only | split |
                  intro _)

theorem dieReset_keeps {s0 s : State} {a1 : Nat} (h : Keeps s0 s.pending s.mem s.fw s.recSession) : Keeps s0 (dieReset s a1).pending (dieReset s
    a1).mem (dieReset s a1).fw (dieReset s a1).recSession := by
  unfold dieReset
  repeat' (first | with_reducible assumption | with_reducible apply captureDie_keeps | with_reducible apply dropUnits_keeps |
                  with_reducible apply squall2_keeps | with_reducible apply abortMaint_keeps | with_reducible apply State.logRec_keeps |
                  dsimp only | split | intro _)

theorem afterReset_keeps {s0 s : State} {a1 : BootStage} (h : Keeps s0 s.pending s.mem s.fw s.recSession) :
    Keeps s0 (afterReset s a1).pending (afterReset s a1).mem (afterReset s a1).fw (afterReset s a1).recSession := by
  unfold afterReset
  refine ⟨h.1, fun i => Memory.wf_filter (h.2.1 i) isSillage, fun i => imagesWf_iff.2 ?_⟩
  have w := imagesWf_iff.1 (h.2.2 i)
  exact ⟨w.1, w.2.1, rfl, fun x e => by cases e⟩

theorem moduleReset_keeps {s0 s : State} {a1 : BootStage} {a2 : Bool} {a3 : Nat} (h : Keeps s0 s.pending s.mem s.fw s.recSession) : Keeps s0
    (moduleReset s a1 a2 a3).pending (moduleReset s a1 a2 a3).mem (moduleReset s a1 a2 a3).fw (moduleReset s a1 a2 a3).recSession := by
  unfold moduleReset
  repeat' (first | with_reducible assumption | with_reducible apply captureDie_keeps | with_reducible apply afterReset_keeps |
                  with_reducible apply State.logRec_keeps | with_reducible apply Keeps.foldl | with_reducible apply KeepsP.foldl |
                  with_reducible refine KeepsP.fst (KeepsP.foldl ?_ _ ?_) | dsimp only | split | intro _)

theorem bothLost_keeps {s0 s : State} (h : Keeps s0 s.pending s.mem s.fw s.recSession) : Keeps s0 (bothLost s).pending (bothLost s).mem (bothLost
    s).fw (bothLost s).recSession := by
  unfold bothLost
  repeat' (first | with_reducible assumption | with_reducible apply moduleReset_keeps | dsimp only | split | intro _)

theorem uncorrectedLine_keeps {s0 s : State} {far : Bool} {die chan phys : Nat} {f : State → Nat → State} {g : State → State}
    (hf : ∀ s d, Keeps s0 s.pending s.mem s.fw s.recSession → Keeps s0 (f s d).pending (f s d).mem (f s d).fw (f s d).recSession)
    (hg : ∀ s, Keeps s0 s.pending s.mem s.fw s.recSession → Keeps s0 (g s).pending (g s).mem (g s).fw (g s).recSession)
    (h : Keeps s0 s.pending s.mem s.fw s.recSession) :
    Keeps s0 (uncorrectedLine s far die chan phys f g).pending (uncorrectedLine s far die chan phys f g).mem
    (uncorrectedLine s far die chan phys f g).fw (uncorrectedLine s far die chan phys f g).recSession := by
  unfold uncorrectedLine
  repeat' (first | exact hf _ _ (logMemory_keeps h) | exact State.tick_keeps (corrected_keeps h) | exact hg _ (State.tick_keeps (logMemory_keeps h)) | exact logMemory_keeps h |
                  exact State.tick_keeps (logMemory_keeps h) | exact backingError_keeps (logMemory_keeps h) |
                  exact lineError_keeps (logMemory_keeps h) | dsimp only | split)

theorem captureCluster_keeps {s0 s : State} {a1 : UnitId} (h : Keeps s0 s.pending s.mem s.fw s.recSession) : Keeps s0 (captureCluster s a1).pending
    (captureCluster s a1).mem (captureCluster s a1).fw (captureCluster s a1).recSession := by
  unfold captureCluster
  repeat' (first | with_reducible assumption | with_reducible apply capture_keeps | dsimp only | split | intro _)

theorem stopTasks_keeps {s0 s : State} {a1 : Nat} (h : Keeps s0 s.pending s.mem s.fw s.recSession) : Keeps s0 (stopTasks s a1).pending (stopTasks s
    a1).mem (stopTasks s a1).fw (stopTasks s a1).recSession := by
  unfold stopTasks
  repeat' (first | with_reducible assumption | dsimp only | split | intro _)

theorem abortEpoch_keeps {s0 s : State} {a1 : Nat} {a2 : Bool} (h : Keeps s0 s.pending s.mem s.fw s.recSession) : Keeps s0 (abortEpoch s a1
    a2).pending (abortEpoch s a1 a2).mem (abortEpoch s a1 a2).fw (abortEpoch s a1 a2).recSession := by
  unfold abortEpoch
  repeat' (first | with_reducible assumption | with_reducible apply stopTasks_keeps | with_reducible apply State.setCtx_keeps |
                  with_reducible apply State.logRec_keeps | dsimp only | split | intro _)

theorem dropShadows_keeps {s0 s : State} {a1 : Nat} (h : Keeps s0 s.pending s.mem s.fw s.recSession) : Keeps s0 (dropShadows s a1).pending
    (dropShadows s a1).mem (dropShadows s a1).fw (dropShadows s a1).recSession := by
  unfold dropShadows
  repeat' (first | with_reducible assumption | with_reducible apply recyclePage_keeps | with_reducible apply State.modCtx_keeps |
                  with_reducible apply Keeps.foldl | with_reducible apply KeepsP.foldl |
                  with_reducible refine KeepsP.fst (KeepsP.foldl ?_ _ ?_) | dsimp only | split | intro _)

theorem discardEpoch_keeps {s0 s : State} {a1 : Nat} {a2 : Epoch} (h : Keeps s0 s.pending s.mem s.fw s.recSession) : Keeps s0 (discardEpoch s a1
    a2).pending (discardEpoch s a1 a2).mem (discardEpoch s a1 a2).fw (discardEpoch s a1 a2).recSession := by
  unfold discardEpoch
  repeat' (first | with_reducible assumption | with_reducible apply kvRestore_keeps | with_reducible apply restoreUnits_keeps |
                  with_reducible apply dropShadows_keeps | with_reducible apply State.modCtx_keeps | with_reducible apply KeepsX.ok |
                  with_reducible exact KeepsX.error | dsimp only | split | with_reducible refine KeepsX.elim ?_ (by assumption) | intro _)

theorem resumePaused_keeps {s0 s : State} (h : Keeps s0 s.pending s.mem s.fw s.recSession) : Keeps s0 (resumePaused s).pending (resumePaused s).mem
    (resumePaused s).fw (resumePaused s).recSession := by
  unfold resumePaused
  repeat' (first | with_reducible assumption | with_reducible apply Keeps.foldl | with_reducible apply KeepsP.foldl |
                  with_reducible refine KeepsP.fst (KeepsP.foldl ?_ _ ?_) | dsimp only | split | intro _)

theorem partReset_keeps {s0 s : State} {a1 : Nat} (h : Keeps s0 s.pending s.mem s.fw s.recSession) : Keeps s0 (partReset s a1).pending (partReset s
    a1).mem (partReset s a1).fw (partReset s a1).recSession := by
  unfold partReset
  repeat' (first | with_reducible assumption | with_reducible apply captureDie_keeps | with_reducible apply dropUnits_keeps |
                  with_reducible apply squall2_keeps | with_reducible apply abortMaint_keeps | with_reducible apply State.logRec_keeps |
                  with_reducible apply Keeps.foldl | with_reducible apply KeepsP.foldl |
                  with_reducible refine KeepsP.fst (KeepsP.foldl ?_ _ ?_) | dsimp only | split | intro _)

theorem finishAbort_keeps {s0 s : State} {a1 : Nat} {a2 : Epoch} (h : Keeps s0 s.pending s.mem s.fw s.recSession) : Keeps s0 (finishAbort s a1
    a2).pending (finishAbort s a1 a2).mem (finishAbort s a1 a2).fw (finishAbort s a1 a2).recSession := by
  unfold finishAbort
  repeat' (first | with_reducible assumption | with_reducible apply replan_keeps | with_reducible apply excludePersistent_keeps |
                  with_reducible apply discardEpoch_keeps | with_reducible apply taskWrite_keeps | with_reducible apply partReset_keeps |
                  with_reducible apply State.setCtx_keeps | with_reducible apply State.logRec_keeps | with_reducible apply KeepsX.ok |
                  with_reducible exact KeepsX.error | dsimp only | split | with_reducible refine KeepsX.elim ?_ (by assumption) | intro _)

theorem beginDrydown_keeps {s0 s : State} {a1 : Nat} (h : Keeps s0 s.pending s.mem s.fw s.recSession) : Keeps s0 (beginDrydown s a1).pending
    (beginDrydown s a1).mem (beginDrydown s a1).fw (beginDrydown s a1).recSession := by
  unfold beginDrydown
  repeat' (first | with_reducible assumption | with_reducible apply dropTx_keeps | with_reducible apply kvHalt_keeps |
                  with_reducible apply State.setCtx_keeps | with_reducible apply State.logRec_keeps |
                  with_reducible apply State.sendSquall_keeps | with_reducible apply Keeps.getD | dsimp only | split | intro _)

theorem drainDetach_keeps {s0 s : State} {a1 : Nat} (h : Keeps s0 s.pending s.mem s.fw s.recSession) : Keeps s0 (drainDetach s a1).pending
    (drainDetach s a1).mem (drainDetach s a1).fw (drainDetach s a1).recSession := by
  unfold drainDetach
  repeat' (first | with_reducible assumption | with_reducible apply beginDrydown_keeps | dsimp only | split | intro _)

theorem takeSquall_keeps {s0 s : State} {p : Squall → Bool} (h : Keeps s0 s.pending s.mem s.fw s.recSession) : KeepsQ s0 (takeSquall s p) := by
  unfold takeSquall
  intro t b e
  simp only [Option.map_eq_some_iff, Prod.mk.injEq] at e
  obtain ⟨q, -, rfl, -⟩ := e
  exact h

theorem stopIsland_keeps {s0 s : State} {a1 : Nat} {a2 : Nat} {a3 : Nat} (h : Keeps s0 s.pending s.mem s.fw s.recSession) : Keeps s0 (stopIsland s a1
    a2 a3).pending (stopIsland s a1 a2 a3).mem (stopIsland s a1 a2 a3).fw (stopIsland s a1 a2 a3).recSession := by
  unfold stopIsland
  repeat' (first | with_reducible assumption | with_reducible apply unitStrike_keeps | dsimp only | split | intro _)

theorem kvHaltAll_keeps {s0 s : State} (h : Keeps s0 s.pending s.mem s.fw s.recSession) : Keeps s0 (kvHaltAll s).pending (kvHaltAll s).mem (kvHaltAll
    s).fw (kvHaltAll s).recSession := by
  unfold kvHaltAll
  repeat' (first | with_reducible assumption | with_reducible apply kvHalt_keeps | with_reducible apply Keeps.foldl |
                  with_reducible apply KeepsP.foldl | with_reducible refine KeepsP.fst (KeepsP.foldl ?_ _ ?_) | dsimp only | split |
                  intro _)

theorem farWord_keeps {s0 s : State} {a1 : Nat} {a2 : Nat} {a3 : Nat} {a4 : List Nat} {a5 : List (List Nat)} (h : Keeps s0 s.pending s.mem s.fw
    s.recSession) : Keeps s0 (farWord s a1 a2 a3 a4 a5).pending (farWord s a1 a2 a3 a4 a5).mem (farWord s a1 a2 a3 a4 a5).fw (farWord s a1 a2 a3 a4
    a5).recSession := by
  unfold farWord
  repeat' (first | with_reducible assumption | with_reducible apply corrected_keeps | with_reducible apply uncorrectedLine_keeps |
                  with_reducible apply dieReset_keeps | with_reducible apply bothLost_keeps | with_reducible apply Keeps.getD | dsimp only |
                  split | intro _)

theorem encryptionMismatch_keeps {s0 s : State} {a1 : Nat} {a2 : Nat} (h : Keeps s0 s.pending s.mem s.fw s.recSession) : Keeps s0 (encryptionMismatch
    s a1 a2).pending (encryptionMismatch s a1 a2).mem (encryptionMismatch s a1 a2).fw (encryptionMismatch s a1 a2).recSession := by
  unfold encryptionMismatch
  repeat' (first | with_reducible assumption | with_reducible apply State.log_keeps | with_reducible apply State.sendSquall_keeps |
                  dsimp only | split | intro _)

theorem logStep_keeps {s0 s : State} {a1 : Nat} (h : Keeps s0 s.pending s.mem s.fw s.recSession) : Keeps s0 (logStep s a1).pending (logStep s a1).mem
    (logStep s a1).fw (logStep s a1).recSession := by
  unfold logStep
  repeat' (first | with_reducible assumption | with_reducible apply State.logMgmt_keeps | dsimp only | split | intro _)

theorem fwStart_keeps {s0 s : State} (h : Keeps s0 s.pending s.mem s.fw s.recSession) :
    Keeps s0 (fwStart s).pending (fwStart s).mem (fwStart s).fw (fwStart s).recSession := by
  unfold fwStart
  dsimp only
  split
  · exact ⟨h.1, h.2.1, fun i => imagesWf_iff.2 ⟨(imagesWf_iff.1 (h.2.2 i)).1, (imagesWf_iff.1 (h.2.2 i)).2.1, rfl, (imagesWf_iff.1 (h.2.2 i)).2.2.2⟩⟩
  · have k := logStep_keeps (a1 := 3) (logStep_keeps (a1 := 2) (logStep_keeps (a1 := 1) h))
    refine ⟨k.1, k.2.1, fun i => imagesWf_iff.2 ?_⟩
    have w := imagesWf_iff.1 (k.2.2 i)
    exact ⟨Memory.wf_filter w.2.2.1 (fun c => decide (bodyAt ≤ c)), w.2.1, w.2.2.1, w.2.2.2⟩

theorem fwDone_keeps {s0 s : State} (h : Keeps s0 s.pending s.mem s.fw s.recSession) :
    Keeps s0 (fwDone s).pending (fwDone s).mem (fwDone s).fw (fwDone s).recSession := by
  have k := logStep_keeps (a1 := 4) h
  have f : Keeps s0 (logStep s 4).pending (logStep s 4).mem { (logStep s 4).fw with
        flash := (logStep s 4).fw.staged, updStep := 4, updStatus := 0, updLen := none, staged := [] }
      (logStep s 4).recSession := by
    refine ⟨k.1, k.2.1, fun i => imagesWf_iff.2 ?_⟩
    have w := imagesWf_iff.1 (k.2.2 i)
    exact ⟨w.2.2.1, w.2.1, rfl, w.2.2.2⟩
  unfold fwDone
  split
  · exact h
  · dsimp only
    split
    · exact moduleReset_keeps f
    · exact f

theorem maintBegin_keeps {s0 s : State} {a1 : Maint} (h : Keeps s0 s.pending s.mem s.fw s.recSession) : Keeps s0 (maintBegin s a1).pending (maintBegin
    s a1).mem (maintBegin s a1).fw (maintBegin s a1).recSession := by
  unfold maintBegin
  repeat' (first | with_reducible assumption | with_reducible apply fwStart_keeps | dsimp only | split | intro _)

theorem pausePeriodic_keeps {s0 s : State} {a1 : Nat} {a2 : Nat} (h : Keeps s0 s.pending s.mem s.fw s.recSession) : Keeps s0 (pausePeriodic s a1
    a2).pending (pausePeriodic s a1 a2).mem (pausePeriodic s a1 a2).fw (pausePeriodic s a1 a2).recSession := by
  unfold pausePeriodic
  repeat' (first | with_reducible assumption | with_reducible apply logMaint_keeps | with_reducible apply Keeps.foldl |
                  with_reducible apply KeepsP.foldl | with_reducible refine KeepsP.fst (KeepsP.foldl ?_ _ ?_) | dsimp only | split |
                  intro _)

theorem maintRequest_keeps {s0 s : State} {a1 : Nat} {a2 : Nat} {a3 : Bool} (h : Keeps s0 s.pending s.mem s.fw s.recSession) : KeepsP s0 (maintRequest
    s a1 a2 a3) := by
  unfold maintRequest
  repeat' (first | with_reducible assumption | with_reducible apply maintBegin_keeps | with_reducible apply pausePeriodic_keeps |
                  with_reducible apply KeepsP.mk | dsimp only | split | with_reducible refine KeepsP.elim ?_ (by assumption) | intro _)

theorem maintAsk_keeps {s0 s : State} {a1 : Nat} {a2 : Nat} {a3 : Bool} (h : Keeps s0 s.pending s.mem s.fw s.recSession) : KeepsP s0 (maintAsk s a1 a2
    a3) := by
  unfold maintAsk
  repeat' (first | with_reducible assumption | with_reducible apply maintRequest_keeps | with_reducible apply logMaint_keeps |
                  with_reducible refine KeepsP.fst (maintRequest_keeps ?_) | with_reducible apply KeepsP.mk | dsimp only | split |
                  with_reducible refine KeepsP.elim ?_ (by assumption) | intro _)

theorem viaFound_keeps {s0 s : State} {a1 : Nat} {a2 : List Nat} (h : Keeps s0 s.pending s.mem s.fw s.recSession) : Keeps s0 (viaFound s a1
    a2).pending (viaFound s a1 a2).mem (viaFound s a1 a2).fw (viaFound s a1 a2).recSession := by
  unfold viaFound
  repeat' (first | with_reducible assumption | with_reducible apply checkChannel_keeps | with_reducible apply declareDead_keeps |
                  with_reducible apply Keeps.foldl | with_reducible apply KeepsP.foldl |
                  with_reducible refine KeepsP.fst (KeepsP.foldl ?_ _ ?_) | dsimp only | split | intro _)

theorem lanesFound_keeps {s0 s : State} {a1 : Nat} {a2 : List Nat} (h : Keeps s0 s.pending s.mem s.fw s.recSession) : Keeps s0 (lanesFound s a1
    a2).pending (lanesFound s a1 a2).mem (lanesFound s a1 a2).fw (lanesFound s a1 a2).recSession := by
  unfold lanesFound
  repeat' (first | with_reducible assumption | with_reducible apply logMemory_keeps | with_reducible apply evacuate_keeps |
                  with_reducible apply State.modTier_keeps | with_reducible apply Keeps.foldl | with_reducible apply KeepsP.foldl |
                  with_reducible refine KeepsP.fst (KeepsP.foldl ?_ _ ?_) | with_reducible apply Keeps.getD | dsimp only | split | intro _)

theorem replayLost_keeps {s0 s : State} {a1 : Nat} {a2 : Nat} {a3 : Nat → Bool} (h : Keeps s0 s.pending s.mem s.fw s.recSession) : Keeps s0
    (replayLost s a1 a2 a3).pending (replayLost s a1 a2 a3).mem (replayLost s a1 a2 a3).fw (replayLost s a1 a2 a3).recSession := by
  unfold replayLost
  repeat' (first | with_reducible assumption | with_reducible apply State.sendSquall_keeps | with_reducible apply Keeps.foldl |
                  with_reducible apply KeepsP.foldl | with_reducible refine KeepsP.fst (KeepsP.foldl ?_ _ ?_) | dsimp only | split |
                  intro _)

theorem excludeEdge_keeps {s0 s : State} {a1 : Nat} {a2 : Nat} {a3 : Nat} (h : Keeps s0 s.pending s.mem s.fw s.recSession) : Keeps s0 (excludeEdge s
    a1 a2 a3).pending (excludeEdge s a1 a2 a3).mem (excludeEdge s a1 a2 a3).fw (excludeEdge s a1 a2 a3).recSession := by
  unfold excludeEdge
  repeat' (first | with_reducible assumption | with_reducible apply replayLost_keeps | with_reducible apply notice_keeps |
                  with_reducible apply logExclusion_keeps | with_reducible apply excludeDie_keeps | with_reducible apply Keeps.foldl |
                  with_reducible apply KeepsP.foldl | with_reducible refine KeepsP.fst (KeepsP.foldl ?_ _ ?_) | dsimp only | split |
                  intro _)

theorem writeWatch_keeps {s0 s : State} {a1 : Nat} (h : Keeps s0 s.pending s.mem s.fw s.recSession) : Keeps s0 (writeWatch s a1).pending (writeWatch s
    a1).mem (writeWatch s a1).fw (writeWatch s a1).recSession := by
  unfold writeWatch
  repeat' (first | with_reducible assumption | with_reducible apply Keeps.foldl | with_reducible apply KeepsP.foldl |
                  with_reducible refine KeepsP.fst (KeepsP.foldl ?_ _ ?_) | dsimp only | split | intro _)

theorem takeMode_keeps {s0 s : State} {a1 : Nat} (h : Keeps s0 s.pending s.mem s.fw s.recSession) : Keeps s0 (takeMode s a1).pending (takeMode s
    a1).mem (takeMode s a1).fw (takeMode s a1).recSession := by
  unfold takeMode
  repeat' (first | with_reducible assumption | with_reducible apply Keeps.foldl | with_reducible apply KeepsP.foldl |
                  with_reducible refine KeepsP.fst (KeepsP.foldl ?_ _ ?_) | dsimp only | split | intro _)

theorem writePortmode_keeps {s0 s : State} {a1 : Nat} (h : Keeps s0 s.pending s.mem s.fw s.recSession) : Keeps s0 (writePortmode s a1).pending
    (writePortmode s a1).mem (writePortmode s a1).fw (writePortmode s a1).recSession := by
  unfold writePortmode
  repeat' (first | with_reducible assumption | with_reducible apply takeMode_keeps | with_reducible apply Keeps.foldl |
                  with_reducible apply KeepsP.foldl | with_reducible refine KeepsP.fst (KeepsP.foldl ?_ _ ?_) | dsimp only | split |
                  intro _)

theorem writeColyr_keeps {s0 s : State} {a1 : Nat} {a2 : Word64} (h : Keeps s0 s.pending s.mem s.fw s.recSession) : Keeps s0 (writeColyr s a1
    a2).pending (writeColyr s a1 a2).mem (writeColyr s a1 a2).fw (writeColyr s a1 a2).recSession := by
  unfold writeColyr
  repeat' (first | with_reducible assumption | with_reducible apply writePortmode_keeps | with_reducible apply writeWatch_keeps |
                  dsimp only | split | intro _)

theorem dropFrame_keeps {s0 s : State} {a1 : Nat} (h : Keeps s0 s.pending s.mem s.fw s.recSession) : Keeps s0 (dropFrame s a1).pending (dropFrame s
    a1).mem (dropFrame s a1).fw (dropFrame s a1).recSession := by
  unfold dropFrame
  repeat' (first | with_reducible assumption | with_reducible apply modPort_keeps | dsimp only | split | intro _)

theorem losslessArrival_keeps {s0 s : State} {a1 : Nat} {a2 : Nat} (h : Keeps s0 s.pending s.mem s.fw s.recSession) : KeepsP s0 (losslessArrival s a1
    a2) := by
  unfold losslessArrival
  repeat' (first | with_reducible assumption | with_reducible apply dropFrame_keeps | with_reducible apply modPort_keeps |
                  with_reducible apply State.emit_keeps | with_reducible apply KeepsP.mk | dsimp only | split |
                  with_reducible refine KeepsP.elim ?_ (by assumption) | intro _)

theorem sharedArrival_keeps {s0 s : State} {a1 : Nat} {a2 : Nat} (h : Keeps s0 s.pending s.mem s.fw s.recSession) : KeepsP s0 (sharedArrival s a1 a2)
    := by
  unfold sharedArrival
  repeat' (first | with_reducible assumption | with_reducible apply dropFrame_keeps | with_reducible apply modPort_keeps |
                  with_reducible apply KeepsP.mk | dsimp only | split | with_reducible refine KeepsP.elim ?_ (by assumption) | intro _)

theorem arrive_keeps {s0 s : State} {a1 : Nat} {a2 : FrameInfo} (h : Keeps s0 s.pending s.mem s.fw s.recSession) : KeepsP s0 (arrive s a1 a2) := by
  unfold arrive
  repeat' (first | with_reducible assumption | with_reducible apply dropFrame_keeps | with_reducible apply losslessArrival_keeps |
                  with_reducible apply sharedArrival_keeps | with_reducible refine KeepsP.fst (losslessArrival_keeps ?_) |
                  with_reducible refine KeepsP.fst (sharedArrival_keeps ?_) | with_reducible apply KeepsP.mk | dsimp only | split |
                  with_reducible refine KeepsP.elim ?_ (by assumption) | intro _)

theorem protect_keeps {s0 s : State} {a1 : Nat} {a2 : HostRec} {a3 : FrameInfo} {a4 : Bool} (h : Keeps s0 s.pending s.mem s.fw s.recSession) : KeepsP
    s0 (protect s a1 a2 a3 a4) := by
  unfold protect
  repeat' (first | with_reducible assumption | with_reducible apply dropFrame_keeps | with_reducible apply State.setHost_keeps |
                  with_reducible apply KeepsP.mk | dsimp only | split | with_reducible refine KeepsP.elim ?_ (by assumption) | intro _)

theorem portFrame_keeps {s0 s : State} {port : Nat} {f : FrameInfo} {x : Bool} {k : State → State}
    (hk : ∀ s, Keeps s0 s.pending s.mem s.fw s.recSession → Keeps s0 (k s).pending (k s).mem (k s).fw (k s).recSession)
    (h : Keeps s0 s.pending s.mem s.fw s.recSession) :
    Keeps s0 (portFrame s port f x k).pending (portFrame s port f x k).mem (portFrame s port f x k).fw (portFrame s port f x k).recSession := by
  have ha : Keeps s0 (arrive s port f).1.pending (arrive s port f).1.mem (arrive s port f).1.fw (arrive s port f).1.recSession :=
    KeepsP.fst (arrive_keeps h)
  unfold portFrame
  repeat' (first | exact h | exact ha | exact dropFrame_keeps ha | exact hk _ ha | exact hk _ (KeepsP.fst (protect_keeps ha)) |
    exact KeepsP.fst (protect_keeps ha) | dsimp only | split)

theorem hostFrame_keeps {s0 s : State} {slot : Nat} {f : FrameInfo} {held : Bool} {k : State → HostRec → State}
    (hk : ∀ s x, Keeps s0 s.pending s.mem s.fw s.recSession → Keeps s0 (k s x).pending (k s x).mem (k s x).fw (k s x).recSession)
    (h : Keeps s0 s.pending s.mem s.fw s.recSession) :
    Keeps s0 (hostFrame s slot f held k).pending (hostFrame s slot f held k).mem (hostFrame s slot f held k).fw
    (hostFrame s slot f held k).recSession := by
  unfold hostFrame
  split
  · exact h
  · rename_i x _
    have ha : Keeps s0 (arrive s x.port f).1.pending (arrive s x.port f).1.mem (arrive s x.port f).1.fw (arrive s x.port f).1.recSession :=
      KeepsP.fst (arrive_keeps h)
    have hp := KeepsP.fst (protect_keeps (a1 := slot) (a2 := x) (a3 := f) (a4 := false) ha)
    split
    · exact h
    · dsimp only
      split
      · exact ha
      · split
        · exact hp
        · have hc : ∀ t, t = (if (f.ce && f.cnpDue) = true then
              (protect (arrive s x.port f).1 slot x f false).1.toHost slot none none (.cnp slot)
              else (protect (arrive s x.port f).1 slot x f false).1) → Keeps s0 t.pending t.mem t.fw t.recSession := fun t e => by
            subst e
            split
            · exact State.toHost_keeps hp
            · exact hp
          split
          · exact hc _ rfl
          · exact hk _ _ (hc _ rfl)

theorem drainPort_keeps {s0 s : State} {a1 : Nat} (h : Keeps s0 s.pending s.mem s.fw s.recSession) : Keeps s0 (drainPort s a1).pending (drainPort s
    a1).mem (drainPort s a1).fw (drainPort s a1).recSession := by
  unfold drainPort
  repeat' (first | with_reducible assumption | with_reducible apply modPort_keeps | with_reducible apply State.emit_keeps |
                  with_reducible apply Keeps.foldl | with_reducible apply KeepsP.foldl |
                  with_reducible refine KeepsP.fst (KeepsP.foldl ?_ _ ?_) | dsimp only | split | intro _)

theorem sendSegs_keeps {s0 s : State} {a1 : Nat} {a2 : Option Nat} {a3 : List Bytes} (h : Keeps s0 s.pending s.mem s.fw s.recSession) : Keeps s0
    (sendSegs s a1 a2 a3).pending (sendSegs s a1 a2 a3).mem (sendSegs s a1 a2 a3).fw (sendSegs s a1 a2 a3).recSession := by
  unfold sendSegs
  repeat' (first | with_reducible assumption | with_reducible apply State.sendItem_keeps | dsimp only | split | intro _)

theorem sendMessage_keeps {s0 s : State} {a1 : Nat} {a2 : Nat} {a3 : Bytes} (h : Keeps s0 s.pending s.mem s.fw s.recSession) : Keeps s0 (sendMessage s
    a1 a2 a3).pending (sendMessage s a1 a2 a3).mem (sendMessage s a1 a2 a3).fw (sendMessage s a1 a2 a3).recSession := by
  unfold sendMessage
  repeat' (first | with_reducible assumption | with_reducible apply sendSegs_keeps | with_reducible apply State.setHost_keeps | dsimp only |
                  split | intro _)

theorem answer_keeps {s0 s : State} {a1 : Nat} {a2 : Nat} {a3 : Nat} {a4 : Bytes} (h : Keeps s0 s.pending s.mem s.fw s.recSession) : Keeps s0 (answer
    s a1 a2 a3 a4).pending (answer s a1 a2 a3 a4).mem (answer s a1 a2 a3 a4).fw (answer s a1 a2 a3 a4).recSession := by
  unfold answer
  repeat' (first | with_reducible assumption | with_reducible apply sendSegs_keeps | with_reducible apply State.setHost_keeps | dsimp only |
                  split | intro _)

theorem refuseHost_keeps {s0 s : State} {a1 : Nat} {a2 : Nat} {a3 : Nat} (h : Keeps s0 s.pending s.mem s.fw s.recSession) : Keeps s0 (refuseHost s a1
    a2 a3).pending (refuseHost s a1 a2 a3).mem (refuseHost s a1 a2 a3).fw (refuseHost s a1 a2 a3).recSession := by
  unfold refuseHost
  repeat' (first | with_reducible assumption | with_reducible apply answer_keeps | dsimp only | split | intro _)

theorem takeMessage_keeps {s0 s : State} {slot : Nat} {m : MsgHead} {len : Nat} {f : FrameInfo} {x : HostRec} {k : State → HostRec → State}
    (hk : ∀ s x, Keeps s0 s.pending s.mem s.fw s.recSession → Keeps s0 (k s x).pending (k s x).mem (k s x).fw (k s x).recSession)
    (h : Keeps s0 s.pending s.mem s.fw s.recSession) :
    Keeps s0 (takeMessage slot m len f k s x).pending (takeMessage slot m len f k s x).mem (takeMessage slot m len f k s x).fw
    (takeMessage slot m len f k s x).recSession := by
  unfold takeMessage
  repeat' (first | exact h | exact sendSegs_keeps h | exact refuseHost_keeps h | exact hk _ _ (State.setHost_keeps h) | dsimp only | split)

theorem hostMessage_keeps {s0 s : State} {slot : Nat} {m : MsgHead} {len : Nat} {f : FrameInfo} {k : State → HostRec → State}
    (hk : ∀ s x, Keeps s0 s.pending s.mem s.fw s.recSession → Keeps s0 (k s x).pending (k s x).mem (k s x).fw (k s x).recSession)
    (h : Keeps s0 s.pending s.mem s.fw s.recSession) :
    Keeps s0 (hostMessage s slot m len f k).pending (hostMessage s slot m len f k).mem (hostMessage s slot m len f k).fw
    (hostMessage s slot m len f k).recSession := by
  unfold hostMessage
  exact hostFrame_keeps (fun _ _ h => takeMessage_keeps hk h) h

theorem freeHost_keeps {s0 s : State} {a1 : Nat} (h : Keeps s0 s.pending s.mem s.fw s.recSession) : Keeps s0 (freeHost s a1).pending (freeHost s
    a1).mem (freeHost s a1).fw (freeHost s a1).recSession := by
  unfold freeHost
  repeat' (first | with_reducible assumption | with_reducible apply dropTx_keeps | dsimp only | split | intro _)

theorem logHost_keeps {s0 s : State} {a1 : Nat} {a2 : Nat} {a3 : Nat} {a4 : HostRec} (h : Keeps s0 s.pending s.mem s.fw s.recSession) : Keeps s0
    (logHost s a1 a2 a3 a4).pending (logHost s a1 a2 a3 a4).mem (logHost s a1 a2 a3 a4).fw (logHost s a1 a2 a3 a4).recSession := by
  unfold logHost
  repeat' (first | with_reducible assumption | with_reducible apply State.logMgmt_keeps | dsimp only | split | intro _)

theorem drydownAll_keeps {s0 s : State} {a1 : Nat} (h : Keeps s0 s.pending s.mem s.fw s.recSession) : Keeps s0 (drydownAll s a1).pending (drydownAll s
    a1).mem (drydownAll s a1).fw (drydownAll s a1).recSession := by
  unfold drydownAll
  repeat' (first | with_reducible assumption | with_reducible apply beginDrydown_keeps | with_reducible apply Keeps.foldl |
                  with_reducible apply KeepsP.foldl | with_reducible refine KeepsP.fst (KeepsP.foldl ?_ _ ?_) | dsimp only | split |
                  intro _)

theorem sendDetachAck_keeps {s0 s : State} {a1 : Nat} {a2 : HostRec} (h : Keeps s0 s.pending s.mem s.fw s.recSession) : Keeps s0 (sendDetachAck s a1
    a2).pending (sendDetachAck s a1 a2).mem (sendDetachAck s a1 a2).fw (sendDetachAck s a1 a2).recSession := by
  unfold sendDetachAck
  repeat' (first | with_reducible assumption | with_reducible apply answer_keeps | with_reducible apply sendMessage_keeps | dsimp only |
                  split | intro _)

theorem detachDone_keeps {s0 s : State} {a1 : Nat} (h : Keeps s0 s.pending s.mem s.fw s.recSession) : Keeps s0 (detachDone s a1).pending (detachDone s
    a1).mem (detachDone s a1).fw (detachDone s a1).recSession := by
  unfold detachDone
  repeat' (first | with_reducible assumption | with_reducible apply logHost_keeps | with_reducible apply sendDetachAck_keeps |
                  with_reducible apply freeHost_keeps | with_reducible apply State.setHost_keeps | dsimp only | split | intro _)

theorem pauseCtx_keeps {s0 s : State} {a1 : Nat} (h : Keeps s0 s.pending s.mem s.fw s.recSession) : Keeps s0 (pauseCtx s a1).pending (pauseCtx s
    a1).mem (pauseCtx s a1).fw (pauseCtx s a1).recSession := by
  unfold pauseCtx
  repeat' (first | with_reducible assumption | with_reducible apply abortEpoch_keeps | with_reducible apply kvHalt_keeps |
                  with_reducible apply State.modCtx_keeps | dsimp only | split | intro _)

theorem unsendRec_keeps {s0 s : State} {a1 : TxItem} (h : Keeps s0 s.pending s.mem s.fw s.recSession) : Keeps s0 (unsendRec s a1).pending (unsendRec s
    a1).mem (unsendRec s a1).fw (unsendRec s a1).recSession := by
  unfold unsendRec
  repeat' (first | with_reducible assumption | with_reducible apply State.modCtx_keeps | dsimp only | split | intro _)

theorem unsend_keeps {s0 s : State} {a1 : Nat} {a2 : Nat} (h : Keeps s0 s.pending s.mem s.fw s.recSession) : Keeps s0 (unsend s a1 a2).pending (unsend
    s a1 a2).mem (unsend s a1 a2).fw (unsend s a1 a2).recSession := by
  unfold unsend
  repeat' (first | with_reducible assumption | with_reducible apply dropTx_keeps | with_reducible apply unsendRec_keeps |
                  with_reducible apply Keeps.foldl | with_reducible apply KeepsP.foldl |
                  with_reducible refine KeepsP.fst (KeepsP.foldl ?_ _ ?_) | dsimp only | split | intro _)

theorem hostLost_keeps {s0 s : State} {a1 : Nat} (h : Keeps s0 s.pending s.mem s.fw s.recSession) : Keeps s0 (hostLost s a1).pending (hostLost s
    a1).mem (hostLost s a1).fw (hostLost s a1).recSession := by
  unfold hostLost
  repeat' (first | with_reducible assumption | with_reducible apply unsend_keeps | with_reducible apply pauseCtx_keeps |
                  with_reducible apply logHost_keeps | with_reducible apply detachDone_keeps | with_reducible apply drydownAll_keeps |
                  with_reducible apply freeHost_keeps | with_reducible apply State.setHost_keeps | with_reducible apply Keeps.foldl |
                  with_reducible apply KeepsP.foldl | with_reducible refine KeepsP.fst (KeepsP.foldl ?_ _ ?_) | dsimp only | split |
                  intro _)

theorem endHold_keeps {s0 s : State} {a1 : Nat} {a2 : HostRec} (h : Keeps s0 s.pending s.mem s.fw s.recSession) : Keeps s0 (endHold s a1 a2).pending
    (endHold s a1 a2).mem (endHold s a1 a2).fw (endHold s a1 a2).recSession := by
  unfold endHold
  repeat' (first | with_reducible assumption | with_reducible apply logHost_keeps | with_reducible apply drydownAll_keeps |
                  with_reducible apply freeHost_keeps | with_reducible apply State.modCtx_keeps | with_reducible apply Keeps.foldl |
                  with_reducible apply KeepsP.foldl | with_reducible refine KeepsP.fst (KeepsP.foldl ?_ _ ?_) | dsimp only | split |
                  intro _)

theorem installKeys_keeps {s0 s : State} {a1 : Nat} {a2 : HostRec} {a3 : KeySet} (h : Keeps s0 s.pending s.mem s.fw s.recSession) : Keeps s0
    (installKeys s a1 a2 a3).pending (installKeys s a1 a2 a3).mem (installKeys s a1 a2 a3).fw (installKeys s a1 a2 a3).recSession := by
  unfold installKeys
  repeat' (first | with_reducible assumption | with_reducible apply logHost_keeps | with_reducible apply State.setHost_keeps | dsimp only |
                  split | intro _)

theorem refuseRekey_keeps {s0 s : State} {a1 : Nat} {a2 : HostRec} {a3 : Nat} {a4 : Nat} (h : Keeps s0 s.pending s.mem s.fw s.recSession) : Keeps s0
    (refuseRekey s a1 a2 a3 a4).pending (refuseRekey s a1 a2 a3 a4).mem (refuseRekey s a1 a2 a3 a4).fw (refuseRekey s a1 a2 a3 a4).recSession := by
  unfold refuseRekey
  repeat' (first | with_reducible assumption | with_reducible apply refuseHost_keeps | with_reducible apply State.setHost_keeps |
                  dsimp only | split | intro _)

theorem rekeyReq_keeps {s0 s : State} {a1 : Nat} {a2 : HostRec} {a3 : Nat} {a4 : Bytes} {a5 : Bytes} (h : Keeps s0 s.pending s.mem s.fw s.recSession)
    : Keeps s0 (rekeyReq s a1 a2 a3 a4 a5).pending (rekeyReq s a1 a2 a3 a4 a5).mem (rekeyReq s a1 a2 a3 a4 a5).fw (rekeyReq s a1 a2 a3 a4
    a5).recSession := by
  unfold rekeyReq
  repeat' (first | with_reducible assumption | with_reducible apply answer_keeps | with_reducible apply State.tick_keeps |
                  with_reducible apply State.setHost_keeps | dsimp only | split | intro _)

theorem rekeyStep_keeps {s0 s : State} {a1 : Nat} {a2 : HostRec} {a3 : Nat} {a4 : RekeyMsg} (h : Keeps s0 s.pending s.mem s.fw s.recSession) : Keeps
    s0 (rekeyStep s a1 a2 a3 a4).pending (rekeyStep s a1 a2 a3 a4).mem (rekeyStep s a1 a2 a3 a4).fw (rekeyStep s a1 a2 a3 a4).recSession := by
  unfold rekeyStep
  repeat' (first | with_reducible assumption | with_reducible apply refuseRekey_keeps | with_reducible apply rekeyReq_keeps |
                  with_reducible apply answer_keeps | with_reducible apply installKeys_keeps | with_reducible apply State.setHost_keeps |
                  dsimp only | split | intro _)

theorem sendRefuse_keeps {s0 s : State} {a1 : Nat} {a2 : Nat} {a3 : Nat} {a4 : Nat} (h : Keeps s0 s.pending s.mem s.fw s.recSession) : Keeps s0
    (sendRefuse s a1 a2 a3 a4).pending (sendRefuse s a1 a2 a3 a4).mem (sendRefuse s a1 a2 a3 a4).fw (sendRefuse s a1 a2 a3 a4).recSession := by
  unfold sendRefuse
  repeat' (first | with_reducible assumption | with_reducible apply sendSegs_keeps | dsimp only | split | intro _)

theorem refuseAttach_keeps {s0 s : State} {a1 : Nat} {a2 : Nat} {a3 : Nat} {a4 : Nat} {a5 : BitVec 512} (h : Keeps s0 s.pending s.mem s.fw
    s.recSession) : Keeps s0 (refuseAttach s a1 a2 a3 a4 a5).pending (refuseAttach s a1 a2 a3 a4 a5).mem (refuseAttach s a1 a2 a3 a4 a5).fw
    (refuseAttach s a1 a2 a3 a4 a5).recSession := by
  unfold refuseAttach
  repeat' (first | with_reducible assumption | with_reducible apply sendRefuse_keeps | with_reducible apply State.logMgmt_keeps |
                  dsimp only | split | intro _)

theorem acceptHost_keeps {s0 s : State} {a1 : Session} {a2 : Nat} {a3 : Nat} (h : Keeps s0 s.pending s.mem s.fw s.recSession) : Keeps s0 (acceptHost s
    a1 a2 a3).pending (acceptHost s a1 a2 a3).mem (acceptHost s a1 a2 a3).fw (acceptHost s a1 a2 a3).recSession := by
  unfold acceptHost
  repeat' (first | with_reducible assumption | with_reducible apply logHost_keeps | with_reducible apply sendSegs_keeps |
                  with_reducible apply State.setHost_keeps | dsimp only | split | intro _)

theorem modSession_keeps {s0 s : State} {a1 : Nat} {a2 : Session → Session} (h : Keeps s0 s.pending s.mem s.fw s.recSession) : Keeps s0 (modSession s
    a1 a2).pending (modSession s a1 a2).mem (modSession s a1 a2).fw (modSession s a1 a2).recSession := by
  unfold modSession
  repeat' (first | with_reducible assumption | dsimp only | split | intro _)

theorem attachStep5_keeps {s0 s : State} {a1 : Session} (h : Keeps s0 s.pending s.mem s.fw s.recSession) : Keeps s0 (attachStep5 s a1).pending
    (attachStep5 s a1).mem (attachStep5 s a1).fw (attachStep5 s a1).recSession := by
  unfold attachStep5
  repeat' (first | with_reducible assumption | with_reducible apply refuseAttach_keeps | with_reducible apply modSession_keeps |
                  with_reducible apply acceptHost_keeps | with_reducible apply Keeps.getD | dsimp only | split | intro _)

theorem resumeSession_keeps {s0 s : State} {a1 : Session} (h : Keeps s0 s.pending s.mem s.fw s.recSession) : Keeps s0 (resumeSession s a1).pending
    (resumeSession s a1).mem (resumeSession s a1).fw (resumeSession s a1).recSession := by
  unfold resumeSession
  repeat' (first | with_reducible assumption | with_reducible apply acceptHost_keeps | with_reducible apply refuseAttach_keeps |
                  dsimp only | split | intro _)

theorem requeue_keeps {s0 s : State} {a1 : Nat} {a2 : Nat} (h : Keeps s0 s.pending s.mem s.fw s.recSession) : Keeps s0 (requeue s a1 a2).pending
    (requeue s a1 a2).mem (requeue s a1 a2).fw (requeue s a1 a2).recSession := by
  unfold requeue
  repeat' (first | with_reducible assumption | with_reducible apply State.setCtx_keeps | with_reducible apply State.tick_keeps |
                  dsimp only | split | intro _)

theorem resumeCtx_keeps {s0 s : State} {a1 : HostReg} {a2 : Nat} (h : Keeps s0 s.pending s.mem s.fw s.recSession) : Keeps s0 (resumeCtx a1 s
    a2).pending (resumeCtx a1 s a2).mem (resumeCtx a1 s a2).fw (resumeCtx a1 s a2).recSession := by
  unfold resumeCtx
  repeat' (first | with_reducible assumption | with_reducible apply releaseRecs_keeps | with_reducible apply State.modCtx_keeps |
                  dsimp only | split | intro _)

theorem firstRegister_keeps {s0 s : State} {a1 : Nat} {a2 : Nat} {a3 : HostRec} {a4 : RegisterMsg} (h : Keeps s0 s.pending s.mem s.fw s.recSession) :
    Keeps s0 (firstRegister s a1 a2 a3 a4).pending (firstRegister s a1 a2 a3 a4).mem (firstRegister s a1 a2 a3 a4).fw (firstRegister s a1 a2 a3
    a4).recSession := by
  unfold firstRegister
  repeat' (first | with_reducible assumption | with_reducible apply requeue_keeps | with_reducible apply resumeCtx_keeps |
                  with_reducible apply answer_keeps | with_reducible apply State.setHost_keeps | with_reducible apply State.tick_keeps |
                  with_reducible apply Keeps.foldl | with_reducible apply KeepsP.foldl |
                  with_reducible refine KeepsP.fst (KeepsP.foldl ?_ _ ?_) | dsimp only | split | intro _)

theorem registerHost_keeps {s0 s : State} {a1 : Nat} {a2 : Nat} {a3 : RegisterMsg} {a4 : HostRec} (h : Keeps s0 s.pending s.mem s.fw s.recSession) :
    Keeps s0 (registerHost a1 a2 a3 s a4).pending (registerHost a1 a2 a3 s a4).mem (registerHost a1 a2 a3 s a4).fw (registerHost a1 a2 a3 s
    a4).recSession := by
  unfold registerHost
  repeat' (first | with_reducible assumption | with_reducible apply refuseHost_keeps | with_reducible apply answer_keeps |
                  with_reducible apply firstRegister_keeps | with_reducible apply State.setHost_keeps | with_reducible apply Keeps.getD |
                  dsimp only | split | intro _)

theorem leaveHold_keeps {s0 s : State} {a1 : Nat} (h : Keeps s0 s.pending s.mem s.fw s.recSession) :
    Keeps s0 (leaveHold s a1).pending (leaveHold s a1).mem (leaveHold s a1).fw (leaveHold s a1).recSession := by
  unfold leaveHold
  exact releaseRecs_keeps (State.modCtx_keeps h)

theorem detachHost_keeps {s0 s : State} {a1 : Nat} {a2 : Nat} {a3 : Nat} {a4 : HostRec} (h : Keeps s0 s.pending s.mem s.fw s.recSession) : Keeps s0
    (detachHost a1 a2 a3 s a4).pending (detachHost a1 a2 a3 s a4).mem (detachHost a1 a2 a3 s a4).fw (detachHost a1 a2 a3 s a4).recSession := by
  unfold detachHost
  repeat' (first | with_reducible assumption | with_reducible apply refuseHost_keeps | with_reducible apply detachDone_keeps |
                  with_reducible apply drydownAll_keeps | with_reducible apply drainDetach_keeps | with_reducible apply leaveHold_keeps |
                  with_reducible apply State.setHost_keeps | with_reducible apply Keeps.foldl | with_reducible apply KeepsP.foldl |
                  with_reducible refine KeepsP.fst (KeepsP.foldl ?_ _ ?_) | dsimp only | split | intro _)

theorem fitUnit_keeps {s0 s : State} {a1 : Nat} {a2 : Nat × Nat} (h : Keeps s0 s.pending s.mem s.fw s.recSession) : Keeps s0 (fitUnit a1 s a2).pending
    (fitUnit a1 s a2).mem (fitUnit a1 s a2).fw (fitUnit a1 s a2).recSession := by
  unfold fitUnit
  repeat' (first | with_reducible assumption | with_reducible apply placeUnit_keeps | dsimp only | split | intro _)

theorem createCtx_keeps {s0 s : State} {slot mseq cn : Nat} {x : HostRec} {m : CtxCreateMsg} (h : Keeps s0 s.pending s.mem s.fw s.recSession) :
    Keeps s0 (createCtx s slot mseq cn x m).pending (createCtx s slot mseq cn x m).mem (createCtx s slot mseq cn x m).fw
    (createCtx s slot mseq cn x m).recSession := by
  unfold createCtx
  split
  · exact h
  · rename_i s1 p h'
    have h1 := (takePage_keeps h).elim h'
    refine answer_keeps (Keeps.foldl (fun _ _ h => fitUnit_keeps h) _ (replan_keeps (State.tick_keeps (State.setHost_keeps
    (State.setCtx_keeps ?_)))))
    exact initPage0_keeps (Keeps.erase h1)

theorem createHost_keeps {s0 s : State} {slot mseq : Nat} {m : CtxCreateMsg} {x : HostRec} (h : Keeps s0 s.pending s.mem s.fw s.recSession) :
    Keeps s0 (createHost slot mseq m s x).pending (createHost slot mseq m s x).mem (createHost slot mseq m s x).fw
    (createHost slot mseq m s x).recSession := by
  unfold createHost
  repeat' (first | exact answer_keeps h | exact createCtx_keeps h | dsimp only | split)

theorem destroyHost_keeps {s0 s : State} {a1 : Nat} {a2 : Nat} {a3 : Nat} {a4 : HostRec} (h : Keeps s0 s.pending s.mem s.fw s.recSession) : Keeps s0
    (destroyHost a1 a2 a3 s a4).pending (destroyHost a1 a2 a3 s a4).mem (destroyHost a1 a2 a3 s a4).fw (destroyHost a1 a2 a3 s a4).recSession := by
  unfold destroyHost
  repeat' (first | with_reducible assumption | with_reducible apply answer_keeps | with_reducible apply beginDrydown_keeps |
                  with_reducible apply State.setCtx_keeps | dsimp only | split | intro _)

theorem respond_keeps {s0 s : State} {a1 : Nat} {a2 : Nat} {a3 : Nat} {a4 : Bytes} (h : Keeps s0 s.pending s.mem s.fw s.recSession) : Keeps s0
    (respond s a1 a2 a3 a4).pending (respond s a1 a2 a3 a4).mem (respond s a1 a2 a3 a4).fw (respond s a1 a2 a3 a4).recSession := by
  unfold respond
  repeat' (first | with_reducible assumption | with_reducible apply State.emit_keeps | dsimp only | split | intro _)

theorem putTenant_keeps {s0 s : State} {a1 : Nat} {a2 : TenantBits} {a3 : Nat} {a4 : Nat} (h : Keeps s0 s.pending s.mem s.fw s.recSession) : Keeps s0
    (putTenant s a1 a2 a3 a4).pending (putTenant s a1 a2 a3 a4).mem (putTenant s a1 a2 a3 a4).fw (putTenant s a1 a2 a3 a4).recSession := by
  unfold putTenant
  repeat' (first | with_reducible assumption | with_reducible apply State.logMgmt_keeps | dsimp only | split | intro _)

theorem deleteEntry_keeps {s0 s : State} {a1 : Nat} (h : Keeps s0 s.pending s.mem s.fw s.recSession) : Keeps s0 (deleteEntry s a1).pending
    (deleteEntry s a1).mem (deleteEntry s a1).fw (deleteEntry s a1).recSession := by
  unfold deleteEntry
  repeat' (first | with_reducible assumption | with_reducible apply putTenant_keeps | dsimp only | split | intro _)

theorem finishDelete_keeps {s0 s : State} (h : Keeps s0 s.pending s.mem s.fw s.recSession) : Keeps s0 (finishDelete s).pending (finishDelete s).mem
    (finishDelete s).fw (finishDelete s).recSession := by
  unfold finishDelete
  repeat' (first | with_reducible assumption | with_reducible apply respond_keeps | with_reducible apply deleteEntry_keeps | dsimp only |
                  split | intro _)

theorem resumeAttach_keeps {s0 s : State} (h : Keeps s0 s.pending s.mem s.fw s.recSession) : Keeps s0 (resumeAttach s).pending (resumeAttach s).mem
    (resumeAttach s).fw (resumeAttach s).recSession := by
  unfold resumeAttach
  repeat' (first | with_reducible assumption | with_reducible apply resumeSession_keeps | with_reducible apply Keeps.foldl |
                  with_reducible apply KeepsP.foldl | with_reducible refine KeepsP.fst (KeepsP.foldl ?_ _ ?_) | dsimp only | split |
                  intro _)

theorem releaseCtx_keeps {s0 s : State} {cn : Nat} {c : Ctx} (h : Keeps s0 s.pending s.mem s.fw s.recSession) :
    Keeps s0 (releaseCtx s cn c).pending (releaseCtx s cn c).mem (releaseCtx s cn c).fw (releaseCtx s cn c).recSession := by
  unfold releaseCtx eraseShare
  exact Keeps.erase (Keeps.foldl (fun _ _ h => releasePage_keeps h) _ (dropUnits_keeps h))

theorem dropLink_keeps {s0 s : State} {a1 : Nat} (h : Keeps s0 s.pending s.mem s.fw s.recSession) : Keeps s0 (dropLink s a1).pending (dropLink s
    a1).mem (dropLink s a1).fw (dropLink s a1).recSession := by
  unfold dropLink
  repeat' (first | with_reducible assumption | with_reducible apply modPort_keeps | with_reducible apply hostLost_keeps |
                  with_reducible apply Keeps.foldl | with_reducible apply KeepsP.foldl |
                  with_reducible refine KeepsP.fst (KeepsP.foldl ?_ _ ?_) | dsimp only | split | intro _)

theorem dropHostPort_keeps {s0 s : State} {a1 : Nat} (h : Keeps s0 s.pending s.mem s.fw s.recSession) : Keeps s0 (dropHostPort s a1).pending
    (dropHostPort s a1).mem (dropHostPort s a1).fw (dropHostPort s a1).recSession := by
  unfold dropHostPort
  repeat' (first | with_reducible assumption | with_reducible apply dropLink_keeps | with_reducible apply Keeps.foldl |
                  with_reducible apply KeepsP.foldl | with_reducible refine KeepsP.fst (KeepsP.foldl ?_ _ ?_) | dsimp only | split |
                  intro _)

theorem sendOwn_keeps {s0 s : State} {a1 : Nat} {a2 : Out} (h : Keeps s0 s.pending s.mem s.fw s.recSession) : Keeps s0 (sendOwn s a1 a2).pending
    (sendOwn s a1 a2).mem (sendOwn s a1 a2).fw (sendOwn s a1 a2).recSession := by
  unfold sendOwn
  repeat' (first | with_reducible assumption | with_reducible apply State.sendItem_keeps | dsimp only | split | intro _)

theorem setPause_keeps {s0 s : State} {a1 : Nat} {a2 : Nat} {a3 : Bool} (h : Keeps s0 s.pending s.mem s.fw s.recSession) : Keeps s0 (setPause s a1 a2
    a3).pending (setPause s a1 a2 a3).mem (setPause s a1 a2 a3).fw (setPause s a1 a2 a3).recSession := by
  unfold setPause
  repeat' (first | with_reducible assumption | with_reducible apply drainPort_keeps | with_reducible apply modPort_keeps | dsimp only |
                  split | intro _)

theorem nakAccess_keeps {s0 s : State} {a1 : Nat} {a2 : Option Nat} {a3 : HostRec} (h : Keeps s0 s.pending s.mem s.fw s.recSession) : Keeps s0
    (nakAccess s a1 a2 a3).pending (nakAccess s a1 a2 a3).mem (nakAccess s a1 a2 a3).fw (nakAccess s a1 a2 a3).recSession := by
  unfold nakAccess
  repeat' (first | with_reducible assumption | with_reducible apply State.toHost_keeps | with_reducible apply State.log_keeps | dsimp only |
                  split | intro _)

theorem ctrlWord_keeps {s0 s : State} {a1 : Nat} {a2 : Nat} {a3 : Nat} (h : Keeps s0 s.pending s.mem s.fw s.recSession) : Keeps s0 (ctrlWord s a1 a2
    a3).pending (ctrlWord s a1 a2 a3).mem (ctrlWord s a1 a2 a3).fw (ctrlWord s a1 a2 a3).recSession := by
  unfold ctrlWord
  repeat' (first | with_reducible assumption | with_reducible apply releaseRecs_keeps | with_reducible apply State.setCtx_keeps |
                  dsimp only | split | intro _)

theorem ctrlReg_keeps {s0 s : State} {a1 : Nat} {a2 : Nat} {a3 : Nat} (h : Keeps s0 s.pending s.mem s.fw s.recSession) : Keeps s0 (ctrlReg s a1 a2
    a3).pending (ctrlReg s a1 a2 a3).mem (ctrlReg s a1 a2 a3).fw (ctrlReg s a1 a2 a3).recSession := by
  unfold ctrlReg
  repeat' (first | with_reducible assumption | with_reducible apply releaseRecs_keeps | with_reducible apply ctrlWord_keeps |
                  with_reducible apply State.setCtx_keeps | dsimp only | split | intro _)

theorem ctrlBytes_keeps {s0 : State} {cn : Nat} : ∀ {n : Nat} {s : State} {off : Nat} {d : Bytes}, Keeps s0 s.pending s.mem s.fw s.recSession →
    Keeps s0 (ctrlBytes n s cn off d).pending (ctrlBytes n s cn off d).mem (ctrlBytes n s cn off d).fw (ctrlBytes n s cn off d).recSession
  | 0, _, _, _, h => h
  | n + 1, s, off, d, h => by
    unfold ctrlBytes
    repeat' (first | exact h | exact ctrlBytes_keeps (ctrlReg_keeps h) | exact ctrlBytes_keeps (ctrlWord_keeps h) | split)

theorem rdmaWrite_keeps {s0 s : State} {a1 : Nat} {a2 : RKey} {a3 : Nat} {a4 : Bytes} {a5 : HostRec} (h : Keeps s0 s.pending s.mem s.fw s.recSession)
    : Keeps s0 (rdmaWrite a1 a2 a3 a4 s a5).pending (rdmaWrite a1 a2 a3 a4 s a5).mem (rdmaWrite a1 a2 a3 a4 s a5).fw (rdmaWrite a1 a2 a3 a4 s
    a5).recSession := by
  unfold rdmaWrite
  repeat' (first | with_reducible assumption | with_reducible apply hostWrite_keeps | with_reducible apply nakAccess_keeps |
                  with_reducible apply ctrlBytes_keeps | with_reducible apply State.toHost_keeps | dsimp only | split | intro _)

theorem rdmaRead_keeps {s0 s : State} {a1 : Nat} {a2 : RKey} {a3 : Nat} {a4 : Nat} {a5 : HostRec} (h : Keeps s0 s.pending s.mem s.fw s.recSession) :
    Keeps s0 (rdmaRead a1 a2 a3 a4 s a5).pending (rdmaRead a1 a2 a3 a4 s a5).mem (rdmaRead a1 a2 a3 a4 s a5).fw (rdmaRead a1 a2 a3 a4 s a5).recSession
    := by
  unfold rdmaRead
  repeat' (first | with_reducible assumption | with_reducible apply nakAccess_keeps | with_reducible apply State.toHost_keeps |
                  with_reducible apply State.tick_keeps | dsimp only | split | intro _)

theorem modQp_keeps {s0 s : State} {a1 : Nat} {a2 : Nat} {a3 : QPair → QPair} (h : Keeps s0 s.pending s.mem s.fw s.recSession) : Keeps s0 (modQp s a1
    a2 a3).pending (modQp s a1 a2 a3).mem (modQp s a1 a2 a3).fw (modQp s a1 a2 a3).recSession := by
  unfold modQp
  repeat' (first | with_reducible assumption | dsimp only | split | intro _)

theorem restartFailed_keeps {s0 s : State} {a1 : Nat} (h : Keeps s0 s.pending s.mem s.fw s.recSession) : Keeps s0 (restartFailed s a1).pending
    (restartFailed s a1).mem (restartFailed s a1).fw (restartFailed s a1).recSession := by
  unfold restartFailed
  repeat' (first | with_reducible assumption | with_reducible apply Keeps.getD | dsimp only | split | intro _)

theorem islandPersistent_keeps {s0 s : State} {a1 : IslandKind} {a2 : Nat} {a3 : Nat} (h : Keeps s0 s.pending s.mem s.fw s.recSession) : Keeps s0
    (islandPersistent s a1 a2 a3).pending (islandPersistent s a1 a2 a3).mem (islandPersistent s a1 a2 a3).fw (islandPersistent s a1 a2 a3).recSession
    := by
  unfold islandPersistent
  repeat' (first | with_reducible assumption | with_reducible apply evacuate_keeps | with_reducible apply excludeDie_keeps |
                  with_reducible apply excludeUnit_keeps | with_reducible apply logExclusion_keeps | dsimp only | split | intro _)

theorem islandLost_keeps {s0 s : State} {a1 : IslandKind} {a2 : Nat} {a3 : Nat} (h : Keeps s0 s.pending s.mem s.fw s.recSession) : Keeps s0
    (islandLost s a1 a2 a3).pending (islandLost s a1 a2 a3).mem (islandLost s a1 a2 a3).fw (islandLost s a1 a2 a3).recSession := by
  unfold islandLost
  repeat' (first | with_reducible assumption | with_reducible apply replayLost_keeps | with_reducible apply dropHostPort_keeps |
                  with_reducible apply State.tick_keeps | with_reducible apply State.freeUnit_keeps | dsimp only | split | intro _)

theorem frameDone_keeps {s0 s : State} {a1 : UnitId} {a2 : Run} {a3 : Nat} {a4 : FrameResult} (h : Keeps s0 s.pending s.mem s.fw s.recSession) : Keeps
    s0 (frameDone s a1 a2 a3 a4).pending (frameDone s a1 a2 a3 a4).mem (frameDone s a1 a2 a3 a4).fw (frameDone s a1 a2 a3 a4).recSession := by
  unfold frameDone
  repeat' (first | with_reducible assumption | with_reducible apply taskWrite_keeps | with_reducible apply unitFault_keeps |
                  with_reducible apply State.tick_keeps | with_reducible apply State.setRun_keeps | with_reducible apply KeepsX.ok |
                  with_reducible exact KeepsX.error | dsimp only | split | with_reducible refine KeepsX.elim ?_ (by assumption) | intro _)

theorem frameEvent_keeps {s0 s : State} {u : UnitId} {op : Nat} {k : State → Run → Ctx → Nat → State} (h : Keeps s0 s.pending s.mem s.fw s.recSession)
    (hk : ∀ r c f, Keeps s0 (k s r c f).pending (k s r c f).mem (k s r c f).fw (k s r c f).recSession) : KeepsR s0 (frameEvent u op s k) := by
  unfold frameEvent
  repeat' (first | exact KeepsR.next h | exact KeepsR.next (hk _ _ _) | split)

theorem wholeRegion_keeps {s0 s : State} {a1 : Nat} {a2 : Stream} (h : Keeps s0 s.pending s.mem s.fw s.recSession) : Keeps s0 (wholeRegion a1 a2
    s).pending (wholeRegion a1 a2 s).mem (wholeRegion a1 a2 s).fw (wholeRegion a1 a2 s).recSession := by
  unfold wholeRegion
  repeat' (first | with_reducible assumption | with_reducible apply State.tick_keeps | with_reducible apply State.modCtx_keeps |
                  dsimp only | split | intro _)

theorem writeRegion_keeps {s0 s : State} {cn : Nat} {st : Stream} (h : Keeps s0 s.pending s.mem s.fw s.recSession) : KeepsX s0
    (writeRegion s cn st) :=
  KeepsX.map (countedWrite_keeps h) (fun _ h => wholeRegion_keeps h)

theorem putStream_keeps {s0 s : State} {a1 : Nat} {a2 : Nat} {a3 : Stream} (h : Keeps s0 s.pending s.mem s.fw s.recSession) : Keeps s0 (putStream s a1
    a2 a3).pending (putStream s a1 a2 a3).mem (putStream s a1 a2 a3).fw (putStream s a1 a2 a3).recSession := by
  unfold putStream
  repeat' (first | with_reducible assumption | with_reducible apply State.modCtx_keeps | dsimp only | split | intro _)

theorem openStream_keeps {s0 s : State} {a1 : Nat} {a2 : Nat} {a3 : Stream} (h : Keeps s0 s.pending s.mem s.fw s.recSession) : Keeps s0 (openStream s
    a1 a2 a3).pending (openStream s a1 a2 a3).mem (openStream s a1 a2 a3).fw (openStream s a1 a2 a3).recSession := by
  unfold openStream
  repeat' (first | with_reducible assumption | with_reducible apply State.modCtx_keeps | with_reducible apply Keeps.getD | dsimp only |
                  split | intro _)

theorem closeStream_keeps {s0 s : State} {a1 : Nat} {a2 : Nat} (h : Keeps s0 s.pending s.mem s.fw s.recSession) : Keeps s0 (closeStream s a1
    a2).pending (closeStream s a1 a2).mem (closeStream s a1 a2).fw (closeStream s a1 a2).recSession := by
  unfold closeStream
  repeat' (first | with_reducible assumption | with_reducible apply State.modCtx_keeps | with_reducible apply Keeps.getD | dsimp only |
                  split | intro _)

theorem encodePicture_keeps {s0 s : State} {a1 : UnitId} {a2 : Run} {a3 : Ctx} {a4 : Nat} {a5 : Stream} {a6 : List Nat} (h : Keeps s0 s.pending s.mem
    s.fw s.recSession) : Keeps s0 (encodePicture s a1 a2 a3 a4 a5 a6).pending (encodePicture s a1 a2 a3 a4 a5 a6).mem (encodePicture s a1 a2 a3 a4 a5
    a6).fw (encodePicture s a1 a2 a3 a4 a5 a6).recSession := by
  unfold encodePicture
  repeat' (first | with_reducible assumption | with_reducible apply writeRegion_keeps | with_reducible apply unitFault_keeps |
                  with_reducible apply putStream_keeps | with_reducible apply hostWrite_keeps | with_reducible apply frameDone_keeps |
                  with_reducible apply State.toHost_keeps | with_reducible apply KeepsX.ok | with_reducible exact KeepsX.error |
                  dsimp only | split | with_reducible refine KeepsX.elim ?_ (by assumption) | intro _)

theorem applyModule_keeps {s0 s : State} {a1 : ItemBits} (h : Keeps s0 s.pending s.mem s.fw s.recSession) : Keeps s0 (applyModule s a1).pending
    (applyModule s a1).mem (applyModule s a1).fw (applyModule s a1).recSession := by
  unfold applyModule
  repeat' (first | with_reducible assumption | with_reducible apply putTenant_keeps | with_reducible apply State.modCtx_keeps | dsimp only |
                  split | intro _)

theorem stageModule_keeps {s0 s : State} {a1 : Nat} {a2 : List ItemBits} {a3 : Option (Nat × TenantBits)} (h : Keeps s0 s.pending s.mem s.fw
    s.recSession) : Keeps s0 (stageModule s a1 a2 a3).pending (stageModule s a1 a2 a3).mem (stageModule s a1 a2 a3).fw (stageModule s a1 a2
    a3).recSession := by
  unfold stageModule
  repeat' (first | with_reducible assumption | dsimp only | split | intro _)

theorem endModule_keeps {s0 s : State} {a1 : Nat} {a2 : Nat} {a3 : Nat} (h : Keeps s0 s.pending s.mem s.fw s.recSession) : Keeps s0 (endModule s a1 a2
    a3).pending (endModule s a1 a2 a3).mem (endModule s a1 a2 a3).fw (endModule s a1 a2 a3).recSession := by
  unfold endModule
  repeat' (first | with_reducible assumption | with_reducible apply respond_keeps | with_reducible apply State.logMgmt_keeps | dsimp only |
                  split | intro _)

theorem colyrDo_keeps {s0 s : State} {cmd tag : Nat} {rom : Bool} {k : State → State} (h : Keeps s0 s.pending s.mem s.fw s.recSession)
    (hk : Keeps s0 (k s).pending (k s).mem (k s).fw (k s).recSession) : KeepsR s0 (colyrDo s cmd tag rom k) := by
  unfold colyrDo
  repeat' (first | exact KeepsR.next h | exact KeepsR.next hk | exact KeepsR.next (respond_keeps h) | split)

theorem takeSensor_keeps {s0 s : State} {a1 : Nat × Nat × Nat} (h : Keeps s0 s.pending s.mem s.fw s.recSession) : Keeps s0 (takeSensor s a1).pending
    (takeSensor s a1).mem (takeSensor s a1).fw (takeSensor s a1).recSession := by
  unfold takeSensor
  repeat' (first | with_reducible assumption | dsimp only | split | intro _)

theorem takeSensors_keeps {s0 s : State} {a1 : Samples} (h : Keeps s0 s.pending s.mem s.fw s.recSession) : Keeps s0 (takeSensors s a1).pending
    (takeSensors s a1).mem (takeSensors s a1).fw (takeSensors s a1).recSession := by
  unfold takeSensors
  repeat' (first | with_reducible assumption | with_reducible apply takeSensor_keeps | with_reducible apply Keeps.foldl |
                  with_reducible apply KeepsP.foldl | with_reducible refine KeepsP.fst (KeepsP.foldl ?_ _ ?_) | dsimp only | split |
                  intro _)

theorem writeEntry_keeps {s0 s : State} {a1 : Nat} {a2 : Nat} {a3 : TenantBits} (h : Keeps s0 s.pending s.mem s.fw s.recSession) : Keeps s0
    (writeEntry s a1 a2 a3).pending (writeEntry s a1 a2 a3).mem (writeEntry s a1 a2 a3).fw (writeEntry s a1 a2 a3).recSession := by
  unfold writeEntry
  repeat' (first | with_reducible assumption | with_reducible apply respond_keeps | with_reducible apply putTenant_keeps |
                  with_reducible apply endModule_keeps | with_reducible apply stageModule_keeps | dsimp only | split | intro _)

theorem forceOut_keeps {s0 s : State} {a1 : Nat} {a2 : HostRec} (h : Keeps s0 s.pending s.mem s.fw s.recSession) : Keeps s0 (forceOut s a1 a2).pending
    (forceOut s a1 a2).mem (forceOut s a1 a2).fw (forceOut s a1 a2).recSession := by
  unfold forceOut
  repeat' (first | with_reducible assumption | with_reducible apply endHold_keeps | with_reducible apply detachDone_keeps |
                  with_reducible apply drydownAll_keeps | with_reducible apply State.setHost_keeps | dsimp only | split | intro _)

theorem romCommit_keeps {s0 s : State} {a1 : Nat} (h : Keeps s0 s.pending s.mem s.fw s.recSession) : Keeps s0 (romCommit s a1).pending (romCommit s
    a1).mem (romCommit s a1).fw (romCommit s a1).recSession := by
  unfold romCommit
  repeat' (first | with_reducible assumption | with_reducible apply fwStart_keeps | with_reducible apply respond_keeps |
                  with_reducible apply moduleReset_keeps | with_reducible apply fwDone_keeps | dsimp only | split | intro _)

theorem mctpDo_keeps {s0 s t : State} (h : Keeps s0 s.pending s.mem s.fw s.recSession)
    (ht : Keeps s0 t.pending t.mem t.fw t.recSession) : KeepsR s0 (mctpDo s t) := by
  unfold mctpDo
  apply KeepsR.next
  split
  · exact ht
  · exact h

theorem recStep_keeps {s0 s : State} {a1 : RecSession} {a2 : Bool} (h : Keeps s0 s.pending s.mem s.fw s.recSession)
    (hi : ImagesInv s0 → Memory.wf a1.image = true) :
    Keeps s0 (recStep s a1 a2).pending (recStep s a1 a2).mem (recStep s a1 a2).fw (recStep s a1 a2).recSession := by
  have f (o : Option RecSession) (ho : ∀ x, o = some x → x.image = a1.image) : Keeps s0 s.pending s.mem s.fw o := ⟨h.1, h.2.1, fun i => imagesWf_iff.2
    ⟨(imagesWf_iff.1 (h.2.2 i)).1, (imagesWf_iff.1 (h.2.2 i)).2.1, (imagesWf_iff.1 (h.2.2 i)).2.2.1, fun x e => by rw [ho x e]; exact hi i⟩⟩
  have g (r : RecSession) (hr : r.image = a1.image) : Keeps s0 s.pending s.mem { s.fw with flash := imgBody a1.image } (some r) := by
    have k := f (some r) (fun x e => by cases e; exact hr)
    exact ⟨k.1, k.2.1, fun i => imagesWf_iff.2 ⟨Memory.wf_filter (hi i) (fun c => decide (bodyAt ≤ c)), (imagesWf_iff.1 (k.2.2 i)).2⟩⟩
  unfold recStep
  dsimp only
  split
  · exact State.emit_keeps (g _ rfl)
  · split
    · exact State.emit_keeps (f _ (fun x e => by cases e; rfl))
    · split
      · exact State.emit_keeps (g _ rfl)
      · exact State.emit_keeps (f _ (fun x e => by cases e))

theorem recFinish_keeps {s0 s : State} {a1 : RecSession} (h : Keeps s0 s.pending s.mem s.fw s.recSession)
    (hi : ImagesInv s0 → Memory.wf a1.image = true) :
    Keeps s0 (recFinish s a1).pending (recFinish s a1).mem (recFinish s a1).fw (recFinish s a1).recSession := by
  have f : Keeps s0 s.pending s.mem s.fw none := ⟨h.1, h.2.1, fun i => imagesWf_iff.2
    ⟨(imagesWf_iff.1 (h.2.2 i)).1, (imagesWf_iff.1 (h.2.2 i)).2.1, (imagesWf_iff.1 (h.2.2 i)).2.2.1, fun x e => by cases e⟩⟩
  unfold recFinish
  split
  · exact State.emit_keeps f
  · refine moduleReset_keeps ⟨f.1, f.2.1, fun i => ?_⟩
    have w := imagesWf_iff.1 (f.2.2 i)
    exact imagesWf_iff.2 ⟨hi i, w.2.1, w.2.2.1, w.2.2.2⟩

theorem loseModule_keeps {s0 s : State} {a1 : BootStage} {a2 : Bool} (h : Keeps s0 s.pending s.mem s.fw s.recSession) :
    Keeps s0 (loseModule s a1 a2).pending (loseModule s a1 a2).mem (loseModule s a1 a2).fw (loseModule s a1 a2).recSession := by
  have k := afterReset_keeps (a1 := a1) h
  exact ⟨k.1, fun _ => rfl, k.2.2⟩

theorem bootStep_keeps {s0 s : State} {a b : BootStage} {k : State → State} (h : Keeps s0 s.pending s.mem s.fw s.recSession)
    (hk : ∀ s, Keeps s0 s.pending s.mem s.fw s.recSession → Keeps s0 (k s).pending (k s).mem (k s).fw (k s).recSession) : KeepsR s0
    (bootStep s a b k) := by
  unfold bootStep
  split
  · exact KeepsR.next (hk _ h)
  · exact KeepsR.next h

theorem enterHold_keeps {s0 s : State} {a1 : Bool} (h : Keeps s0 s.pending s.mem s.fw s.recSession) : Keeps s0 (enterHold s a1).pending (enterHold s
    a1).mem (enterHold s a1).fw (enterHold s a1).recSession := by
  unfold enterHold
  repeat' (first | with_reducible assumption | with_reducible apply partReset_keeps | dsimp only | split | intro _)

theorem logFree_keeps {s0 s : State} {a1 : Nat} (h : Keeps s0 s.pending s.mem s.fw s.recSession) : Keeps s0 (logFree s a1).pending (logFree s a1).mem
    (logFree s a1).fw (logFree s a1).recSession := by
  unfold logFree
  repeat' (first | with_reducible assumption | with_reducible apply State.log_keeps | dsimp only | split | intro _)

theorem setSds_keeps {s0 s : State} {a1 : Bool} {a2 : Bool} (h : Keeps s0 s.pending s.mem s.fw s.recSession) : Keeps s0 (setSds s a1 a2).pending
    (setSds s a1 a2).mem (setSds s a1 a2).fw (setSds s a1 a2).recSession := by
  unfold setSds
  repeat' (first | with_reducible assumption | dsimp only | split | intro _)

theorem capDown_keeps {s0 s : State} {a1 : Samples} (h : Keeps s0 s.pending s.mem s.fw s.recSession) : Keeps s0 (capDown s a1).pending (capDown s
    a1).mem (capDown s a1).fw (capDown s a1).recSession := by
  unfold capDown
  repeat' (first | with_reducible assumption | with_reducible apply Keeps.foldl | with_reducible apply KeepsP.foldl |
                  with_reducible refine KeepsP.fst (KeepsP.foldl ?_ _ ?_) | dsimp only | split | intro _)

theorem capRelease_keeps {s0 s : State} (h : Keeps s0 s.pending s.mem s.fw s.recSession) : Keeps s0 (capRelease s).pending (capRelease s).mem
    (capRelease s).fw (capRelease s).recSession := by
  unfold capRelease
  repeat' (first | with_reducible assumption | dsimp only | split | intro _)

theorem capUp_keeps {s0 s : State} (h : Keeps s0 s.pending s.mem s.fw s.recSession) : Keeps s0 (capUp s).pending (capUp s).mem (capUp s).fw (capUp
    s).recSession := by
  unfold capUp
  repeat' (first | with_reducible assumption | dsimp only | split | intro _)

theorem capLoop_keeps {s0 s : State} {a1 : Samples} (h : Keeps s0 s.pending s.mem s.fw s.recSession) : Keeps s0 (capLoop s a1).pending (capLoop s
    a1).mem (capLoop s a1).fw (capLoop s a1).recSession := by
  unfold capLoop
  repeat' (first | with_reducible assumption | with_reducible apply capRelease_keeps | with_reducible apply capDown_keeps |
                  with_reducible apply capUp_keeps | with_reducible apply Keeps.foldl | with_reducible apply KeepsP.foldl |
                  with_reducible refine KeepsP.fst (KeepsP.foldl ?_ _ ?_) | dsimp only | split | intro _)

end Sys2Proof.Machine
end

