-- ==== Sys2Proof/Laws/State.lean ====
section
/-!
SUPPORT. What each update of the state does to each field, and the laws of the finite maps and lists that hold its records.
-/

namespace Sys2Proof.Machine

/-! ### Lists and finite maps -/

theorem nth_setNth_same {α : Type} (d : α) : ∀ (l : List α) (i : Nat) (v : α), i < l.length → nth d (setNth l i v) i = v
  | _ :: _, 0, _, _ => rfl
  | _ :: r, i + 1, v, h => nth_setNth_same d r i v (Nat.lt_of_succ_lt_succ h)

theorem nth_setNth_ne {α : Type} (d : α) : ∀ (l : List α) (i j : Nat) (v : α), i ≠ j → nth d (setNth l i v) j = nth d l j
  | [], _, _, _, _ => rfl
  | _ :: _, 0, 0, _, h => absurd rfl h
  | _ :: _, 0, _ + 1, _, _ => rfl
  | _ :: _, _ + 1, 0, _, _ => rfl
  | _ :: r, i + 1, j + 1, v, h => nth_setNth_ne d r i j v (fun e => h (by rw [e]))

@[simp] theorem length_setNth {α : Type} : ∀ (l : List α) (i : Nat) (v : α), (setNth l i v).length = l.length
  | [], _, _ => rfl
  | _ :: _, 0, _ => rfl
  | _ :: r, i + 1, v => by simp [setNth, length_setNth r i v]

/-- An entry that has been stored is found. -/
@[simp] theorem NMap.get?_set_same {α : Type} : ∀ (m : NMap α) (k : Nat) (v : α), NMap.get? (NMap.set m k v) k = some v
  | [], k, v => by simp [NMap.set, NMap.get?]
  | (j, w) :: r, k, v => by
    have ih := NMap.get?_set_same r k v
    unfold NMap.set
    split
    · simp [NMap.get?]
    · split
      · simp [NMap.get?]
      · rename_i h1 h2
        have h3 : (j == k) = false := by simpa using h2
        simp only [NMap.get?, h3, h1, if_false, ih]
        simp

/-- Another entry is found as before. -/
theorem NMap.get?_set_ne {α : Type} : ∀ (m : NMap α) (k i : Nat) (v : α), i ≠ k → NMap.get? (NMap.set m k v) i = NMap.get? m i
  | [], k, i, v, h => by
    have : (k == i) = false := by simpa using fun e : k = i => h e.symm
    simp [NMap.set, NMap.get?, this]
  | (j, w) :: r, k, i, v, h => by
    have ih := NMap.get?_set_ne r k i v h
    have hk : (k == i) = false := by simpa using fun e : k = i => h e.symm
    unfold NMap.set
    split
    · rename_i h1
      by_cases hi : i < k
      · have h2 : (j == i) = false := by simp; omega
        have h3 : i < j := by omega
        simp [NMap.get?, hk, hi, h2, h3]
      · simp [NMap.get?, hk, hi]
    · split
      · rename_i h1 h2
        have e : j = k := by simpa using h2
        subst e
        simp [NMap.get?, hk]
      · simp [NMap.get?, ih]

/-- Of two stores to one key the later counts. -/
@[simp] theorem NMap.set_set {α : Type} : ∀ (m : NMap α) (k : Nat) (v w : α), NMap.set (NMap.set m k v) k w = NMap.set m k w
  | [], k, v, w => by simp [NMap.set]
  | (j, x) :: r, k, v, w => by
    have ih := NMap.set_set r k v w
    rcases Nat.lt_trichotomy k j with h | h | h
    · simp [NMap.set, h]
    · subst h; simp [NMap.set]
    · have h1 : ¬ k < j := by omega
      have h2 : (j == k) = false := by simp; omega
      simp [NMap.set, h1, h2, ih]

theorem NMap.get?_modify_same {α : Type} (m : NMap α) (k : Nat) (f : α → α) : NMap.get? (NMap.modify m k f) k = (NMap.get? m k).map f := by
  unfold NMap.modify
  split <;> simp_all

theorem NMap.get?_modify_ne {α : Type} (m : NMap α) (k i : Nat) (f : α → α) (h : i ≠ k) :
    NMap.get? (NMap.modify m k f) i = NMap.get? m i := by
  unfold NMap.modify
  split
  · exact NMap.get?_set_ne m k i _ h
  · rfl

/-! ### Fields of the state after an update -/

@[simp] theorem State.setRun_pending (s : State) (u : UnitId) (r : Run) : (s.setRun u r).pending = s.pending := rfl
@[simp] theorem State.setRun_order (s : State) (u : UnitId) (r : Run) : (s.setRun u r).order = s.order := rfl
@[simp] theorem State.setRun_mem (s : State) (u : UnitId) (r : Run) : (s.setRun u r).mem = s.mem := rfl
@[simp] theorem State.setRun_units (s : State) (u : UnitId) (r : Run) : (s.setRun u r).units = NMap.set s.units u.key r := rfl
@[simp] theorem State.setRun_ctxs (s : State) (u : UnitId) (r : Run) : (s.setRun u r).ctxs = s.ctxs := rfl
@[simp] theorem State.setRun_hosts (s : State) (u : UnitId) (r : Run) : (s.setRun u r).hosts = s.hosts := rfl
@[simp] theorem State.setRun_sessions (s : State) (u : UnitId) (r : Run) : (s.setRun u r).sessions = s.sessions := rfl
@[simp] theorem State.setRun_ports (s : State) (u : UnitId) (r : Run) : (s.setRun u r).ports = s.ports := rfl
@[simp] theorem State.setRun_portModes (s : State) (u : UnitId) (r : Run) : (s.setRun u r).portModes = s.portModes := rfl
@[simp] theorem State.setRun_fabric (s : State) (u : UnitId) (r : Run) : (s.setRun u r).fabric = s.fabric := rfl
@[simp] theorem State.setRun_squalls (s : State) (u : UnitId) (r : Run) : (s.setRun u r).squalls = s.squalls := rfl
@[simp] theorem State.setRun_squallSeq (s : State) (u : UnitId) (r : Run) : (s.setRun u r).squallSeq = s.squallSeq := rfl
@[simp] theorem State.setRun_squallSeen (s : State) (u : UnitId) (r : Run) : (s.setRun u r).squallSeen = s.squallSeen := rfl
@[simp] theorem State.setRun_drr (s : State) (u : UnitId) (r : Run) : (s.setRun u r).drr = s.drr := rfl
@[simp] theorem State.setRun_near (s : State) (u : UnitId) (r : Run) : (s.setRun u r).near = s.near := rfl
@[simp] theorem State.setRun_far (s : State) (u : UnitId) (r : Run) : (s.setRun u r).far = s.far := rfl
@[simp] theorem State.setRun_corrected (s : State) (u : UnitId) (r : Run) : (s.setRun u r).corrected = s.corrected := rfl
@[simp] theorem State.setRun_maintRun (s : State) (u : UnitId) (r : Run) : (s.setRun u r).maintRun = s.maintRun := rfl
@[simp] theorem State.setRun_maintQueue (s : State) (u : UnitId) (r : Run) : (s.setRun u r).maintQueue = s.maintQueue := rfl
@[simp] theorem State.setRun_excluded (s : State) (u : UnitId) (r : Run) : (s.setRun u r).excluded = s.excluded := rfl
@[simp] theorem State.setRun_exclDies (s : State) (u : UnitId) (r : Run) : (s.setRun u r).exclDies = s.exclDies := rfl
@[simp] theorem State.setRun_exclEdges (s : State) (u : UnitId) (r : Run) : (s.setRun u r).exclEdges = s.exclEdges := rfl
@[simp] theorem State.setRun_halfEdges (s : State) (u : UnitId) (r : Run) : (s.setRun u r).halfEdges = s.halfEdges := rfl
@[simp] theorem State.setRun_islandsDown (s : State) (u : UnitId) (r : Run) : (s.setRun u r).islandsDown = s.islandsDown := rfl
@[simp] theorem State.setRun_exclIslands (s : State) (u : UnitId) (r : Run) : (s.setRun u r).exclIslands = s.exclIslands := rfl
@[simp] theorem State.setRun_strikes (s : State) (u : UnitId) (r : Run) : (s.setRun u r).strikes = s.strikes := rfl
@[simp] theorem State.setRun_restarts (s : State) (u : UnitId) (r : Run) : (s.setRun u r).restarts = s.restarts := rfl
@[simp] theorem State.setRun_resets (s : State) (u : UnitId) (r : Run) : (s.setRun u r).resets = s.resets := rfl
@[simp] theorem State.setRun_dseq (s : State) (u : UnitId) (r : Run) : (s.setRun u r).dseq = s.dseq := rfl
@[simp] theorem State.setRun_edgeSeq (s : State) (u : UnitId) (r : Run) : (s.setRun u r).edgeSeq = s.edgeSeq := rfl
@[simp] theorem State.setRun_edgeFails (s : State) (u : UnitId) (r : Run) : (s.setRun u r).edgeFails = s.edgeFails := rfl
@[simp] theorem State.setRun_fw (s : State) (u : UnitId) (r : Run) : (s.setRun u r).fw = s.fw := rfl
@[simp] theorem State.setRun_recSession (s : State) (u : UnitId) (r : Run) : (s.setRun u r).recSession = s.recSession := rfl
@[simp] theorem State.setRun_power (s : State) (u : UnitId) (r : Run) : (s.setRun u r).power = s.power := rfl
@[simp] theorem State.setRun_colyr (s : State) (u : UnitId) (r : Run) : (s.setRun u r).colyr = s.colyr := rfl
@[simp] theorem State.setRun_swap (s : State) (u : UnitId) (r : Run) : (s.setRun u r).swap = s.swap := rfl
@[simp] theorem State.setRun_out (s : State) (u : UnitId) (r : Run) : (s.setRun u r).out = s.out := rfl
@[simp] theorem State.setRun_freeIx (s : State) (u : UnitId) (r : Run) : (s.setRun u r).freeIx = s.freeIx := rfl

@[simp] theorem State.modRun_pending (s : State) (u : UnitId) (f : Run → Run) : (s.modRun u f).pending = s.pending := rfl
@[simp] theorem State.modRun_order (s : State) (u : UnitId) (f : Run → Run) : (s.modRun u f).order = s.order := rfl
@[simp] theorem State.modRun_mem (s : State) (u : UnitId) (f : Run → Run) : (s.modRun u f).mem = s.mem := rfl
@[simp] theorem State.modRun_units (s : State) (u : UnitId) (f : Run → Run) : (s.modRun u f).units = NMap.modify s.units u.key f := rfl
@[simp] theorem State.modRun_ctxs (s : State) (u : UnitId) (f : Run → Run) : (s.modRun u f).ctxs = s.ctxs := rfl
@[simp] theorem State.modRun_hosts (s : State) (u : UnitId) (f : Run → Run) : (s.modRun u f).hosts = s.hosts := rfl
@[simp] theorem State.modRun_sessions (s : State) (u : UnitId) (f : Run → Run) : (s.modRun u f).sessions = s.sessions := rfl
@[simp] theorem State.modRun_ports (s : State) (u : UnitId) (f : Run → Run) : (s.modRun u f).ports = s.ports := rfl
@[simp] theorem State.modRun_portModes (s : State) (u : UnitId) (f : Run → Run) : (s.modRun u f).portModes = s.portModes := rfl
@[simp] theorem State.modRun_fabric (s : State) (u : UnitId) (f : Run → Run) : (s.modRun u f).fabric = s.fabric := rfl
@[simp] theorem State.modRun_squalls (s : State) (u : UnitId) (f : Run → Run) : (s.modRun u f).squalls = s.squalls := rfl
@[simp] theorem State.modRun_squallSeq (s : State) (u : UnitId) (f : Run → Run) : (s.modRun u f).squallSeq = s.squallSeq := rfl
@[simp] theorem State.modRun_squallSeen (s : State) (u : UnitId) (f : Run → Run) : (s.modRun u f).squallSeen = s.squallSeen := rfl
@[simp] theorem State.modRun_drr (s : State) (u : UnitId) (f : Run → Run) : (s.modRun u f).drr = s.drr := rfl
@[simp] theorem State.modRun_near (s : State) (u : UnitId) (f : Run → Run) : (s.modRun u f).near = s.near := rfl
@[simp] theorem State.modRun_far (s : State) (u : UnitId) (f : Run → Run) : (s.modRun u f).far = s.far := rfl
@[simp] theorem State.modRun_corrected (s : State) (u : UnitId) (f : Run → Run) : (s.modRun u f).corrected = s.corrected := rfl
@[simp] theorem State.modRun_maintRun (s : State) (u : UnitId) (f : Run → Run) : (s.modRun u f).maintRun = s.maintRun := rfl
@[simp] theorem State.modRun_maintQueue (s : State) (u : UnitId) (f : Run → Run) : (s.modRun u f).maintQueue = s.maintQueue := rfl
@[simp] theorem State.modRun_excluded (s : State) (u : UnitId) (f : Run → Run) : (s.modRun u f).excluded = s.excluded := rfl
@[simp] theorem State.modRun_exclDies (s : State) (u : UnitId) (f : Run → Run) : (s.modRun u f).exclDies = s.exclDies := rfl
@[simp] theorem State.modRun_exclEdges (s : State) (u : UnitId) (f : Run → Run) : (s.modRun u f).exclEdges = s.exclEdges := rfl
@[simp] theorem State.modRun_halfEdges (s : State) (u : UnitId) (f : Run → Run) : (s.modRun u f).halfEdges = s.halfEdges := rfl
@[simp] theorem State.modRun_islandsDown (s : State) (u : UnitId) (f : Run → Run) : (s.modRun u f).islandsDown = s.islandsDown := rfl
@[simp] theorem State.modRun_exclIslands (s : State) (u : UnitId) (f : Run → Run) : (s.modRun u f).exclIslands = s.exclIslands := rfl
@[simp] theorem State.modRun_strikes (s : State) (u : UnitId) (f : Run → Run) : (s.modRun u f).strikes = s.strikes := rfl
@[simp] theorem State.modRun_restarts (s : State) (u : UnitId) (f : Run → Run) : (s.modRun u f).restarts = s.restarts := rfl
@[simp] theorem State.modRun_resets (s : State) (u : UnitId) (f : Run → Run) : (s.modRun u f).resets = s.resets := rfl
@[simp] theorem State.modRun_dseq (s : State) (u : UnitId) (f : Run → Run) : (s.modRun u f).dseq = s.dseq := rfl
@[simp] theorem State.modRun_edgeSeq (s : State) (u : UnitId) (f : Run → Run) : (s.modRun u f).edgeSeq = s.edgeSeq := rfl
@[simp] theorem State.modRun_edgeFails (s : State) (u : UnitId) (f : Run → Run) : (s.modRun u f).edgeFails = s.edgeFails := rfl
@[simp] theorem State.modRun_fw (s : State) (u : UnitId) (f : Run → Run) : (s.modRun u f).fw = s.fw := rfl
@[simp] theorem State.modRun_recSession (s : State) (u : UnitId) (f : Run → Run) : (s.modRun u f).recSession = s.recSession := rfl
@[simp] theorem State.modRun_power (s : State) (u : UnitId) (f : Run → Run) : (s.modRun u f).power = s.power := rfl
@[simp] theorem State.modRun_colyr (s : State) (u : UnitId) (f : Run → Run) : (s.modRun u f).colyr = s.colyr := rfl
@[simp] theorem State.modRun_swap (s : State) (u : UnitId) (f : Run → Run) : (s.modRun u f).swap = s.swap := rfl
@[simp] theorem State.modRun_out (s : State) (u : UnitId) (f : Run → Run) : (s.modRun u f).out = s.out := rfl
@[simp] theorem State.modRun_freeIx (s : State) (u : UnitId) (f : Run → Run) : (s.modRun u f).freeIx = s.freeIx := rfl

@[simp] theorem State.dropUnit_pending (s : State) (k : Nat) : (s.dropUnit k).pending = s.pending := rfl
@[simp] theorem State.dropUnit_order (s : State) (k : Nat) : (s.dropUnit k).order = s.order := rfl
@[simp] theorem State.dropUnit_mem (s : State) (k : Nat) : (s.dropUnit k).mem = s.mem := rfl
@[simp] theorem State.dropUnit_units (s : State) (k : Nat) : (s.dropUnit k).units = NMap.erase s.units k := rfl
@[simp] theorem State.dropUnit_ctxs (s : State) (k : Nat) : (s.dropUnit k).ctxs = s.ctxs := rfl
@[simp] theorem State.dropUnit_hosts (s : State) (k : Nat) : (s.dropUnit k).hosts = s.hosts := rfl
@[simp] theorem State.dropUnit_sessions (s : State) (k : Nat) : (s.dropUnit k).sessions = s.sessions := rfl
@[simp] theorem State.dropUnit_ports (s : State) (k : Nat) : (s.dropUnit k).ports = s.ports := rfl
@[simp] theorem State.dropUnit_portModes (s : State) (k : Nat) : (s.dropUnit k).portModes = s.portModes := rfl
@[simp] theorem State.dropUnit_fabric (s : State) (k : Nat) : (s.dropUnit k).fabric = s.fabric := rfl
@[simp] theorem State.dropUnit_squalls (s : State) (k : Nat) : (s.dropUnit k).squalls = s.squalls := rfl
@[simp] theorem State.dropUnit_squallSeq (s : State) (k : Nat) : (s.dropUnit k).squallSeq = s.squallSeq := rfl
@[simp] theorem State.dropUnit_squallSeen (s : State) (k : Nat) : (s.dropUnit k).squallSeen = s.squallSeen := rfl
@[simp] theorem State.dropUnit_drr (s : State) (k : Nat) : (s.dropUnit k).drr = s.drr := rfl
@[simp] theorem State.dropUnit_near (s : State) (k : Nat) : (s.dropUnit k).near = s.near := rfl
@[simp] theorem State.dropUnit_far (s : State) (k : Nat) : (s.dropUnit k).far = s.far := rfl
@[simp] theorem State.dropUnit_corrected (s : State) (k : Nat) : (s.dropUnit k).corrected = s.corrected := rfl
@[simp] theorem State.dropUnit_maintRun (s : State) (k : Nat) : (s.dropUnit k).maintRun = s.maintRun := rfl
@[simp] theorem State.dropUnit_maintQueue (s : State) (k : Nat) : (s.dropUnit k).maintQueue = s.maintQueue := rfl
@[simp] theorem State.dropUnit_excluded (s : State) (k : Nat) : (s.dropUnit k).excluded = s.excluded := rfl
@[simp] theorem State.dropUnit_exclDies (s : State) (k : Nat) : (s.dropUnit k).exclDies = s.exclDies := rfl
@[simp] theorem State.dropUnit_exclEdges (s : State) (k : Nat) : (s.dropUnit k).exclEdges = s.exclEdges := rfl
@[simp] theorem State.dropUnit_halfEdges (s : State) (k : Nat) : (s.dropUnit k).halfEdges = s.halfEdges := rfl
@[simp] theorem State.dropUnit_islandsDown (s : State) (k : Nat) : (s.dropUnit k).islandsDown = s.islandsDown := rfl
@[simp] theorem State.dropUnit_exclIslands (s : State) (k : Nat) : (s.dropUnit k).exclIslands = s.exclIslands := rfl
@[simp] theorem State.dropUnit_strikes (s : State) (k : Nat) : (s.dropUnit k).strikes = s.strikes := rfl
@[simp] theorem State.dropUnit_restarts (s : State) (k : Nat) : (s.dropUnit k).restarts = s.restarts := rfl
@[simp] theorem State.dropUnit_resets (s : State) (k : Nat) : (s.dropUnit k).resets = s.resets := rfl
@[simp] theorem State.dropUnit_dseq (s : State) (k : Nat) : (s.dropUnit k).dseq = s.dseq := rfl
@[simp] theorem State.dropUnit_edgeSeq (s : State) (k : Nat) : (s.dropUnit k).edgeSeq = s.edgeSeq := rfl
@[simp] theorem State.dropUnit_edgeFails (s : State) (k : Nat) : (s.dropUnit k).edgeFails = s.edgeFails := rfl
@[simp] theorem State.dropUnit_fw (s : State) (k : Nat) : (s.dropUnit k).fw = s.fw := rfl
@[simp] theorem State.dropUnit_recSession (s : State) (k : Nat) : (s.dropUnit k).recSession = s.recSession := rfl
@[simp] theorem State.dropUnit_colyr (s : State) (k : Nat) : (s.dropUnit k).colyr = s.colyr := rfl
@[simp] theorem State.dropUnit_swap (s : State) (k : Nat) : (s.dropUnit k).swap = s.swap := rfl
@[simp] theorem State.dropUnit_out (s : State) (k : Nat) : (s.dropUnit k).out = s.out := rfl
@[simp] theorem State.dropUnit_freeIx (s : State) (k : Nat) : (s.dropUnit k).freeIx = s.freeIx := rfl

@[simp] theorem State.freeUnit_pending (s : State) (u : UnitId) : (s.freeUnit u).pending = s.pending := rfl
@[simp] theorem State.freeUnit_order (s : State) (u : UnitId) : (s.freeUnit u).order = s.order := rfl
@[simp] theorem State.freeUnit_mem (s : State) (u : UnitId) : (s.freeUnit u).mem = s.mem := rfl
@[simp] theorem State.freeUnit_units (s : State) (u : UnitId) : (s.freeUnit u).units = NMap.erase s.units u.key := rfl
@[simp] theorem State.freeUnit_ctxs (s : State) (u : UnitId) : (s.freeUnit u).ctxs = s.ctxs := rfl
@[simp] theorem State.freeUnit_hosts (s : State) (u : UnitId) : (s.freeUnit u).hosts = s.hosts := rfl
@[simp] theorem State.freeUnit_sessions (s : State) (u : UnitId) : (s.freeUnit u).sessions = s.sessions := rfl
@[simp] theorem State.freeUnit_ports (s : State) (u : UnitId) : (s.freeUnit u).ports = s.ports := rfl
@[simp] theorem State.freeUnit_portModes (s : State) (u : UnitId) : (s.freeUnit u).portModes = s.portModes := rfl
@[simp] theorem State.freeUnit_fabric (s : State) (u : UnitId) : (s.freeUnit u).fabric = s.fabric := rfl
@[simp] theorem State.freeUnit_squalls (s : State) (u : UnitId) : (s.freeUnit u).squalls = s.squalls := rfl
@[simp] theorem State.freeUnit_squallSeq (s : State) (u : UnitId) : (s.freeUnit u).squallSeq = s.squallSeq := rfl
@[simp] theorem State.freeUnit_squallSeen (s : State) (u : UnitId) : (s.freeUnit u).squallSeen = s.squallSeen := rfl
@[simp] theorem State.freeUnit_drr (s : State) (u : UnitId) : (s.freeUnit u).drr = s.drr := rfl
@[simp] theorem State.freeUnit_near (s : State) (u : UnitId) : (s.freeUnit u).near = s.near := rfl
@[simp] theorem State.freeUnit_far (s : State) (u : UnitId) : (s.freeUnit u).far = s.far := rfl
@[simp] theorem State.freeUnit_corrected (s : State) (u : UnitId) : (s.freeUnit u).corrected = s.corrected := rfl
@[simp] theorem State.freeUnit_maintRun (s : State) (u : UnitId) : (s.freeUnit u).maintRun = s.maintRun := rfl
@[simp] theorem State.freeUnit_maintQueue (s : State) (u : UnitId) : (s.freeUnit u).maintQueue = s.maintQueue := rfl
@[simp] theorem State.freeUnit_excluded (s : State) (u : UnitId) : (s.freeUnit u).excluded = s.excluded := rfl
@[simp] theorem State.freeUnit_exclDies (s : State) (u : UnitId) : (s.freeUnit u).exclDies = s.exclDies := rfl
@[simp] theorem State.freeUnit_exclEdges (s : State) (u : UnitId) : (s.freeUnit u).exclEdges = s.exclEdges := rfl
@[simp] theorem State.freeUnit_halfEdges (s : State) (u : UnitId) : (s.freeUnit u).halfEdges = s.halfEdges := rfl
@[simp] theorem State.freeUnit_islandsDown (s : State) (u : UnitId) : (s.freeUnit u).islandsDown = s.islandsDown := rfl
@[simp] theorem State.freeUnit_exclIslands (s : State) (u : UnitId) : (s.freeUnit u).exclIslands = s.exclIslands := rfl
@[simp] theorem State.freeUnit_strikes (s : State) (u : UnitId) : (s.freeUnit u).strikes = s.strikes := rfl
@[simp] theorem State.freeUnit_restarts (s : State) (u : UnitId) : (s.freeUnit u).restarts = s.restarts := rfl
@[simp] theorem State.freeUnit_resets (s : State) (u : UnitId) : (s.freeUnit u).resets = s.resets := rfl
@[simp] theorem State.freeUnit_dseq (s : State) (u : UnitId) : (s.freeUnit u).dseq = s.dseq := rfl
@[simp] theorem State.freeUnit_edgeSeq (s : State) (u : UnitId) : (s.freeUnit u).edgeSeq = s.edgeSeq := rfl
@[simp] theorem State.freeUnit_edgeFails (s : State) (u : UnitId) : (s.freeUnit u).edgeFails = s.edgeFails := rfl
@[simp] theorem State.freeUnit_fw (s : State) (u : UnitId) : (s.freeUnit u).fw = s.fw := rfl
@[simp] theorem State.freeUnit_recSession (s : State) (u : UnitId) : (s.freeUnit u).recSession = s.recSession := rfl
@[simp] theorem State.freeUnit_colyr (s : State) (u : UnitId) : (s.freeUnit u).colyr = s.colyr := rfl
@[simp] theorem State.freeUnit_swap (s : State) (u : UnitId) : (s.freeUnit u).swap = s.swap := rfl
@[simp] theorem State.freeUnit_out (s : State) (u : UnitId) : (s.freeUnit u).out = s.out := rfl
@[simp] theorem State.freeUnit_freeIx (s : State) (u : UnitId) : (s.freeUnit u).freeIx = s.freeIx := rfl

@[simp] theorem State.setCtx_pending (s : State) (n : Nat) (x : Ctx) : (s.setCtx n x).pending = s.pending := rfl
@[simp] theorem State.setCtx_order (s : State) (n : Nat) (x : Ctx) : (s.setCtx n x).order = s.order := rfl
@[simp] theorem State.setCtx_mem (s : State) (n : Nat) (x : Ctx) : (s.setCtx n x).mem = s.mem := rfl
@[simp] theorem State.setCtx_units (s : State) (n : Nat) (x : Ctx) : (s.setCtx n x).units = s.units := rfl
@[simp] theorem State.setCtx_ctxs (s : State) (n : Nat) (x : Ctx) : (s.setCtx n x).ctxs = NMap.set s.ctxs n x := rfl
@[simp] theorem State.setCtx_hosts (s : State) (n : Nat) (x : Ctx) : (s.setCtx n x).hosts = s.hosts := rfl
@[simp] theorem State.setCtx_sessions (s : State) (n : Nat) (x : Ctx) : (s.setCtx n x).sessions = s.sessions := rfl
@[simp] theorem State.setCtx_ports (s : State) (n : Nat) (x : Ctx) : (s.setCtx n x).ports = s.ports := rfl
@[simp] theorem State.setCtx_portModes (s : State) (n : Nat) (x : Ctx) : (s.setCtx n x).portModes = s.portModes := rfl
@[simp] theorem State.setCtx_fabric (s : State) (n : Nat) (x : Ctx) : (s.setCtx n x).fabric = s.fabric := rfl
@[simp] theorem State.setCtx_squalls (s : State) (n : Nat) (x : Ctx) : (s.setCtx n x).squalls = s.squalls := rfl
@[simp] theorem State.setCtx_squallSeq (s : State) (n : Nat) (x : Ctx) : (s.setCtx n x).squallSeq = s.squallSeq := rfl
@[simp] theorem State.setCtx_squallSeen (s : State) (n : Nat) (x : Ctx) : (s.setCtx n x).squallSeen = s.squallSeen := rfl
@[simp] theorem State.setCtx_drr (s : State) (n : Nat) (x : Ctx) : (s.setCtx n x).drr = s.drr := rfl
@[simp] theorem State.setCtx_near (s : State) (n : Nat) (x : Ctx) : (s.setCtx n x).near = s.near := rfl
@[simp] theorem State.setCtx_far (s : State) (n : Nat) (x : Ctx) : (s.setCtx n x).far = s.far := rfl
@[simp] theorem State.setCtx_corrected (s : State) (n : Nat) (x : Ctx) : (s.setCtx n x).corrected = s.corrected := rfl
@[simp] theorem State.setCtx_maintRun (s : State) (n : Nat) (x : Ctx) : (s.setCtx n x).maintRun = s.maintRun := rfl
@[simp] theorem State.setCtx_maintQueue (s : State) (n : Nat) (x : Ctx) : (s.setCtx n x).maintQueue = s.maintQueue := rfl
@[simp] theorem State.setCtx_excluded (s : State) (n : Nat) (x : Ctx) : (s.setCtx n x).excluded = s.excluded := rfl
@[simp] theorem State.setCtx_exclDies (s : State) (n : Nat) (x : Ctx) : (s.setCtx n x).exclDies = s.exclDies := rfl
@[simp] theorem State.setCtx_exclEdges (s : State) (n : Nat) (x : Ctx) : (s.setCtx n x).exclEdges = s.exclEdges := rfl
@[simp] theorem State.setCtx_halfEdges (s : State) (n : Nat) (x : Ctx) : (s.setCtx n x).halfEdges = s.halfEdges := rfl
@[simp] theorem State.setCtx_islandsDown (s : State) (n : Nat) (x : Ctx) : (s.setCtx n x).islandsDown = s.islandsDown := rfl
@[simp] theorem State.setCtx_exclIslands (s : State) (n : Nat) (x : Ctx) : (s.setCtx n x).exclIslands = s.exclIslands := rfl
@[simp] theorem State.setCtx_strikes (s : State) (n : Nat) (x : Ctx) : (s.setCtx n x).strikes = s.strikes := rfl
@[simp] theorem State.setCtx_restarts (s : State) (n : Nat) (x : Ctx) : (s.setCtx n x).restarts = s.restarts := rfl
@[simp] theorem State.setCtx_resets (s : State) (n : Nat) (x : Ctx) : (s.setCtx n x).resets = s.resets := rfl
@[simp] theorem State.setCtx_dseq (s : State) (n : Nat) (x : Ctx) : (s.setCtx n x).dseq = s.dseq := rfl
@[simp] theorem State.setCtx_edgeSeq (s : State) (n : Nat) (x : Ctx) : (s.setCtx n x).edgeSeq = s.edgeSeq := rfl
@[simp] theorem State.setCtx_edgeFails (s : State) (n : Nat) (x : Ctx) : (s.setCtx n x).edgeFails = s.edgeFails := rfl
@[simp] theorem State.setCtx_fw (s : State) (n : Nat) (x : Ctx) : (s.setCtx n x).fw = s.fw := rfl
@[simp] theorem State.setCtx_recSession (s : State) (n : Nat) (x : Ctx) : (s.setCtx n x).recSession = s.recSession := rfl
@[simp] theorem State.setCtx_power (s : State) (n : Nat) (x : Ctx) : (s.setCtx n x).power = s.power := rfl
@[simp] theorem State.setCtx_colyr (s : State) (n : Nat) (x : Ctx) : (s.setCtx n x).colyr = s.colyr := rfl
@[simp] theorem State.setCtx_swap (s : State) (n : Nat) (x : Ctx) : (s.setCtx n x).swap = s.swap := rfl
@[simp] theorem State.setCtx_out (s : State) (n : Nat) (x : Ctx) : (s.setCtx n x).out = s.out := rfl
@[simp] theorem State.setCtx_freeIx (s : State) (n : Nat) (x : Ctx) : (s.setCtx n x).freeIx = s.freeIx := rfl

@[simp] theorem State.modCtx_pending (s : State) (n : Nat) (f : Ctx → Ctx) : (s.modCtx n f).pending = s.pending := rfl
@[simp] theorem State.modCtx_order (s : State) (n : Nat) (f : Ctx → Ctx) : (s.modCtx n f).order = s.order := rfl
@[simp] theorem State.modCtx_mem (s : State) (n : Nat) (f : Ctx → Ctx) : (s.modCtx n f).mem = s.mem := rfl
@[simp] theorem State.modCtx_units (s : State) (n : Nat) (f : Ctx → Ctx) : (s.modCtx n f).units = s.units := rfl
@[simp] theorem State.modCtx_ctxs (s : State) (n : Nat) (f : Ctx → Ctx) : (s.modCtx n f).ctxs = NMap.modify s.ctxs n f := rfl
@[simp] theorem State.modCtx_hosts (s : State) (n : Nat) (f : Ctx → Ctx) : (s.modCtx n f).hosts = s.hosts := rfl
@[simp] theorem State.modCtx_sessions (s : State) (n : Nat) (f : Ctx → Ctx) : (s.modCtx n f).sessions = s.sessions := rfl
@[simp] theorem State.modCtx_ports (s : State) (n : Nat) (f : Ctx → Ctx) : (s.modCtx n f).ports = s.ports := rfl
@[simp] theorem State.modCtx_portModes (s : State) (n : Nat) (f : Ctx → Ctx) : (s.modCtx n f).portModes = s.portModes := rfl
@[simp] theorem State.modCtx_fabric (s : State) (n : Nat) (f : Ctx → Ctx) : (s.modCtx n f).fabric = s.fabric := rfl
@[simp] theorem State.modCtx_squalls (s : State) (n : Nat) (f : Ctx → Ctx) : (s.modCtx n f).squalls = s.squalls := rfl
@[simp] theorem State.modCtx_squallSeq (s : State) (n : Nat) (f : Ctx → Ctx) : (s.modCtx n f).squallSeq = s.squallSeq := rfl
@[simp] theorem State.modCtx_squallSeen (s : State) (n : Nat) (f : Ctx → Ctx) : (s.modCtx n f).squallSeen = s.squallSeen := rfl
@[simp] theorem State.modCtx_drr (s : State) (n : Nat) (f : Ctx → Ctx) : (s.modCtx n f).drr = s.drr := rfl
@[simp] theorem State.modCtx_near (s : State) (n : Nat) (f : Ctx → Ctx) : (s.modCtx n f).near = s.near := rfl
@[simp] theorem State.modCtx_far (s : State) (n : Nat) (f : Ctx → Ctx) : (s.modCtx n f).far = s.far := rfl
@[simp] theorem State.modCtx_corrected (s : State) (n : Nat) (f : Ctx → Ctx) : (s.modCtx n f).corrected = s.corrected := rfl
@[simp] theorem State.modCtx_maintRun (s : State) (n : Nat) (f : Ctx → Ctx) : (s.modCtx n f).maintRun = s.maintRun := rfl
@[simp] theorem State.modCtx_maintQueue (s : State) (n : Nat) (f : Ctx → Ctx) : (s.modCtx n f).maintQueue = s.maintQueue := rfl
@[simp] theorem State.modCtx_excluded (s : State) (n : Nat) (f : Ctx → Ctx) : (s.modCtx n f).excluded = s.excluded := rfl
@[simp] theorem State.modCtx_exclDies (s : State) (n : Nat) (f : Ctx → Ctx) : (s.modCtx n f).exclDies = s.exclDies := rfl
@[simp] theorem State.modCtx_exclEdges (s : State) (n : Nat) (f : Ctx → Ctx) : (s.modCtx n f).exclEdges = s.exclEdges := rfl
@[simp] theorem State.modCtx_halfEdges (s : State) (n : Nat) (f : Ctx → Ctx) : (s.modCtx n f).halfEdges = s.halfEdges := rfl
@[simp] theorem State.modCtx_islandsDown (s : State) (n : Nat) (f : Ctx → Ctx) : (s.modCtx n f).islandsDown = s.islandsDown := rfl
@[simp] theorem State.modCtx_exclIslands (s : State) (n : Nat) (f : Ctx → Ctx) : (s.modCtx n f).exclIslands = s.exclIslands := rfl
@[simp] theorem State.modCtx_strikes (s : State) (n : Nat) (f : Ctx → Ctx) : (s.modCtx n f).strikes = s.strikes := rfl
@[simp] theorem State.modCtx_restarts (s : State) (n : Nat) (f : Ctx → Ctx) : (s.modCtx n f).restarts = s.restarts := rfl
@[simp] theorem State.modCtx_resets (s : State) (n : Nat) (f : Ctx → Ctx) : (s.modCtx n f).resets = s.resets := rfl
@[simp] theorem State.modCtx_dseq (s : State) (n : Nat) (f : Ctx → Ctx) : (s.modCtx n f).dseq = s.dseq := rfl
@[simp] theorem State.modCtx_edgeSeq (s : State) (n : Nat) (f : Ctx → Ctx) : (s.modCtx n f).edgeSeq = s.edgeSeq := rfl
@[simp] theorem State.modCtx_edgeFails (s : State) (n : Nat) (f : Ctx → Ctx) : (s.modCtx n f).edgeFails = s.edgeFails := rfl
@[simp] theorem State.modCtx_fw (s : State) (n : Nat) (f : Ctx → Ctx) : (s.modCtx n f).fw = s.fw := rfl
@[simp] theorem State.modCtx_recSession (s : State) (n : Nat) (f : Ctx → Ctx) : (s.modCtx n f).recSession = s.recSession := rfl
@[simp] theorem State.modCtx_power (s : State) (n : Nat) (f : Ctx → Ctx) : (s.modCtx n f).power = s.power := rfl
@[simp] theorem State.modCtx_colyr (s : State) (n : Nat) (f : Ctx → Ctx) : (s.modCtx n f).colyr = s.colyr := rfl
@[simp] theorem State.modCtx_swap (s : State) (n : Nat) (f : Ctx → Ctx) : (s.modCtx n f).swap = s.swap := rfl
@[simp] theorem State.modCtx_out (s : State) (n : Nat) (f : Ctx → Ctx) : (s.modCtx n f).out = s.out := rfl
@[simp] theorem State.modCtx_freeIx (s : State) (n : Nat) (f : Ctx → Ctx) : (s.modCtx n f).freeIx = s.freeIx := rfl

@[simp] theorem State.setHost_pending (s : State) (n : Nat) (x : HostRec) : (s.setHost n x).pending = s.pending := rfl
@[simp] theorem State.setHost_order (s : State) (n : Nat) (x : HostRec) : (s.setHost n x).order = s.order := rfl
@[simp] theorem State.setHost_mem (s : State) (n : Nat) (x : HostRec) : (s.setHost n x).mem = s.mem := rfl
@[simp] theorem State.setHost_units (s : State) (n : Nat) (x : HostRec) : (s.setHost n x).units = s.units := rfl
@[simp] theorem State.setHost_ctxs (s : State) (n : Nat) (x : HostRec) : (s.setHost n x).ctxs = s.ctxs := rfl
@[simp] theorem State.setHost_hosts (s : State) (n : Nat) (x : HostRec) : (s.setHost n x).hosts = NMap.set s.hosts n x := rfl
@[simp] theorem State.setHost_sessions (s : State) (n : Nat) (x : HostRec) : (s.setHost n x).sessions = s.sessions := rfl
@[simp] theorem State.setHost_ports (s : State) (n : Nat) (x : HostRec) : (s.setHost n x).ports = s.ports := rfl
@[simp] theorem State.setHost_portModes (s : State) (n : Nat) (x : HostRec) : (s.setHost n x).portModes = s.portModes := rfl
@[simp] theorem State.setHost_fabric (s : State) (n : Nat) (x : HostRec) : (s.setHost n x).fabric = s.fabric := rfl
@[simp] theorem State.setHost_squalls (s : State) (n : Nat) (x : HostRec) : (s.setHost n x).squalls = s.squalls := rfl
@[simp] theorem State.setHost_squallSeq (s : State) (n : Nat) (x : HostRec) : (s.setHost n x).squallSeq = s.squallSeq := rfl
@[simp] theorem State.setHost_squallSeen (s : State) (n : Nat) (x : HostRec) : (s.setHost n x).squallSeen = s.squallSeen := rfl
@[simp] theorem State.setHost_drr (s : State) (n : Nat) (x : HostRec) : (s.setHost n x).drr = s.drr := rfl
@[simp] theorem State.setHost_near (s : State) (n : Nat) (x : HostRec) : (s.setHost n x).near = s.near := rfl
@[simp] theorem State.setHost_far (s : State) (n : Nat) (x : HostRec) : (s.setHost n x).far = s.far := rfl
@[simp] theorem State.setHost_corrected (s : State) (n : Nat) (x : HostRec) : (s.setHost n x).corrected = s.corrected := rfl
@[simp] theorem State.setHost_maintRun (s : State) (n : Nat) (x : HostRec) : (s.setHost n x).maintRun = s.maintRun := rfl
@[simp] theorem State.setHost_maintQueue (s : State) (n : Nat) (x : HostRec) : (s.setHost n x).maintQueue = s.maintQueue := rfl
@[simp] theorem State.setHost_excluded (s : State) (n : Nat) (x : HostRec) : (s.setHost n x).excluded = s.excluded := rfl
@[simp] theorem State.setHost_exclDies (s : State) (n : Nat) (x : HostRec) : (s.setHost n x).exclDies = s.exclDies := rfl
@[simp] theorem State.setHost_exclEdges (s : State) (n : Nat) (x : HostRec) : (s.setHost n x).exclEdges = s.exclEdges := rfl
@[simp] theorem State.setHost_halfEdges (s : State) (n : Nat) (x : HostRec) : (s.setHost n x).halfEdges = s.halfEdges := rfl
@[simp] theorem State.setHost_islandsDown (s : State) (n : Nat) (x : HostRec) : (s.setHost n x).islandsDown = s.islandsDown := rfl
@[simp] theorem State.setHost_exclIslands (s : State) (n : Nat) (x : HostRec) : (s.setHost n x).exclIslands = s.exclIslands := rfl
@[simp] theorem State.setHost_strikes (s : State) (n : Nat) (x : HostRec) : (s.setHost n x).strikes = s.strikes := rfl
@[simp] theorem State.setHost_restarts (s : State) (n : Nat) (x : HostRec) : (s.setHost n x).restarts = s.restarts := rfl
@[simp] theorem State.setHost_resets (s : State) (n : Nat) (x : HostRec) : (s.setHost n x).resets = s.resets := rfl
@[simp] theorem State.setHost_dseq (s : State) (n : Nat) (x : HostRec) : (s.setHost n x).dseq = s.dseq := rfl
@[simp] theorem State.setHost_edgeSeq (s : State) (n : Nat) (x : HostRec) : (s.setHost n x).edgeSeq = s.edgeSeq := rfl
@[simp] theorem State.setHost_edgeFails (s : State) (n : Nat) (x : HostRec) : (s.setHost n x).edgeFails = s.edgeFails := rfl
@[simp] theorem State.setHost_fw (s : State) (n : Nat) (x : HostRec) : (s.setHost n x).fw = s.fw := rfl
@[simp] theorem State.setHost_recSession (s : State) (n : Nat) (x : HostRec) : (s.setHost n x).recSession = s.recSession := rfl
@[simp] theorem State.setHost_power (s : State) (n : Nat) (x : HostRec) : (s.setHost n x).power = s.power := rfl
@[simp] theorem State.setHost_colyr (s : State) (n : Nat) (x : HostRec) : (s.setHost n x).colyr = s.colyr := rfl
@[simp] theorem State.setHost_swap (s : State) (n : Nat) (x : HostRec) : (s.setHost n x).swap = s.swap := rfl
@[simp] theorem State.setHost_out (s : State) (n : Nat) (x : HostRec) : (s.setHost n x).out = s.out := rfl
@[simp] theorem State.setHost_freeIx (s : State) (n : Nat) (x : HostRec) : (s.setHost n x).freeIx = s.freeIx := rfl

@[simp] theorem State.emit_pending (s : State) (o : Out) : (s.emit o).pending = s.pending := rfl
@[simp] theorem State.emit_order (s : State) (o : Out) : (s.emit o).order = s.order := rfl
@[simp] theorem State.emit_mem (s : State) (o : Out) : (s.emit o).mem = s.mem := rfl
@[simp] theorem State.emit_units (s : State) (o : Out) : (s.emit o).units = s.units := rfl
@[simp] theorem State.emit_ctxs (s : State) (o : Out) : (s.emit o).ctxs = s.ctxs := rfl
@[simp] theorem State.emit_hosts (s : State) (o : Out) : (s.emit o).hosts = s.hosts := rfl
@[simp] theorem State.emit_sessions (s : State) (o : Out) : (s.emit o).sessions = s.sessions := rfl
@[simp] theorem State.emit_ports (s : State) (o : Out) : (s.emit o).ports = s.ports := rfl
@[simp] theorem State.emit_portModes (s : State) (o : Out) : (s.emit o).portModes = s.portModes := rfl
@[simp] theorem State.emit_fabric (s : State) (o : Out) : (s.emit o).fabric = s.fabric := rfl
@[simp] theorem State.emit_squalls (s : State) (o : Out) : (s.emit o).squalls = s.squalls := rfl
@[simp] theorem State.emit_squallSeq (s : State) (o : Out) : (s.emit o).squallSeq = s.squallSeq := rfl
@[simp] theorem State.emit_squallSeen (s : State) (o : Out) : (s.emit o).squallSeen = s.squallSeen := rfl
@[simp] theorem State.emit_drr (s : State) (o : Out) : (s.emit o).drr = s.drr := rfl
@[simp] theorem State.emit_near (s : State) (o : Out) : (s.emit o).near = s.near := rfl
@[simp] theorem State.emit_far (s : State) (o : Out) : (s.emit o).far = s.far := rfl
@[simp] theorem State.emit_corrected (s : State) (o : Out) : (s.emit o).corrected = s.corrected := rfl
@[simp] theorem State.emit_maintRun (s : State) (o : Out) : (s.emit o).maintRun = s.maintRun := rfl
@[simp] theorem State.emit_maintQueue (s : State) (o : Out) : (s.emit o).maintQueue = s.maintQueue := rfl
@[simp] theorem State.emit_excluded (s : State) (o : Out) : (s.emit o).excluded = s.excluded := rfl
@[simp] theorem State.emit_exclDies (s : State) (o : Out) : (s.emit o).exclDies = s.exclDies := rfl
@[simp] theorem State.emit_exclEdges (s : State) (o : Out) : (s.emit o).exclEdges = s.exclEdges := rfl
@[simp] theorem State.emit_halfEdges (s : State) (o : Out) : (s.emit o).halfEdges = s.halfEdges := rfl
@[simp] theorem State.emit_islandsDown (s : State) (o : Out) : (s.emit o).islandsDown = s.islandsDown := rfl
@[simp] theorem State.emit_exclIslands (s : State) (o : Out) : (s.emit o).exclIslands = s.exclIslands := rfl
@[simp] theorem State.emit_strikes (s : State) (o : Out) : (s.emit o).strikes = s.strikes := rfl
@[simp] theorem State.emit_restarts (s : State) (o : Out) : (s.emit o).restarts = s.restarts := rfl
@[simp] theorem State.emit_resets (s : State) (o : Out) : (s.emit o).resets = s.resets := rfl
@[simp] theorem State.emit_dseq (s : State) (o : Out) : (s.emit o).dseq = s.dseq := rfl
@[simp] theorem State.emit_edgeSeq (s : State) (o : Out) : (s.emit o).edgeSeq = s.edgeSeq := rfl
@[simp] theorem State.emit_edgeFails (s : State) (o : Out) : (s.emit o).edgeFails = s.edgeFails := rfl
@[simp] theorem State.emit_fw (s : State) (o : Out) : (s.emit o).fw = s.fw := rfl
@[simp] theorem State.emit_recSession (s : State) (o : Out) : (s.emit o).recSession = s.recSession := rfl
@[simp] theorem State.emit_power (s : State) (o : Out) : (s.emit o).power = s.power := rfl
@[simp] theorem State.emit_colyr (s : State) (o : Out) : (s.emit o).colyr = s.colyr := rfl
@[simp] theorem State.emit_swap (s : State) (o : Out) : (s.emit o).swap = s.swap := rfl
@[simp] theorem State.emit_out (s : State) (o : Out) : (s.emit o).out = s.out ++ [o] := rfl
@[simp] theorem State.emit_freeIx (s : State) (o : Out) : (s.emit o).freeIx = s.freeIx := rfl

@[simp] theorem State.tick_pending (s : State) : (s.tick).pending = s.pending := rfl
@[simp] theorem State.tick_order (s : State) : (s.tick).order = s.order := rfl
@[simp] theorem State.tick_mem (s : State) : (s.tick).mem = s.mem := rfl
@[simp] theorem State.tick_units (s : State) : (s.tick).units = s.units := rfl
@[simp] theorem State.tick_ctxs (s : State) : (s.tick).ctxs = s.ctxs := rfl
@[simp] theorem State.tick_hosts (s : State) : (s.tick).hosts = s.hosts := rfl
@[simp] theorem State.tick_sessions (s : State) : (s.tick).sessions = s.sessions := rfl
@[simp] theorem State.tick_ports (s : State) : (s.tick).ports = s.ports := rfl
@[simp] theorem State.tick_portModes (s : State) : (s.tick).portModes = s.portModes := rfl
@[simp] theorem State.tick_fabric (s : State) : (s.tick).fabric = s.fabric := rfl
@[simp] theorem State.tick_squalls (s : State) : (s.tick).squalls = s.squalls := rfl
@[simp] theorem State.tick_squallSeq (s : State) : (s.tick).squallSeq = s.squallSeq := rfl
@[simp] theorem State.tick_squallSeen (s : State) : (s.tick).squallSeen = s.squallSeen := rfl
@[simp] theorem State.tick_drr (s : State) : (s.tick).drr = s.drr := rfl
@[simp] theorem State.tick_near (s : State) : (s.tick).near = s.near := rfl
@[simp] theorem State.tick_far (s : State) : (s.tick).far = s.far := rfl
@[simp] theorem State.tick_corrected (s : State) : (s.tick).corrected = s.corrected := rfl
@[simp] theorem State.tick_maintRun (s : State) : (s.tick).maintRun = s.maintRun := rfl
@[simp] theorem State.tick_maintQueue (s : State) : (s.tick).maintQueue = s.maintQueue := rfl
@[simp] theorem State.tick_excluded (s : State) : (s.tick).excluded = s.excluded := rfl
@[simp] theorem State.tick_exclDies (s : State) : (s.tick).exclDies = s.exclDies := rfl
@[simp] theorem State.tick_exclEdges (s : State) : (s.tick).exclEdges = s.exclEdges := rfl
@[simp] theorem State.tick_halfEdges (s : State) : (s.tick).halfEdges = s.halfEdges := rfl
@[simp] theorem State.tick_islandsDown (s : State) : (s.tick).islandsDown = s.islandsDown := rfl
@[simp] theorem State.tick_exclIslands (s : State) : (s.tick).exclIslands = s.exclIslands := rfl
@[simp] theorem State.tick_strikes (s : State) : (s.tick).strikes = s.strikes := rfl
@[simp] theorem State.tick_restarts (s : State) : (s.tick).restarts = s.restarts := rfl
@[simp] theorem State.tick_resets (s : State) : (s.tick).resets = s.resets := rfl
@[simp] theorem State.tick_dseq (s : State) : (s.tick).dseq = s.dseq := rfl
@[simp] theorem State.tick_edgeSeq (s : State) : (s.tick).edgeSeq = s.edgeSeq := rfl
@[simp] theorem State.tick_edgeFails (s : State) : (s.tick).edgeFails = s.edgeFails := rfl
@[simp] theorem State.tick_fw (s : State) : (s.tick).fw = s.fw := rfl
@[simp] theorem State.tick_recSession (s : State) : (s.tick).recSession = s.recSession := rfl
@[simp] theorem State.tick_power (s : State) : (s.tick).power = s.power := rfl
@[simp] theorem State.tick_colyr (s : State) : (s.tick).colyr = s.colyr := rfl
@[simp] theorem State.tick_swap (s : State) : (s.tick).swap = s.swap := rfl
@[simp] theorem State.tick_out (s : State) : (s.tick).out = s.out := rfl
@[simp] theorem State.tick_freeIx (s : State) : (s.tick).freeIx = s.freeIx + 1 := rfl

@[simp] theorem State.log_pending (s : State) (die isl idx record : Nat) : (s.log die isl idx record).pending = s.pending := rfl
@[simp] theorem State.log_order (s : State) (die isl idx record : Nat) : (s.log die isl idx record).order = s.order := rfl
@[simp] theorem State.log_mem (s : State) (die isl idx record : Nat) : (s.log die isl idx record).mem = s.mem := rfl
@[simp] theorem State.log_units (s : State) (die isl idx record : Nat) : (s.log die isl idx record).units = s.units := rfl
@[simp] theorem State.log_ctxs (s : State) (die isl idx record : Nat) : (s.log die isl idx record).ctxs = s.ctxs := rfl
@[simp] theorem State.log_hosts (s : State) (die isl idx record : Nat) : (s.log die isl idx record).hosts = s.hosts := rfl
@[simp] theorem State.log_sessions (s : State) (die isl idx record : Nat) : (s.log die isl idx record).sessions = s.sessions := rfl
@[simp] theorem State.log_ports (s : State) (die isl idx record : Nat) : (s.log die isl idx record).ports = s.ports := rfl
@[simp] theorem State.log_portModes (s : State) (die isl idx record : Nat) : (s.log die isl idx record).portModes = s.portModes := rfl
@[simp] theorem State.log_fabric (s : State) (die isl idx record : Nat) : (s.log die isl idx record).fabric = s.fabric := rfl
@[simp] theorem State.log_squalls (s : State) (die isl idx record : Nat) : (s.log die isl idx record).squalls = s.squalls := rfl
@[simp] theorem State.log_squallSeq (s : State) (die isl idx record : Nat) : (s.log die isl idx record).squallSeq = s.squallSeq := rfl
@[simp] theorem State.log_squallSeen (s : State) (die isl idx record : Nat) : (s.log die isl idx record).squallSeen = s.squallSeen := rfl
@[simp] theorem State.log_drr (s : State) (die isl idx record : Nat) : (s.log die isl idx record).drr = s.drr := rfl
@[simp] theorem State.log_near (s : State) (die isl idx record : Nat) : (s.log die isl idx record).near = s.near := rfl
@[simp] theorem State.log_far (s : State) (die isl idx record : Nat) : (s.log die isl idx record).far = s.far := rfl
@[simp] theorem State.log_corrected (s : State) (die isl idx record : Nat) : (s.log die isl idx record).corrected = s.corrected := rfl
@[simp] theorem State.log_maintRun (s : State) (die isl idx record : Nat) : (s.log die isl idx record).maintRun = s.maintRun := rfl
@[simp] theorem State.log_maintQueue (s : State) (die isl idx record : Nat) : (s.log die isl idx record).maintQueue = s.maintQueue := rfl
@[simp] theorem State.log_excluded (s : State) (die isl idx record : Nat) : (s.log die isl idx record).excluded = s.excluded := rfl
@[simp] theorem State.log_exclDies (s : State) (die isl idx record : Nat) : (s.log die isl idx record).exclDies = s.exclDies := rfl
@[simp] theorem State.log_exclEdges (s : State) (die isl idx record : Nat) : (s.log die isl idx record).exclEdges = s.exclEdges := rfl
@[simp] theorem State.log_halfEdges (s : State) (die isl idx record : Nat) : (s.log die isl idx record).halfEdges = s.halfEdges := rfl
@[simp] theorem State.log_islandsDown (s : State) (die isl idx record : Nat) : (s.log die isl idx record).islandsDown = s.islandsDown := rfl
@[simp] theorem State.log_exclIslands (s : State) (die isl idx record : Nat) : (s.log die isl idx record).exclIslands = s.exclIslands := rfl
@[simp] theorem State.log_strikes (s : State) (die isl idx record : Nat) : (s.log die isl idx record).strikes = s.strikes := rfl
@[simp] theorem State.log_restarts (s : State) (die isl idx record : Nat) : (s.log die isl idx record).restarts = s.restarts := rfl
@[simp] theorem State.log_resets (s : State) (die isl idx record : Nat) : (s.log die isl idx record).resets = s.resets := rfl
@[simp] theorem State.log_dseq (s : State) (die isl idx record : Nat) : (s.log die isl idx record).dseq = setNth s.dseq die (nth 0 s.dseq die + 1) := rfl
@[simp] theorem State.log_edgeSeq (s : State) (die isl idx record : Nat) : (s.log die isl idx record).edgeSeq = s.edgeSeq := rfl
@[simp] theorem State.log_edgeFails (s : State) (die isl idx record : Nat) : (s.log die isl idx record).edgeFails = s.edgeFails := rfl
@[simp] theorem State.log_fw (s : State) (die isl idx record : Nat) : (s.log die isl idx record).fw = s.fw := rfl
@[simp] theorem State.log_recSession (s : State) (die isl idx record : Nat) : (s.log die isl idx record).recSession = s.recSession := rfl
@[simp] theorem State.log_power (s : State) (die isl idx record : Nat) : (s.log die isl idx record).power = s.power := rfl
@[simp] theorem State.log_swap (s : State) (die isl idx record : Nat) : (s.log die isl idx record).swap = s.swap := rfl
@[simp] theorem State.log_out (s : State) (die isl idx record : Nat) : (s.log die isl idx record).out = s.out := rfl

@[simp] theorem State.logMgmt_pending (s : State) (kind lport slot cause detail : Nat) : (s.logMgmt kind lport slot cause detail).pending = s.pending := rfl
@[simp] theorem State.logMgmt_order (s : State) (kind lport slot cause detail : Nat) : (s.logMgmt kind lport slot cause detail).order = s.order := rfl
@[simp] theorem State.logMgmt_mem (s : State) (kind lport slot cause detail : Nat) : (s.logMgmt kind lport slot cause detail).mem = s.mem := rfl
@[simp] theorem State.logMgmt_units (s : State) (kind lport slot cause detail : Nat) : (s.logMgmt kind lport slot cause detail).units = s.units := rfl
@[simp] theorem State.logMgmt_ctxs (s : State) (kind lport slot cause detail : Nat) : (s.logMgmt kind lport slot cause detail).ctxs = s.ctxs := rfl
@[simp] theorem State.logMgmt_hosts (s : State) (kind lport slot cause detail : Nat) : (s.logMgmt kind lport slot cause detail).hosts = s.hosts := rfl
@[simp] theorem State.logMgmt_sessions (s : State) (kind lport slot cause detail : Nat) : (s.logMgmt kind lport slot cause detail).sessions = s.sessions := rfl
@[simp] theorem State.logMgmt_ports (s : State) (kind lport slot cause detail : Nat) : (s.logMgmt kind lport slot cause detail).ports = s.ports := rfl
@[simp] theorem State.logMgmt_portModes (s : State) (kind lport slot cause detail : Nat) : (s.logMgmt kind lport slot cause detail).portModes = s.portModes := rfl
@[simp] theorem State.logMgmt_fabric (s : State) (kind lport slot cause detail : Nat) : (s.logMgmt kind lport slot cause detail).fabric = s.fabric := rfl
@[simp] theorem State.logMgmt_squalls (s : State) (kind lport slot cause detail : Nat) : (s.logMgmt kind lport slot cause detail).squalls = s.squalls := rfl
@[simp] theorem State.logMgmt_squallSeq (s : State) (kind lport slot cause detail : Nat) : (s.logMgmt kind lport slot cause detail).squallSeq = s.squallSeq := rfl
@[simp] theorem State.logMgmt_squallSeen (s : State) (kind lport slot cause detail : Nat) : (s.logMgmt kind lport slot cause detail).squallSeen = s.squallSeen := rfl
@[simp] theorem State.logMgmt_drr (s : State) (kind lport slot cause detail : Nat) : (s.logMgmt kind lport slot cause detail).drr = s.drr := rfl
@[simp] theorem State.logMgmt_near (s : State) (kind lport slot cause detail : Nat) : (s.logMgmt kind lport slot cause detail).near = s.near := rfl
@[simp] theorem State.logMgmt_far (s : State) (kind lport slot cause detail : Nat) : (s.logMgmt kind lport slot cause detail).far = s.far := rfl
@[simp] theorem State.logMgmt_corrected (s : State) (kind lport slot cause detail : Nat) : (s.logMgmt kind lport slot cause detail).corrected = s.corrected := rfl
@[simp] theorem State.logMgmt_maintRun (s : State) (kind lport slot cause detail : Nat) : (s.logMgmt kind lport slot cause detail).maintRun = s.maintRun := rfl
@[simp] theorem State.logMgmt_maintQueue (s : State) (kind lport slot cause detail : Nat) : (s.logMgmt kind lport slot cause detail).maintQueue = s.maintQueue := rfl
@[simp] theorem State.logMgmt_excluded (s : State) (kind lport slot cause detail : Nat) : (s.logMgmt kind lport slot cause detail).excluded = s.excluded := rfl
@[simp] theorem State.logMgmt_exclDies (s : State) (kind lport slot cause detail : Nat) : (s.logMgmt kind lport slot cause detail).exclDies = s.exclDies := rfl
@[simp] theorem State.logMgmt_exclEdges (s : State) (kind lport slot cause detail : Nat) : (s.logMgmt kind lport slot cause detail).exclEdges = s.exclEdges := rfl
@[simp] theorem State.logMgmt_halfEdges (s : State) (kind lport slot cause detail : Nat) : (s.logMgmt kind lport slot cause detail).halfEdges = s.halfEdges := rfl
@[simp] theorem State.logMgmt_islandsDown (s : State) (kind lport slot cause detail : Nat) : (s.logMgmt kind lport slot cause detail).islandsDown = s.islandsDown := rfl
@[simp] theorem State.logMgmt_exclIslands (s : State) (kind lport slot cause detail : Nat) : (s.logMgmt kind lport slot cause detail).exclIslands = s.exclIslands := rfl
@[simp] theorem State.logMgmt_strikes (s : State) (kind lport slot cause detail : Nat) : (s.logMgmt kind lport slot cause detail).strikes = s.strikes := rfl
@[simp] theorem State.logMgmt_restarts (s : State) (kind lport slot cause detail : Nat) : (s.logMgmt kind lport slot cause detail).restarts = s.restarts := rfl
@[simp] theorem State.logMgmt_resets (s : State) (kind lport slot cause detail : Nat) : (s.logMgmt kind lport slot cause detail).resets = s.resets := rfl
@[simp] theorem State.logMgmt_edgeSeq (s : State) (kind lport slot cause detail : Nat) : (s.logMgmt kind lport slot cause detail).edgeSeq = s.edgeSeq := rfl
@[simp] theorem State.logMgmt_edgeFails (s : State) (kind lport slot cause detail : Nat) : (s.logMgmt kind lport slot cause detail).edgeFails = s.edgeFails := rfl
@[simp] theorem State.logMgmt_fw (s : State) (kind lport slot cause detail : Nat) : (s.logMgmt kind lport slot cause detail).fw = s.fw := rfl
@[simp] theorem State.logMgmt_recSession (s : State) (kind lport slot cause detail : Nat) : (s.logMgmt kind lport slot cause detail).recSession = s.recSession := rfl
@[simp] theorem State.logMgmt_power (s : State) (kind lport slot cause detail : Nat) : (s.logMgmt kind lport slot cause detail).power = s.power := rfl
@[simp] theorem State.logMgmt_swap (s : State) (kind lport slot cause detail : Nat) : (s.logMgmt kind lport slot cause detail).swap = s.swap := rfl
@[simp] theorem State.logMgmt_out (s : State) (kind lport slot cause detail : Nat) : (s.logMgmt kind lport slot cause detail).out = s.out := rfl

@[simp] theorem State.logRec_pending (s : State) (kind die ukind unit ctx att step cause act detail : Nat) : (s.logRec kind die ukind unit ctx att step cause act detail).pending = s.pending := rfl
@[simp] theorem State.logRec_order (s : State) (kind die ukind unit ctx att step cause act detail : Nat) : (s.logRec kind die ukind unit ctx att step cause act detail).order = s.order := rfl
@[simp] theorem State.logRec_mem (s : State) (kind die ukind unit ctx att step cause act detail : Nat) : (s.logRec kind die ukind unit ctx att step cause act detail).mem = s.mem := rfl
@[simp] theorem State.logRec_units (s : State) (kind die ukind unit ctx att step cause act detail : Nat) : (s.logRec kind die ukind unit ctx att step cause act detail).units = s.units := rfl
@[simp] theorem State.logRec_ctxs (s : State) (kind die ukind unit ctx att step cause act detail : Nat) : (s.logRec kind die ukind unit ctx att step cause act detail).ctxs = s.ctxs := rfl
@[simp] theorem State.logRec_hosts (s : State) (kind die ukind unit ctx att step cause act detail : Nat) : (s.logRec kind die ukind unit ctx att step cause act detail).hosts = s.hosts := rfl
@[simp] theorem State.logRec_sessions (s : State) (kind die ukind unit ctx att step cause act detail : Nat) : (s.logRec kind die ukind unit ctx att step cause act detail).sessions = s.sessions := rfl
@[simp] theorem State.logRec_ports (s : State) (kind die ukind unit ctx att step cause act detail : Nat) : (s.logRec kind die ukind unit ctx att step cause act detail).ports = s.ports := rfl
@[simp] theorem State.logRec_portModes (s : State) (kind die ukind unit ctx att step cause act detail : Nat) : (s.logRec kind die ukind unit ctx att step cause act detail).portModes = s.portModes := rfl
@[simp] theorem State.logRec_fabric (s : State) (kind die ukind unit ctx att step cause act detail : Nat) : (s.logRec kind die ukind unit ctx att step cause act detail).fabric = s.fabric := rfl
@[simp] theorem State.logRec_squalls (s : State) (kind die ukind unit ctx att step cause act detail : Nat) : (s.logRec kind die ukind unit ctx att step cause act detail).squalls = s.squalls := rfl
@[simp] theorem State.logRec_squallSeq (s : State) (kind die ukind unit ctx att step cause act detail : Nat) : (s.logRec kind die ukind unit ctx att step cause act detail).squallSeq = s.squallSeq := rfl
@[simp] theorem State.logRec_squallSeen (s : State) (kind die ukind unit ctx att step cause act detail : Nat) : (s.logRec kind die ukind unit ctx att step cause act detail).squallSeen = s.squallSeen := rfl
@[simp] theorem State.logRec_drr (s : State) (kind die ukind unit ctx att step cause act detail : Nat) : (s.logRec kind die ukind unit ctx att step cause act detail).drr = s.drr := rfl
@[simp] theorem State.logRec_near (s : State) (kind die ukind unit ctx att step cause act detail : Nat) : (s.logRec kind die ukind unit ctx att step cause act detail).near = s.near := rfl
@[simp] theorem State.logRec_far (s : State) (kind die ukind unit ctx att step cause act detail : Nat) : (s.logRec kind die ukind unit ctx att step cause act detail).far = s.far := rfl
@[simp] theorem State.logRec_corrected (s : State) (kind die ukind unit ctx att step cause act detail : Nat) : (s.logRec kind die ukind unit ctx att step cause act detail).corrected = s.corrected := rfl
@[simp] theorem State.logRec_maintRun (s : State) (kind die ukind unit ctx att step cause act detail : Nat) : (s.logRec kind die ukind unit ctx att step cause act detail).maintRun = s.maintRun := rfl
@[simp] theorem State.logRec_maintQueue (s : State) (kind die ukind unit ctx att step cause act detail : Nat) : (s.logRec kind die ukind unit ctx att step cause act detail).maintQueue = s.maintQueue := rfl
@[simp] theorem State.logRec_excluded (s : State) (kind die ukind unit ctx att step cause act detail : Nat) : (s.logRec kind die ukind unit ctx att step cause act detail).excluded = s.excluded := rfl
@[simp] theorem State.logRec_exclDies (s : State) (kind die ukind unit ctx att step cause act detail : Nat) : (s.logRec kind die ukind unit ctx att step cause act detail).exclDies = s.exclDies := rfl
@[simp] theorem State.logRec_exclEdges (s : State) (kind die ukind unit ctx att step cause act detail : Nat) : (s.logRec kind die ukind unit ctx att step cause act detail).exclEdges = s.exclEdges := rfl
@[simp] theorem State.logRec_halfEdges (s : State) (kind die ukind unit ctx att step cause act detail : Nat) : (s.logRec kind die ukind unit ctx att step cause act detail).halfEdges = s.halfEdges := rfl
@[simp] theorem State.logRec_islandsDown (s : State) (kind die ukind unit ctx att step cause act detail : Nat) : (s.logRec kind die ukind unit ctx att step cause act detail).islandsDown = s.islandsDown := rfl
@[simp] theorem State.logRec_exclIslands (s : State) (kind die ukind unit ctx att step cause act detail : Nat) : (s.logRec kind die ukind unit ctx att step cause act detail).exclIslands = s.exclIslands := rfl
@[simp] theorem State.logRec_strikes (s : State) (kind die ukind unit ctx att step cause act detail : Nat) : (s.logRec kind die ukind unit ctx att step cause act detail).strikes = s.strikes := rfl
@[simp] theorem State.logRec_restarts (s : State) (kind die ukind unit ctx att step cause act detail : Nat) : (s.logRec kind die ukind unit ctx att step cause act detail).restarts = s.restarts := rfl
@[simp] theorem State.logRec_resets (s : State) (kind die ukind unit ctx att step cause act detail : Nat) : (s.logRec kind die ukind unit ctx att step cause act detail).resets = s.resets := rfl
@[simp] theorem State.logRec_edgeSeq (s : State) (kind die ukind unit ctx att step cause act detail : Nat) : (s.logRec kind die ukind unit ctx att step cause act detail).edgeSeq = s.edgeSeq := rfl
@[simp] theorem State.logRec_edgeFails (s : State) (kind die ukind unit ctx att step cause act detail : Nat) : (s.logRec kind die ukind unit ctx att step cause act detail).edgeFails = s.edgeFails := rfl
@[simp] theorem State.logRec_fw (s : State) (kind die ukind unit ctx att step cause act detail : Nat) : (s.logRec kind die ukind unit ctx att step cause act detail).fw = s.fw := rfl
@[simp] theorem State.logRec_recSession (s : State) (kind die ukind unit ctx att step cause act detail : Nat) : (s.logRec kind die ukind unit ctx att step cause act detail).recSession = s.recSession := rfl
@[simp] theorem State.logRec_power (s : State) (kind die ukind unit ctx att step cause act detail : Nat) : (s.logRec kind die ukind unit ctx att step cause act detail).power = s.power := rfl
@[simp] theorem State.logRec_swap (s : State) (kind die ukind unit ctx att step cause act detail : Nat) : (s.logRec kind die ukind unit ctx att step cause act detail).swap = s.swap := rfl
@[simp] theorem State.logRec_out (s : State) (kind die ukind unit ctx att step cause act detail : Nat) : (s.logRec kind die ukind unit ctx att step cause act detail).out = s.out := rfl

@[simp] theorem State.sendSquall_pending (s : State) (q : Squall) : (s.sendSquall q).pending = s.pending := rfl
@[simp] theorem State.sendSquall_order (s : State) (q : Squall) : (s.sendSquall q).order = s.order := rfl
@[simp] theorem State.sendSquall_mem (s : State) (q : Squall) : (s.sendSquall q).mem = s.mem := rfl
@[simp] theorem State.sendSquall_units (s : State) (q : Squall) : (s.sendSquall q).units = s.units := rfl
@[simp] theorem State.sendSquall_ctxs (s : State) (q : Squall) : (s.sendSquall q).ctxs = s.ctxs := rfl
@[simp] theorem State.sendSquall_hosts (s : State) (q : Squall) : (s.sendSquall q).hosts = s.hosts := rfl
@[simp] theorem State.sendSquall_sessions (s : State) (q : Squall) : (s.sendSquall q).sessions = s.sessions := rfl
@[simp] theorem State.sendSquall_ports (s : State) (q : Squall) : (s.sendSquall q).ports = s.ports := rfl
@[simp] theorem State.sendSquall_portModes (s : State) (q : Squall) : (s.sendSquall q).portModes = s.portModes := rfl
@[simp] theorem State.sendSquall_fabric (s : State) (q : Squall) : (s.sendSquall q).fabric = s.fabric := rfl
@[simp] theorem State.sendSquall_squallSeen (s : State) (q : Squall) : (s.sendSquall q).squallSeen = s.squallSeen := rfl
@[simp] theorem State.sendSquall_drr (s : State) (q : Squall) : (s.sendSquall q).drr = s.drr := rfl
@[simp] theorem State.sendSquall_near (s : State) (q : Squall) : (s.sendSquall q).near = s.near := rfl
@[simp] theorem State.sendSquall_far (s : State) (q : Squall) : (s.sendSquall q).far = s.far := rfl
@[simp] theorem State.sendSquall_corrected (s : State) (q : Squall) : (s.sendSquall q).corrected = s.corrected := rfl
@[simp] theorem State.sendSquall_maintRun (s : State) (q : Squall) : (s.sendSquall q).maintRun = s.maintRun := rfl
@[simp] theorem State.sendSquall_maintQueue (s : State) (q : Squall) : (s.sendSquall q).maintQueue = s.maintQueue := rfl
@[simp] theorem State.sendSquall_excluded (s : State) (q : Squall) : (s.sendSquall q).excluded = s.excluded := rfl
@[simp] theorem State.sendSquall_exclDies (s : State) (q : Squall) : (s.sendSquall q).exclDies = s.exclDies := rfl
@[simp] theorem State.sendSquall_exclEdges (s : State) (q : Squall) : (s.sendSquall q).exclEdges = s.exclEdges := rfl
@[simp] theorem State.sendSquall_halfEdges (s : State) (q : Squall) : (s.sendSquall q).halfEdges = s.halfEdges := rfl
@[simp] theorem State.sendSquall_islandsDown (s : State) (q : Squall) : (s.sendSquall q).islandsDown = s.islandsDown := rfl
@[simp] theorem State.sendSquall_exclIslands (s : State) (q : Squall) : (s.sendSquall q).exclIslands = s.exclIslands := rfl
@[simp] theorem State.sendSquall_strikes (s : State) (q : Squall) : (s.sendSquall q).strikes = s.strikes := rfl
@[simp] theorem State.sendSquall_restarts (s : State) (q : Squall) : (s.sendSquall q).restarts = s.restarts := rfl
@[simp] theorem State.sendSquall_resets (s : State) (q : Squall) : (s.sendSquall q).resets = s.resets := rfl
@[simp] theorem State.sendSquall_edgeSeq (s : State) (q : Squall) : (s.sendSquall q).edgeSeq = s.edgeSeq := rfl
@[simp] theorem State.sendSquall_edgeFails (s : State) (q : Squall) : (s.sendSquall q).edgeFails = s.edgeFails := rfl
@[simp] theorem State.sendSquall_fw (s : State) (q : Squall) : (s.sendSquall q).fw = s.fw := rfl
@[simp] theorem State.sendSquall_recSession (s : State) (q : Squall) : (s.sendSquall q).recSession = s.recSession := rfl
@[simp] theorem State.sendSquall_power (s : State) (q : Squall) : (s.sendSquall q).power = s.power := rfl
@[simp] theorem State.sendSquall_swap (s : State) (q : Squall) : (s.sendSquall q).swap = s.swap := rfl
@[simp] theorem State.sendSquall_out (s : State) (q : Squall) : (s.sendSquall q).out = s.out := rfl

/-! ### Finding records after an update -/

theorem UnitId.key_ne {u v : UnitId} (h : u.key ≠ v.key) : u ≠ v := fun e => h (by rw [e])

@[simp] theorem State.run?_setRun (s : State) (u : UnitId) (r : Run) : (s.setRun u r).run? u = some r := NMap.get?_set_same _ _ _
theorem State.run?_setRun_ne (s : State) (u v : UnitId) (r : Run) (h : v.key ≠ u.key) : (s.setRun u r).run? v = s.run? v :=
  NMap.get?_set_ne _ _ _ _ h
@[simp] theorem State.ctx?_setRun (s : State) (u : UnitId) (r : Run) (n : Nat) : (s.setRun u r).ctx? n = s.ctx? n := rfl
@[simp] theorem State.host?_setRun (s : State) (u : UnitId) (r : Run) (n : Nat) : (s.setRun u r).host? n = s.host? n := rfl
@[simp] theorem State.ctx?_setCtx (s : State) (n : Nat) (x : Ctx) : (s.setCtx n x).ctx? n = some x := NMap.get?_set_same _ _ _
theorem State.ctx?_setCtx_ne (s : State) (n k : Nat) (x : Ctx) (h : k ≠ n) : (s.setCtx n x).ctx? k = s.ctx? k := NMap.get?_set_ne _ _ _ _ h
@[simp] theorem State.setCtx_setCtx (s : State) (n : Nat) (x y : Ctx) : (s.setCtx n x).setCtx n y = s.setCtx n y := by
  simp [State.setCtx]
@[simp] theorem State.setRun_setRun (s : State) (u : UnitId) (x y : Run) : (s.setRun u x).setRun u y = s.setRun u y := by
  simp [State.setRun]
@[simp] theorem State.setHost_setHost (s : State) (n : Nat) (x y : HostRec) : (s.setHost n x).setHost n y = s.setHost n y := by
  simp [State.setHost]
theorem State.ctx?_modCtx {s : State} {n : Nat} {f : Ctx → Ctx} {x : Ctx} (h : s.ctx? n = some x) : (s.modCtx n f).ctx? n = some (f x) := by
  unfold State.modCtx State.ctx?
  rw [NMap.get?_modify_same, show NMap.get? s.ctxs n = some x from h]
  rfl
theorem State.ctx?_modCtx_ne (s : State) (n k : Nat) (f : Ctx → Ctx) (h : k ≠ n) : (s.modCtx n f).ctx? k = s.ctx? k :=
  NMap.get?_modify_ne _ _ _ _ h
theorem State.run?_modRun {s : State} {u : UnitId} {f : Run → Run} {r : Run} (h : s.run? u = some r) : (s.modRun u f).run? u = some (f r) := by
  unfold State.modRun State.run?
  rw [NMap.get?_modify_same, show NMap.get? s.units u.key = some r from h]
  rfl
@[simp] theorem State.run?_setCtx (s : State) (n : Nat) (x : Ctx) (u : UnitId) : (s.setCtx n x).run? u = s.run? u := rfl
@[simp] theorem State.host?_setCtx (s : State) (n : Nat) (x : Ctx) (k : Nat) : (s.setCtx n x).host? k = s.host? k := rfl
@[simp] theorem State.host?_setHost (s : State) (n : Nat) (x : HostRec) : (s.setHost n x).host? n = some x := NMap.get?_set_same _ _ _
theorem State.host?_setHost_ne (s : State) (n k : Nat) (x : HostRec) (h : k ≠ n) : (s.setHost n x).host? k = s.host? k :=
  NMap.get?_set_ne _ _ _ _ h
@[simp] theorem State.ctx?_setHost (s : State) (n : Nat) (x : HostRec) (k : Nat) : (s.setHost n x).ctx? k = s.ctx? k := rfl
@[simp] theorem State.ctx?_emit (s : State) (o : Out) (k : Nat) : (s.emit o).ctx? k = s.ctx? k := rfl
@[simp] theorem State.host?_emit (s : State) (o : Out) (k : Nat) : (s.emit o).host? k = s.host? k := rfl
@[simp] theorem State.run?_emit (s : State) (o : Out) (u : UnitId) : (s.emit o).run? u = s.run? u := rfl
@[simp] theorem State.ctx?_tick (s : State) (k : Nat) : s.tick.ctx? k = s.ctx? k := rfl
@[simp] theorem State.run?_tick (s : State) (u : UnitId) : s.tick.run? u = s.run? u := rfl
@[simp] theorem State.ctx?_freeUnit (s : State) (u : UnitId) (k : Nat) : (s.freeUnit u).ctx? k = s.ctx? k := rfl
@[simp] theorem State.ctx?_logRec (s : State) (kind die ukind unit ctx att step cause act detail : Nat) (k : Nat) :
    (s.logRec kind die ukind unit ctx att step cause act detail).ctx? k = s.ctx? k := rfl
@[simp] theorem State.run?_logRec (s : State) (kind die ukind unit ctx att step cause act detail : Nat) (u : UnitId) :
    (s.logRec kind die ukind unit ctx att step cause act detail).run? u = s.run? u := rfl
@[simp] theorem State.ctx?_sendSquall (s : State) (q : Squall) (k : Nat) : (s.sendSquall q).ctx? k = s.ctx? k := rfl
@[simp] theorem State.run?_sendSquall (s : State) (q : Squall) (u : UnitId) : (s.sendSquall q).run? u = s.run? u := rfl
@[simp] theorem State.sendSquall_squalls (s : State) (q : Squall) : (s.sendSquall q).squalls = s.squalls ++ [{ q with seq := nth 0 s.squallSeq q.src }] := rfl

end Sys2Proof.Machine
end

