-- ==== Sys2Proof/Laws/Writes.lean ====
section
/-!
SUPPORT. What a store of a task can do, said once: bytes, strings of bytes, lists of writes, and the shadows they need.
-/

namespace Sys2Proof.Machine

/-- Where one stored byte goes: its place and, while its page moves, the same byte of the page the move fills. -/
theorem putByte_cases {s t : State} {cn va : Nat} {v : Byte} (h : putByte s cn va v = .ok t) :
    ∃ c p, s.ctx? cn = some c ∧ translate cn c va true = .ok p ∧
      (t = { s with mem := Memory.set s.mem p (storedByte va (Memory.get s.mem p) v) } ∨
       ∃ q, (NMap.get? c.pages (vpageOf (va % 2 ^ 48))).bind (fun e => e.moveTo) = some q ∧
         t = { s with mem := Memory.set (Memory.set s.mem p (storedByte va (Memory.get s.mem p) v)) (q + va % pageSize)
                               (storedByte va (Memory.get s.mem p) v) }) := by
  unfold putByte at h
  split at h
  · cases h
  · rename_i c hc
    split at h
    · cases h
    · rename_i p hp
      refine ⟨c, p, hc, hp, ?_⟩
      split at h
      · rename_i e q he
        split at h
        · cases h; exact .inl rfl
        · cases h; exact .inr ⟨_, by rw [he]; rfl, rfl⟩
      · cases h; exact .inl rfl

/-- A stored byte changes memory alone, at its places alone. -/
theorem putByte_frame {s t : State} {cn va : Nat} {v : Byte} {c : Ctx} (h : putByte s cn va v = .ok t) (hc : s.ctx? cn = some c) :
    t = { s with mem := t.mem } ∧ (MemInv s → MemInv t) ∧
      ∀ a, MemInv s → a ∉ storedAt cn c va 1 → Memory.get t.mem a = Memory.get s.mem a := by
  obtain ⟨c', p, hc', hp, ht⟩ := putByte_cases h
  rw [hc] at hc'
  cases hc'
  have hmod : va % 2 ^ 48 % pageSize = va % pageSize := Nat.mod_mod_of_dvd va (by decide)
  rcases ht with rfl | ⟨q, hq, rfl⟩
  · refine ⟨rfl, fun hm => Memory.wf_set hm _ _, fun a hm ha => ?_⟩
    refine Memory.get_set_ne hm (fun e => ha ?_)
    simp [storedAt, rangeFrom, hp, e]
  · refine ⟨rfl, fun hm => Memory.wf_set (Memory.wf_set hm _ _) _ _, fun a hm ha => ?_⟩
    have h1 : a ≠ p := fun e => ha (by simp [storedAt, rangeFrom, hp, e])
    have h2 : a ≠ q + va % pageSize := fun e => ha (by
      simp only [storedAt, rangeFrom, List.flatMap_cons, List.flatMap_nil, hp, hq, e]
      simp)
    rw [Memory.get_set_ne (Memory.wf_set hm _ _) h2, Memory.get_set_ne hm h1]

theorem storedAt_succ (cn : Nat) (c : Ctx) (va n : Nat) : storedAt cn c va (n + 1) = storedAt cn c va 1 ++ storedAt cn c (va + 1) n := by
  simp [storedAt, rangeFrom]

/-- Stored bytes change memory alone, at their places alone. -/
theorem putBytes_frame : ∀ {bs : Bytes} {s t : State} {cn va : Nat} {c : Ctx}, putBytes s cn va bs = .ok t → s.ctx? cn = some c →
    t = { s with mem := t.mem } ∧ (MemInv s → MemInv t) ∧
      ∀ a, MemInv s → a ∉ storedAt cn c va bs.length → Memory.get t.mem a = Memory.get s.mem a
  | [], s, t, _, _, _, h, _ => by
    cases h
    exact ⟨rfl, id, fun _ _ _ => rfl⟩
  | v :: r, s, t, cn, va, c, h, hc => by
    unfold putBytes at h
    split at h
    · rename_i s1 h1
      obtain ⟨e1, w1, f1⟩ := putByte_frame h1 hc
      have hc1 : s1.ctx? cn = some c := by rw [e1]; exact hc
      obtain ⟨e2, w2, f2⟩ := putBytes_frame h hc1
      refine ⟨?_, fun hm => w2 (w1 hm), fun a hm ha => ?_⟩
      · rw [e2, e1]
      · rw [List.length_cons, storedAt_succ, List.mem_append, not_or] at ha
        rw [f2 a (w1 hm) ha.2, f1 a hm ha.1]
    · cases h

/-- A page that no write makes a shadow of: outside the pages, no step state, or shadowed already and writable. -/
def NeedsNoShadow (c : Ctx) (vp : Nat) : Prop :=
  winLo ≤ vp * pageSize ∨ stepState c vp = false ∨ (NMap.has c.shadows vp = true ∧ ∃ e, NMap.get? c.pages vp = some e ∧ e.ro = false)

/-- A write to such pages prepares nothing. -/
theorem prepareWrite_none {s : State} {cn va n : Nat} {c : Ctx} (hc : s.ctx? cn = some c)
    (h : ∀ vp ∈ pagesTouched va n, NeedsNoShadow c vp) : prepareWrite s cn va n false = .ok s := by
  unfold prepareWrite
  generalize pagesTouched va n = l at h
  induction l with
  | nil => rfl
  | cons vp r ih =>
    have hv := h vp List.mem_cons_self
    have ih := ih (fun x hx => h x (List.mem_cons_of_mem _ hx))
    unfold foldE
    simp only [hc, Bool.false_or]
    by_cases hs : (decide (vp * pageSize < winLo) && stepState c vp) = true
    · rw [if_pos hs]
      rw [Bool.and_eq_true, decide_eq_true_eq] at hs
      rcases hv with hv | hv | ⟨hv, e, he, hro⟩
      · exact absurd hs.1 (Nat.not_lt.mpr hv)
      · rw [hs.2] at hv
        cases hv
      · simp only [he, hro, makeShadow, hc, hv, Bool.false_eq_true, if_false, if_true]
        exact ih
    · rw [if_neg hs]
      exact ih

/-- What a store leaves of a state: memory, and in the writing context only the epoch's lines that it makes good and what is no longer as
the instructions that own it left it: table images, sequences, compressed tensors. -/
structure OnlyStored (cn : Nat) (c : Ctx) (s t : State) : Prop where
  rest : { t with mem := s.mem, ctxs := s.ctxs } = s
  other : ∀ k, k ≠ cn → t.ctx? k = s.ctx? k
  own : ∃ c', t.ctx? cn = some c' ∧ { c' with epoch := c.epoch, comp := c.comp, tabs := c.tabs, seqs := c.seqs } = c
  inv : MemInv s → MemInv t

theorem OnlyStored.refl {cn : Nat} {c : Ctx} {s : State} (h : s.ctx? cn = some c) : OnlyStored cn c s s :=
  ⟨rfl, fun _ _ => rfl, ⟨c, h, rfl⟩, id⟩

/-- Contexts that differ in no more than that store to the same places and need the same shadows. -/
theorem sameWhereStores {c c' : Ctx} (h : { c' with epoch := c.epoch, comp := c.comp, tabs := c.tabs, seqs := c.seqs } = c) :
    c'.pages = c.pages ∧ c'.shadows = c.shadows ∧ c'.regions = c.regions ∧ c'.streams = c.streams ∧ c'.spshare = c.spshare := by
  rw [← h]
  exact ⟨rfl, rfl, rfl, rfl, rfl⟩

theorem translate_congr {cn : Nat} {c c' : Ctx} (h : { c' with epoch := c.epoch, comp := c.comp, tabs := c.tabs, seqs := c.seqs } = c) (va : Nat) (w : Bool) :
    translate cn c' va w = translate cn c va w := by
  obtain ⟨h1, h2, _, _, h5⟩ := sameWhereStores h
  have hw : ∀ o, winOk c' o = winOk c o := fun o => by unfold winOk shareCluster sharePipe; rw [h5]
  unfold translate
  rw [h1, h2]
  simp only [hw]

theorem storedAt_congr {cn : Nat} {c c' : Ctx} (h : { c' with epoch := c.epoch, comp := c.comp, tabs := c.tabs, seqs := c.seqs } = c) (va n : Nat) :
    storedAt cn c' va n = storedAt cn c va n := by
  obtain ⟨h1, _⟩ := sameWhereStores h
  simp only [storedAt, translate_congr h, h1]

theorem needsNoShadow_congr {c c' : Ctx} (h : { c' with epoch := c.epoch, comp := c.comp, tabs := c.tabs, seqs := c.seqs } = c) (vp : Nat) : NeedsNoShadow c vp → NeedsNoShadow c' vp := by
  obtain ⟨h1, h2, h3, h4, _⟩ := sameWhereStores h
  simp only [NeedsNoShadow, stepState, h1, h2, h3, h4]
  exact id

/-- One write of a task to pages that need no shadow. -/
theorem taskWrite_frame {s t : State} {cn va : Nat} {bs : Bytes} {c : Ctx} (h : taskWrite s cn va bs = .ok t) (hc : s.ctx? cn = some c)
    (hn : ∀ vp ∈ pagesTouched va bs.length, NeedsNoShadow c vp) :
    OnlyStored cn c s t ∧ ∀ a, MemInv s → a ∉ storedAt cn c va bs.length → Memory.get t.mem a = Memory.get s.mem a := by
  unfold taskWrite at h
  rw [prepareWrite_none hc hn] at h
  dsimp only at h
  split at h
  · cases h
  · rename_i s1 h1
    obtain ⟨e, w, f⟩ := putBytes_frame h1 hc
    have hc1 : s1.ctx? cn = some c := by rw [e]; exact hc
    cases h
    refine ⟨⟨?_, ?_, ?_, fun hm => w hm⟩, fun a hm ha => f a hm ha⟩
    · rw [e]; rfl
    · intro k hk
      refine (NMap.get?_modify_ne s1.ctxs cn k _ hk).trans ?_
      rw [e]
      rfl
    · exact ⟨_, State.ctx?_modCtx hc1, rfl⟩

/-- A list of writes to pages that need no shadow. -/
theorem plainWrites_frame : ∀ {ws : List WItem} {s t : State} {cn : Nat} {c : Ctx}, plainWrites s cn ws = .ok t → s.ctx? cn = some c →
    (∀ va b, (.ok (va, b) : WItem) ∈ ws → ∀ vp ∈ pagesTouched va b.length, NeedsNoShadow c vp) →
    OnlyStored cn c s t ∧
      ∀ a, MemInv s → (∀ va b, (.ok (va, b) : WItem) ∈ ws → a ∉ storedAt cn c va b.length) → Memory.get t.mem a = Memory.get s.mem a
  | [], s, t, _, _, h, hc, _ => by
    cases h
    exact ⟨OnlyStored.refl hc, fun _ _ _ => rfl⟩
  | .error e :: r, s, t, cn, c, h, _, _ => by
    unfold plainWrites foldE at h
    cases h
  | .ok (va, b) :: r, s, t, cn, c, h, hc, hn => by
    unfold plainWrites foldE at h
    dsimp only at h
    split at h
    · rename_i s1 h1
      obtain ⟨o1, f1⟩ := taskWrite_frame h1 hc (hn va b List.mem_cons_self)
      obtain ⟨c1, hc1, hd⟩ := o1.own
      have hn1 : ∀ va b, (.ok (va, b) : WItem) ∈ r → ∀ vp ∈ pagesTouched va b.length, NeedsNoShadow c1 vp :=
        fun va b hm vp hv => needsNoShadow_congr hd vp (hn va b (List.mem_cons_of_mem _ hm) vp hv)
      obtain ⟨o2, f2⟩ := plainWrites_frame (ws := r) h hc1 hn1
      refine ⟨⟨?_, ?_, ?_, fun hm => o2.inv (o1.inv hm)⟩, fun a hm ha => ?_⟩
      · have e1 := o1.rest
        have e2 := o2.rest
        rw [← e1, ← e2]
      · intro k hk
        rw [o2.other k hk, o1.other k hk]
      · obtain ⟨c2, hc2, hd2⟩ := o2.own
        refine ⟨c2, hc2, ?_⟩
        rw [← hd, ← hd2]
      · rw [f2 a (o1.inv hm) (fun va b hb => by
          rw [storedAt_congr hd]
          exact ha va b (List.mem_cons_of_mem _ hb)), f1 a hm (ha va b List.mem_cons_self)]
    · cases h

theorem foulBytes_only {s : State} {cn va n : Nat} {c : Ctx} (hc : s.ctx? cn = some c) :
    OnlyStored cn c s (foulBytes s cn va n) ∧ (foulBytes s cn va n).mem = s.mem :=
  ⟨⟨rfl, fun k hk => NMap.get?_modify_ne s.ctxs cn k _ hk, ⟨_, State.ctx?_modCtx hc, rfl⟩, id⟩, rfl⟩

theorem OnlyStored.trans {cn : Nat} {c d : Ctx} {s t v : State} (h : OnlyStored cn c s t) (hd : t.ctx? cn = some d) (h' : OnlyStored cn d t v) :
    OnlyStored cn c s v := by
  obtain ⟨d', hd', e⟩ := h.own
  rw [hd] at hd'
  cases hd'
  refine ⟨?_, fun k hk => (h'.other k hk).trans (h.other k hk), ?_, h'.inv ∘ h.inv⟩
  · have e1 := h.rest
    have e2 := h'.rest
    rw [← e1, ← e2]
  · obtain ⟨x, hx, ex⟩ := h'.own
    refine ⟨x, hx, ?_⟩
    rw [← e, ← ex]

theorem foulWrites_only : ∀ {ws : List WItem} {s : State} {cn : Nat} {c : Ctx}, s.ctx? cn = some c →
    OnlyStored cn c s (foulWrites s cn ws) ∧ (foulWrites s cn ws).mem = s.mem
  | [], _, _, _, hc => ⟨OnlyStored.refl hc, rfl⟩
  | .error _ :: r, _, _, _, hc => foulWrites_only (ws := r) hc
  | .ok (va, b) :: r, s, cn, c, hc => by
    obtain ⟨o, m⟩ := foulBytes_only (va := va) (n := b.length) hc
    obtain ⟨d, hd, _⟩ := o.own
    obtain ⟨o2, m2⟩ := foulWrites_only (ws := r) hd
    exact ⟨o.trans hd o2, m2.trans m⟩

/-- The writes of an instruction to pages that need no shadow. -/
theorem doWrites_frame {ws : List WItem} {s t : State} {cn : Nat} {c : Ctx} (h : doWrites s cn ws = .ok t) (hc : s.ctx? cn = some c)
    (hn : ∀ va b, (.ok (va, b) : WItem) ∈ ws → ∀ vp ∈ pagesTouched va b.length, NeedsNoShadow c vp) :
    OnlyStored cn c s t ∧
      ∀ a, MemInv s → (∀ va b, (.ok (va, b) : WItem) ∈ ws → a ∉ storedAt cn c va b.length) → Memory.get t.mem a = Memory.get s.mem a := by
  unfold doWrites at h
  split at h
  · rename_i s1 h1
    cases h
    obtain ⟨o, f⟩ := plainWrites_frame h1 hc hn
    obtain ⟨d, hd, _⟩ := o.own
    obtain ⟨o2, m2⟩ := foulWrites_only (ws := ws) hd
    exact ⟨o.trans hd o2, fun a hm ha => by rw [m2]; exact f a hm ha⟩
  · cases h

end Sys2Proof.Machine
end

