-- ==== Sys2Proof/Tests/World.lean ====
section
/-!
SUPPORT. A small world for the tests: one host, one context with a program page and a data page, one task on one unit; and a Bool form of "this word issues here".
-/

namespace Sys2Proof.Tests

open Sys2Proof.Machine

/-- A number from its fields, each with the position of its lowest bit. -/
def bits : List (Nat × Nat) → Nat
  | [] => 0
  | (v, lo) :: r => v * 2 ^ lo + bits r

/-- An instruction word of a class and operation with operand fields (R65). -/
def word (cl op : Nat) (fs : List (Nat × Nat)) : InstrWord := BitVec.ofNat 128 (cl + op * 2 ^ 4 + bits fs)

/-- A plain tensor descriptor (R88): base, format code, extents and strides. -/
def tdOf (base fmt : Nat) (ext str : List Nat) : BitVec 512 :=
  BitVec.ofNat 512 (base + fmt * 2 ^ 48 + ext.length * 2 ^ 56 + bits ((rangeFrom 0 ext.length).map (fun d => (nth 0 ext d, 64 + 24 * d))) +
    bits ((rangeFrom 0 str.length).map (fun d => (nth 0 str d, 208 + 32 * d))))

/-- The test unit of a kind: the first on its die. -/
def unitA (k : UnitKind) : UnitId := { die := if k = .video then 24 else 0, kind := k, idx := 0 }

/-- The program stands at virtual page 1, data at page 2; physical pages 9 and 10 of die 0. -/
def progVa : Nat := 0x200000
def dataVa : Nat := 0x400000
def progPhys : Nat := 9 * 0x200000
def dataPhys : Nat := 10 * 0x200000

/-- A task descriptor (R91) of a kind with a program of n words. -/
def descA (k : UnitKind) (n : Nat) : BitVec 1024 :=
  BitVec.ofNat 1024 (bits [(progVa / 16, 4), (n, 48), (k.ix, 120), (1, 128), (0x10, 136), (7, 144), (31, 256)])

def regA : HostReg :=
  { evt := false, hqpn := 7, hpsn := 3, swapVa := 0, swapLen := 0, swapKey := 0, wins := [{ index := 0, va := 0x10000, len := 0x100000, rkey := 77 }] }

/-- Keys with every bit zero: no frame is formed from them here. -/
def keysA : KeySet := { hostSak := 0, moduleSak := 0, kconf := 0, hostSalt := 0, moduleSalt := 0 }

def hostA : HostRec :=
  { hkdig := 5, tenant := 0, port := 0, mac := 0xA, sid := 4, umax := 0x10, enc := false, phase := .registered, resumed := false, hold := 30,
    kaint := 2, reg := some regA, keySet := 1, keys := keysA, oldKeys := none, rekey := none, rxNext := 1, rxOldNext := 1, outSeq := 5, replies := [],
    detachSeq := none, plainOk := true, qps := [QPair.fresh 5 9 7 3] }

/-- A frame of that host, unprotected, and one under its keys. -/
def frameA : FrameInfo :=
  { mac := 0xA, crcOk := true, sec := none, pcp := none, dscp := 0, ce := false, cnpDue := false, occupancy := 100 }

def frameS : FrameInfo := { frameA with sec := some { sci := 0xA0000, an := 1, pn := 1, icvOk := true } }

/-- The header of a message of its session, whole. -/
def headA (len : Nat) : MsgHead := { aver := 1, rsv := 0, sid := 4, mseq := 3, mlen := len, segs := if len = 0 then [(0, 0)] else segmentsOf len }

def taskA (k : UnitKind) (n : Nat) : TaskRec :=
  { desc := descA k n, die := 0, deps := 0, status := .running, cls := 1, demoted := false, readySeq := 0, unit := some (unitA k), banks := List.replicate 8 0,
    astat := 0, user := 0, tbw := false }

def epochA (k : UnitKind) (n : Nat) : Epoch :=
  { tag := 0x51, cqe := true, q := 0, step := 7, bind := List.replicate 16 0, arr := dataVa + 0x1000, count := 1, carr := dataVa + 0x800, tid := none,
    lastIter := true, tasks := [(0, taskA k n)], next := 1, attempt := 0, failed := 0, phase := .open, readyCount := 1, expired := [],
    ctxExpired := false, badLines := [], kvAlloc := [], openUnits := [] }

/-- The context: its program and data pages mapped, no step state, one task of the open epoch on the unit. -/
def ctxA (k : UnitKind) (n : Nat) : Ctx :=
  { newCtx 0 hostA tenantReset { stat := 1, rsv := 0, hqpn := 7, hpsn := 3 } (8 * 0x200000) 5 9 11 12 1 2 with
    pages := [(0, { phys := 8 * 0x200000, ro := false, moveTo := none }), (1, { phys := progPhys, ro := false, moveTo := none }),
              (2, { phys := dataPhys, ro := false, moveTo := none })]
    shadowNear := 4, epoch := some (epochA k n) }

/-- The task as its dispatch leaves it. -/
def runA (k : UnitKind) (n : Nat) : Run := startRun 1 0 0 (List.replicate 16 0) (taskA k n) (List.replicate 8 none)

/-- A stream of pictures of 2 by 2 in one direction whose state region has no page. -/
def streamA (dir : Nat) : Stream :=
  { engine := 0, codec := 0, dir := dir, depth := 0, mtx := 0, range := 0, trc := 0, width := 2, height := 2, fpsn := 1, fpsd := 1, sbase := 0x600000,
    spages := 0, rc := 0, frameNo := 0, sinceKey := 0, hist := 0, lost := false, keyDue := false, bound := [] }

/-- Memory with 16-byte words of a program, and the given bytes of the data page. -/
def memA (ws : List InstrWord) (data : List (Nat × Bytes)) : Memory :=
  data.foldl (fun m p => Memory.setBytes m (dataPhys + p.1) p.2)
    (Memory.setBytes [] progPhys (ws.flatMap (fun w => toBytes 16 w.toNat)))

/-- The world with a task of a kind in a given state of its sequencer. -/
def worldOf (k : UnitKind) (r : Run) (c : Ctx) (ws : List InstrWord) (data : List (Nat × Bytes)) : State :=
  { State.reset with
    mem := memA ws data, ctxs := [(1, c)], hosts := [(0, hostA)], units := [((unitA k).key, r)],
    near := setNth State.reset.near 0 { Tier.fresh with used := [8, 9, 10] }
    ports := setNth State.reset.ports 0 { PortRec.fresh with up := true } }

/-- The test host's frames are taken on its port, by a port and by the host. -/
theorem hostA_by_mac (k : UnitKind) (r : Run) (c : Ctx) (ws : List InstrWord) (data : List (Nat × Bytes)) :
    hostByMac (worldOf k r c ws data) 0 0xA = some (0, hostA) := by
  have : [(0, hostA)].find? (fun p => p.2.port == 0 && p.2.mac == 0xA && p.2.linked) = some (0, hostA) := by decide +kernel
  exact this

/-- A program of one word on a fresh task. -/
def world (k : UnitKind) (w : InstrWord) (data : List (Nat × Bytes)) : State := worldOf k (runA k 1) (ctxA k 1) [w] data

/-- The world with the descriptor slots of the task filled. -/
def runT (k : UnitKind) (T : List (BitVec 512)) (S : List Nat) : Run :=
  { runA k 1 with T := T.map some, S := S.map (BitVec.ofNat 64) }

def worldT (k : UnitKind) (w : InstrWord) (T : List (BitVec 512)) (S : List Nat) (data : List (Nat × Bytes) := []) : State :=
  worldOf k (runT k T S) (ctxA k 1) [w] data

/-- Bool form of `AtPc`. -/
def atPcB (s : State) (u : UnitId) (r : Run) (c : Ctx) (w : InstrWord) (cl op : Nat) : Bool :=
  decide (s.run? u = some r) && decide (r.phase = .running) && decide (s.ctx? r.ctx = some c) && pcInside r &&
    (match fetchWord s r c with
     | .ok x => decide (x = w)
     | .error _ => false) &&
    !(reservedWord u.kind w) && decide (wClass w = cl) && decide (wOp w = op)

/-- Bool form of `Issues`. -/
def issuesB (s : State) (u : UnitId) (r : Run) (c : Ctx) (w : InstrWord) (cl op : Nat) : Bool := atPcB s u r c w cl op && predicate r w

theorem atPc_iff {s : State} {u : UnitId} {r : Run} {c : Ctx} {w : InstrWord} {cl op : Nat} :
    AtPc s u r c w cl op ↔ atPcB s u r c w cl op = true := by
  constructor
  · intro h
    simp [atPcB, h.run, h.running, h.ctx, h.inside, h.fetched, h.defined, h.cls, h.opc]
  · intro h
    simp only [atPcB, Bool.and_eq_true, decide_eq_true_eq, Bool.not_eq_true'] at h
    obtain ⟨⟨⟨⟨⟨⟨⟨h1, h2⟩, h3⟩, h4⟩, h5⟩, h6⟩, h7⟩, h8⟩ := h
    have hf : fetchWord s r c = .ok w := by
      cases hx : fetchWord s r c with
      | error e => simp [hx] at h5
      | ok x => simp [hx] at h5; rw [h5]
    exact ⟨h1, h2, h3, h4, hf, h6, h7, h8⟩

theorem issues_iff {s : State} {u : UnitId} {r : Run} {c : Ctx} {w : InstrWord} {cl op : Nat} :
    Issues s u r c w cl op ↔ issuesB s u r c w cl op = true := by
  constructor
  · intro h
    simp [issuesB, atPc_iff.1 h.toAtPc, h.pred]
  · intro h
    simp only [issuesB, Bool.and_eq_true] at h
    exact ⟨atPc_iff.2 h.1, h.2⟩

/-- The word issues on the test task of a kind. -/
def fresh (k : UnitKind) (w : InstrWord) (op : Nat) : Bool :=
  issuesB (world k w []) (unitA k) (runA k 1) (ctxA k 1) w (wClass w) op

/-- The word issues on the test task with slots and registers filled. -/
def issT (k : UnitKind) (w : InstrWord) (T : List (BitVec 512)) (S : List Nat) (data : List (Nat × Bytes)) : Bool :=
  issuesB (worldT k w T S data) (unitA k) (runT k T S) (ctxA k 1) w (wClass w) (wOp w)

/-- A next state of which a Bool test holds. -/
def nextHas (o : Res) (p : State → Bool) : Bool :=
  match o with
  | .next t => p t
  | _ => false

/-- A computation that succeeds. -/
def isOk {α : Type} : X α → Bool
  | .ok _ => true
  | .error _ => false

/-- The run of a unit after a command has a property. -/
def runHas (o : Res) (u : UnitId) (p : Run → Bool) : Bool :=
  nextHas o (fun t => match t.run? u with
    | some r => p r
    | none => false)

end Sys2Proof.Tests
end

