-- ==== Sys2Proof/Tests/Slice0.lean ====
section
/-!
SUPPORT. Small tests: ill-formed commands are refused, and single commands do what the manual says on a small state. Expected values come from the rules named.
-/

namespace Sys2Proof.Tests

set_option Elab.async false

open Sys2Proof.Machine

/-! ### WellFormed: one ill-formed command for each check, beside the last well-formed one -/

theorem test_wf_unit : Instr.wf (.nop ⟨0, .cluster, 15⟩) = true ∧ Instr.wf (.nop ⟨0, .cluster, 16⟩) = false ∧ Instr.wf (.nop ⟨24, .cluster, 0⟩) = false ∧
    Instr.wf (.encode ⟨23, .video, 0⟩) = false ∧ Instr.wf (.encode ⟨27, .video, 1⟩) = true := by decide
theorem test_wf_ctx : Instr.wf (.boundaryCommit 255) = true ∧ Instr.wf (.boundaryCommit 256) = false := by decide
theorem test_wf_queue : Instr.wf (.submit 0 3) = true ∧ Instr.wf (.submit 0 4) = false := by decide
theorem test_wf_die : Instr.wf (.thermalTrip 23) = true ∧ Instr.wf (.thermalTrip 24) = false := by decide
theorem test_wf_any_die : Instr.wf (.squallAbortDie 27 1) = true ∧ Instr.wf (.squallAbortDie 28 1) = false := by decide
theorem test_wf_port : Instr.wf (.beacon 31) = true ∧ Instr.wf (.beacon 32) = false := by decide
theorem test_wf_slot : Instr.wf (.keepalive 15 (headA 0) frameA) = true ∧ Instr.wf (.keepalive 16 (headA 0) frameA) = false := by decide
theorem test_wf_byte : Instr.wf (.getInventory 255) = true ∧ Instr.wf (.getInventory 256) = false := by decide
theorem test_wf_prio : Instr.wf (.pfcPauseExpiry 0 7) = true ∧ Instr.wf (.pfcPauseExpiry 0 8) = false := by decide
theorem test_wf_edge : Instr.wf (.flitReplay 45 true 0 true) = true ∧ Instr.wf (.flitReplay 46 true 0 true) = false := by decide

/-! ### Issue: CTRL and SYNC -/

/-- R80's worked example of an MM word, bit for bit. -/
theorem test_word_of_the_manual :
    word clMMA 0 [(3, 16), (4, 22), (5, 28), (1, 41), (2, 42), (1, 45), (1, 46), (1, 48)] = 0x00016A0051030002#128 := by decide +kernel

/-- R66: predicate P1 is false at the start of a task; bit 3 of PSEL negates. -/
theorem test_predicate_skips :
    runHas (exec (.sli (unitA .cluster)) (world .cluster (word 0 7 [(1, 12), (3, 16), (5, 60)]) [])) (unitA .cluster)
      (fun r => nth 0 r.S 3 == 0 && r.pc == progVa + 16) = true ∧
    runHas (exec (.sli (unitA .cluster)) (world .cluster (word 0 7 [(9, 12), (3, 16), (5, 60)]) [])) (unitA .cluster)
      (fun r => nth 0 r.S 3 == 5 && r.pc == progVa + 16) = true := by decide +kernel

/-- R68: a write to S0 is discarded. -/
theorem test_s0_reads_zero :
    runHas (exec (.sli (unitA .cluster)) (world .cluster (word 0 7 [(5, 60)]) [])) (unitA .cluster) (fun r => sreg r.S 0 == 0) = true := by
  decide +kernel

def salu (sub a b : Nat) : State :=
  worldT .cluster (word 0 6 [(3, 16), (1, 21), (2, 26), (sub, 41)]) [] [0, a, b, 0]

def saluGives (sub a b v : Nat) : Bool :=
  runHas (exec (.salu (unitA .cluster)) (salu sub a b)) (unitA .cluster) (fun r => nth 0 r.S 3 == BitVec.ofNat 64 v)

/-- R74: subtraction wraps; the arithmetic shift keeps the sign and takes the count modulo 64; signed and unsigned minimum differ. -/
theorem test_salu :
    [saluGives 1 0 1 (2 ^ 64 - 1), saluGives 8 (2 ^ 64 - 8) 65 (2 ^ 64 - 4), saluGives 6 1 64 1, saluGives 9 (2 ^ 64 - 1) 1 (2 ^ 64 - 1),
      saluGives 0xB (2 ^ 64 - 1) 1 1, saluGives 2 (2 ^ 63) 2 0].all id = true := by decide +kernel

/-- R95, R368: a reserved SUB is an illegal instruction: one record of KIND 0x10, REASON 0x01 goes to the ring, and the unit is free. -/
theorem test_reserved_sub_faults :
    nextHas (exec (.salu (unitA .cluster)) (salu 0xD 0 0)) (fun t =>
      (t.run? (unitA .cluster)).isNone && (match t.out with
        | [.hostWrite 0 77 0x10000 (0x10 :: 0x01 :: _)] => true
        | _ => false)) = true := by decide +kernel

/-- R74: -1 is below 1 signed and above it unsigned. -/
theorem test_scmp :
    (runHas (exec (.scmp (unitA .cluster)) (worldT .cluster (word 0 8 [(2, 16), (1, 21), (2, 26), (2, 41)]) [] [0, 2 ^ 64 - 1, 1]))
      (unitA .cluster) (fun r => nth false r.P 2) &&
    runHas (exec (.scmp (unitA .cluster)) (worldT .cluster (word 0 8 [(2, 16), (1, 21), (2, 26), (4, 41)]) [] [0, 2 ^ 64 - 1, 1]))
      (unitA .cluster) (fun r => !(nth false r.P 2))) = true := by decide +kernel

/-- R76: special register 1 is STEP, 2 the context. -/
theorem test_rdsr :
    (runHas (exec (.rdsr (unitA .cluster)) (world .cluster (word 0 9 [(3, 16), (1, 60)]) [])) (unitA .cluster) (fun r => nth 0 r.S 3 == 7) &&
    runHas (exec (.rdsr (unitA .cluster)) (world .cluster (word 0 9 [(3, 16), (2, 60)]) [])) (unitA .cluster) (fun r => nth 0 r.S 3 == 1)) = true := by
  decide +kernel

/-- R75: a one-word body that runs twice: the LOOP pushes one further iteration, and a zero count skips the body. -/
theorem test_loop :
    (runHas (exec (.loop (unitA .cluster)) (worldOf .cluster (runA .cluster 3) (ctxA .cluster 3) [word 0 3 [(1, 45), (1, 46), (2, 60)]] []))
      (unitA .cluster) (fun r => r.pc == progVa + 16 && r.loops == [{ start := progVa + 16, len := 1, remaining := 1, iter := 0 }]) &&
    runHas (exec (.loop (unitA .cluster)) (worldOf .cluster (runA .cluster 3) (ctxA .cluster 3) [word 0 3 [(1, 45), (1, 46)]] []))
      (unitA .cluster) (fun r => r.pc == progVa + 32 && r.loops == [])) = true := by decide +kernel

/-- R75: at the end of the body the second iteration begins, numbered 1. -/
theorem test_loop_goes_round :
    (let r := { runA .cluster 3 with pc := progVa + 16, loops := [{ start := progVa + 16, len := 1, remaining := 1, iter := 0 }] }
     runHas (exec (.nop (unitA .cluster)) (worldOf .cluster r (ctxA .cluster 3) [0, 0] [])) (unitA .cluster)
      (fun r => r.pc == progVa + 16 && r.loops == [{ start := progVa + 16, len := 1, remaining := 0, iter := 1 }])) = true := by decide +kernel

/-- R73: LDS takes eight bytes, least significant first, with the low three address bits ignored. -/
theorem test_lds :
    runHas (exec (.lds (unitA .cluster)) (world .cluster (word 0 0xB [(3, 16), (dataVa + 13, 60)]) [(8, [1, 2, 0, 0, 0, 0, 0, 0x80])])) (unitA .cluster)
      (fun r => nth 0 r.S 3 == 0x8000000000000201) = true := by decide +kernel

/-- R73: STS stores S[SD], least significant byte first, and nothing beside. -/
theorem test_sts :
    nextHas (exec (.sts (unitA .cluster)) (worldT .cluster (word 0 0xC [(1, 16), (dataVa + 8, 60)]) [] [0, 0x0102])) (fun t =>
      Memory.getBytes t.mem (dataPhys + 7) 10 == [0, 2, 1, 0, 0, 0, 0, 0, 0, 0]) = true := by decide +kernel

/-- R73: A registers wrap at 48 bits. -/
theorem test_aset_wraps :
    runHas (exec (.aset (unitA .cluster)) (worldT .cluster (word 0 0xD [(1, 21), (2, 31), (1, 41), (1, 60)]) [] [0, 2 ^ 48 - 1])) (unitA .cluster)
      (fun r => nth 9 r.A 2 == 0) = true := by decide +kernel

/-- R77, R121: WCFA stores the sum, in a shadow of the page it writes. -/
theorem test_wcfa :
    nextHas (exec (.wcfa (unitA .cluster)) (worldT .cluster (word 8 0 [(3, 16), (1, 21), (dataVa, 60)]) [] [0, 2 ^ 64 - 1, 0, 0])) (fun t =>
      (match t.ctx? 1 with
       | some c => (match readNat t 1 c dataVa 8 with
         | .ok v => v == 2 ^ 64 - 1
         | .error _ => false) && NMap.has c.shadows 2
       | none => false)) = true := by decide +kernel

/-- R67, R95: MMA class on a transfer unit is a reserved instruction; R75: one word past the program is a bounds fault (reason 0x03). -/
theorem test_reserved_and_bounds :
    (nextHas (exec (.reservedInstruction (unitA .move)) (world .move (word 2 0 []) [])) (fun t => (t.run? (unitA .move)).isNone) &&
    nextHas (exec (.programBoundsFetch (unitA .cluster)) (worldOf .cluster { runA .cluster 1 with pc := progVa + 16 } (ctxA .cluster 1) [0] []))
      (fun t => match t.out with
        | [.hostWrite 0 77 0x10000 (0x10 :: 0x03 :: _)] => true
        | _ => false)) = true := by decide +kernel

/-! ### Arithmetic -/

def fp32At (off : Nat) : BitVec 512 := tdOf (dataVa + off) 0x40 [1] [1]

/-- 1.0 + 2.0 = 3.0 in FP32 (R38): bits 0x40400000. -/
theorem test_vec_add :
    nextHas (exec (.vecAdd (unitA .cluster)) (worldT .cluster (word 4 0 [(0, 16), (1, 22), (2, 28)]) [fp32At 0, fp32At 64, fp32At 128] []
      [(64, toBytes 4 0x3F800000), (128, toBytes 4 0x40000000)])) (fun t => Memory.getBytes t.mem dataPhys 4 == toBytes 4 0x40400000) = true := by
  decide +kernel

/-- Minimum takes −0 below +0 (R38). -/
theorem test_vec_min_zero :
    nextHas (exec (.vecMin (unitA .cluster)) (worldT .cluster (word 4 4 [(0, 16), (1, 22), (2, 28)]) [fp32At 0, fp32At 64, fp32At 128] []
      [(128, toBytes 4 0x80000000)])) (fun t => Memory.getBytes t.mem dataPhys 4 == toBytes 4 0x80000000) = true := by
  decide +kernel

/-- The worked example of R54: 0x3F880800 converts to E4M3 0x39 with RNE, and to BF16 0x3F89 with RTO. -/
theorem test_cvt_of_the_manual :
    (nextHas (exec (.cvt (unitA .cluster)) (worldT .cluster (word 7 0 [(0, 16), (1, 22)]) [tdOf dataVa 0x22 [1] [1], fp32At 64] []
      [(64, toBytes 4 0x3F880800)])) (fun t => Memory.getBytes t.mem dataPhys 1 == [0x39]) &&
    nextHas (exec (.cvt (unitA .cluster)) (worldT .cluster (word 7 0 [(0, 16), (1, 22), (1, 28)]) [tdOf dataVa 0x30 [1] [1], fp32At 64] []
      [(64, toBytes 4 0x3F880800)])) (fun t => Memory.getBytes t.mem dataPhys 2 == [0x89, 0x3F])) = true := by decide +kernel

/-- A 1 × 1 × 2 product in BF16: 2·3 + 1·1 = 7, kept on the drain list (R79, R144). -/
def mmWord : InstrWord := word clMMA 0 [(0, 16), (1, 22), (2, 28), (1, 41)]
def mmTD (off : Nat) : BitVec 512 := tdOf (dataVa + off) 0x30 [2, 1] [1, 2]
def mmWorld : State :=
  worldT .cluster mmWord [mmTD 64, mmTD 128, tdOf dataVa 0x40 [1, 1] [1, 1]] []
    [(64, [0x00, 0x40, 0x80, 0x3F]), (128, [0x40, 0x40, 0x80, 0x3F])]

theorem test_mm_sums :
    runHas (exec (.mm (unitA .cluster) false) mmWorld) (unitA .cluster) (fun r => match r.drains with
      | [d] => d.vals == [(0, 0, 0, 0x40E00000#32)]
      | _ => false) = true := by decide +kernel

def stepTo (i : Instr) (s : State) : State :=
  match exec i s with
  | .next t => t
  | _ => s

/-- The drain writes 7.0 to C and leaves the group (R144). -/
theorem test_mma_drain :
    nextHas (exec (.mmaDrain (unitA .cluster) false) (stepTo (.mm (unitA .cluster) false) mmWorld)) (fun t =>
      Memory.getBytes t.mem dataPhys 4 == toBytes 4 0x40E00000 && (match t.run? (unitA .cluster) with
        | some r => r.drains.isEmpty
        | none => false)) = true := by decide +kernel

/-- INT8 sums are exact: 100·100 twice is 20,000 (R46). -/
theorem test_mm_int :
    runHas (exec (.mm (unitA .cluster) false) (worldT .cluster mmWord [tdOf (dataVa + 64) 0x20 [2, 1] [1, 2], tdOf (dataVa + 64) 0x20 [2, 1] [1, 2],
      tdOf dataVa 0x41 [1, 1] [1, 1]] [] [(64, [100, 100])])) (unitA .cluster) (fun r => match r.drains with
      | [d] => d.vals == [(0, 0, 0, 20000#32)] && d.isInt
      | _ => false) = true := by decide +kernel

/-- FILL stores the low bytes of S[SK] when it completes (R78). -/
theorem test_fill :
    nextHas (exec (.moveDone (unitA .move) [] true) (stepTo (.fill (unitA .move)) (worldT .move (word 1 1 [(0, 16), (1, 39)]) [tdOf dataVa 0x30 [2] [1]]
      [0, 0xABCD] []))) (fun t => Memory.getBytes t.mem dataPhys 5 == [0xCD, 0xAB, 0xCD, 0xAB, 0]) = true := by decide +kernel

/-- A push to die 3, cluster 2: the byte lands at DOFF of that window and the token goes from 1 to 0 (R87, R170). -/
def pushWorld : State :=
  let s := worldT .cluster (word 9 0 [(0, 16), (3, 22), (2, 28), (16, 60), (8, 92)]) [tdOf dataVa 0x21 [1] [1]] [0] [(0, [0xA5])]
  { s with mem := Memory.setBytes s.mem (winKey 1 (3 * 0x100000000 + 2 * 0x800000 + 8)) [1] }

theorem test_push :
    (runHas (exec (.push (unitA .cluster)) pushWorld) (unitA .cluster) (fun r => r.pushes == 1) &&
    nextHas (exec (.pushDelivery 0 3) (stepTo (.push (unitA .cluster)) pushWorld)) (fun t =>
      t.fabric.isEmpty && Memory.getBytes t.mem (winKey 1 (3 * 0x100000000 + 2 * 0x800000 + 8)) 9 == [0, 0, 0, 0, 0, 0, 0, 0, 0xA5])) = true := by
  decide +kernel

/-! ### Queues, packets, epochs -/

/-- R101: a TAIL one ring ahead of HEAD (16 slots at reset) is stored; one further sets DBERR. -/
theorem test_doorbell :
    (nextHas (exec (.sqDoorbell 1 0 16) (world .cluster 0 [])) (fun t => match t.ctx? 1 with
      | some c => (getSq c 0).tail == 16 && !c.dberr
      | none => false) &&
    nextHas (exec (.sqDoorbell 1 0 17) (world .cluster 0 [])) (fun t => match t.ctx? 1 with
      | some c => (getSq c 0).tail == 0 && c.dberr
      | none => false)) = true := by decide +kernel

/-- R108: HALT has been issued and every group is empty: the task completes, its done record names it, and the unit is free. -/
theorem test_task_complete :
    nextHas (exec (.taskComplete (unitA .cluster) true) (worldOf .cluster { runA .cluster 1 with phase := .halting, user := 9 } (ctxA .cluster 1) [0] []))
      (fun t => t.units.isEmpty && (match (t.ctx? 1).bind (fun c => c.epoch) with
        | some e => (NMap.get? e.tasks 0).map (fun x => (x.status, x.user)) == some (.done, 9)
        | none => false)) = true := by decide +kernel

/-- R114: the end of a boundary moves EPOCH on by one and closes the epoch; the record posted next has SEQ 1, and the one after it SEQ 2 (R107). -/
theorem test_boundary_closes :
    (match (closeEpoch (world .cluster 0 []) 1 (epochA .cluster 1)).ctx? 1 with
     | some c => c.epochNo == 1 && c.epoch.isNone
     | none => false) = true ∧
    (match (post (world .cluster 0 []) 1 1).out with
     | [.hostWrite 0 77 0x10000 (0x01 :: r)] => r.drop 23 == [1, 0, 0, 0, 0, 0, 0, 0]
     | _ => false) = true := by decide +kernel

/-! ### Memory, fabric, recovery -/

/-- R269, R297: five symbols fail in the first read and four in a re-read: a record of KIND 0x02 waits, and no data changes; of four in the first
read the burst is corrected (KIND 0x01), with the first of them as SYM. -/
theorem test_near_retry :
    (nextHas (exec (.nearReadRetry 5 3 10 { first := [0, 1, 2, 3, 4], again := [[0, 1, 2, 3]], found := [], wrong := [] }) State.reset) (fun t =>
      t.corrected.map (fun e => (e.kind, e.die, e.sym)) == [(2, 5, 127)] && t.mem.isEmpty) &&
    nextHas (exec (.nearReadRetry 5 3 10 { first := [9, 1, 2, 3], again := [], found := [], wrong := [] }) State.reset) (fun t =>
      t.corrected.map (fun e => (e.kind, e.sym)) == [(1, 9)])) = true := by decide +kernel

/-- R286: a scrubbed page reads as zero and is free. -/
theorem test_scrub :
    nextHas (exec (.pageScrubDone false 0 10) (let s := world .cluster 0 [(5, [7])]
      { s with near := setNth s.near 0 { Tier.fresh with scrubbing := [10] } })) (fun t =>
      Memory.get t.mem (dataPhys + 5) == 0 && (nth Tier.fresh t.near 0).scrubbing.isEmpty) = true := by decide +kernel

/-- R379: a Squall of kind 0x01 for another attempt does nothing; for this one it aborts. -/
theorem test_squall :
    (let q : Squall := { kind := 1, src := 3, ctx := 1, att := 0, cause := 1, epoch := 0 }
     let s := world .cluster 0 []
     let aborting (t : State) : Bool := match (t.ctx? 1).bind (fun c => c.epoch) with
       | some e => (match e.phase with
         | .aborting _ => true
         | _ => false)
       | none => false
     nextHas (exec (.squallAbortEpoch 3 1 0 1 0) { s with squalls := [q] }) (fun t => aborting t && t.squalls.isEmpty) &&
     nextHas (exec (.squallAbortEpoch 3 1 1 1 0) { s with squalls := [{ q with att := 1 }] }) (fun t => !(aborting t) && t.squalls.isEmpty)) = true := by
  decide +kernel

/-! ### Ports and hosts -/

/-- R327: a pause quanta above zero pauses its priority alone, and zero releases it. -/
theorem test_pfc :
    nextHas (exec (.pfcFrame 0 3 0xFFFF) (world .cluster 0 [])) (fun t =>
      (portRec t 0).paused == [false, false, false, true, false, false, false, false]) = true := by decide +kernel

/-- R332: the beacon's payload begins with its magic and BSEQ 1. -/
theorem test_beacon :
    nextHas (exec (.beacon 0) (world .cluster 0 [])) (fun t => match t.out with
      | [.beacon 0 false b] => b.take 4 == [0x5A, 0x42, 0x52, 0x5A] && (b.drop 8).take 8 == [1, 0, 0, 0, 0, 0, 0, 0]
      | _ => false) = true := by decide +kernel

/-- R344: three missed keepalives begin a hold, and the host's context is paused with PCAUSE 1 (R100). -/
theorem test_keepalive_timeout :
    nextHas (exec (.keepaliveTimeout 0) (world .cluster 0 [])) (fun t =>
      (t.host? 0).map (·.phase) == some .hold && (t.ctx? 1).map (·.pcause) == some 1) = true := by decide +kernel

def reqA : AttachReq :=
  { port := 0, head := { aver := 1, rsv := 0, sid := 9, mseq := 0, mlen := 4200, segs := segmentsOf 4200 }, avmin := 1, avmax := 1, umax := 0x10, enc := 0,
    rsv := 0, hnonce := 1, hpub := [], hek := [], hkdig := 0x33 }

/-- R340: an unknown identity is refused with 0x03, a UMAX below 0x10 with 0x02, a version range without 1 with 0x01. -/
theorem test_attach_refusals :
    (let s := { world .cluster 0 [] with hosts := [], ctxs := [], units := [] }
     [(reqA, 3), ({ reqA with umax := 0xF }, 2), ({ reqA with avmin := 2, avmax := 2 }, 1), ({ reqA with rsv := 1 }, 0x0A)].all (fun p =>
       nextHas (exec (.attachReq p.1 frameA) s) (fun t => t.out == [.message 0 [segmentHeader 0x7F 9 0 1 0 1 ++ [p.2]]]))) = true := by decide +kernel

/-! ### Management, boot, power -/

/-- R411: an unwritten entry index has status 0x03; a reserved command status 0x01. -/
theorem test_colyr_refusals :
    (nextHas (exec (.tenantRead 5 16) State.reset) (fun t => t.out == [.colyr 0x86 5 3 []]) &&
    nextHas (exec (.unknownCommand 6 0x15) State.reset) (fun t => t.out == [.colyr 0x95 6 1 []])) = true := by decide +kernel

/-- R402: the fuse counter rises to the running image's number and no further. -/
theorem test_fuse_svn :
    (nextHas (exec (.fuseSvn 0 1) State.reset) (fun t => t.fw.fuses == 1) &&
    nextHas (exec (.fuseSvn 0 2) State.reset) (fun t => t.fw.fuses == 0 && t.out == [.colyr 0x8F 0 3 []])) = true := by decide +kernel

/-- R415, R417: an entry whose reserved bits are set is stored with zeros there. -/
theorem test_tenant_write :
    nextHas (exec (.tenantWrite 0 3 (tenantReset ||| (1 <<< 1023) ||| (1 <<< 512) ||| 0x33)) State.reset) (fun t =>
      teValid (tenantBits t 3) && (tenantBits t 3).getLsbD 1023 == false) = true := by decide +kernel

/-- R443: a thermal trip takes the module off and latches THERMTRIP#. -/
theorem test_thermal_trip :
    nextHas (exec (.thermalTrip 23) (world .cluster 0 [])) (fun t => t.power.boot == .off && t.power.thermtrip && t.mem.isEmpty && t.ctxs.isEmpty) = true := by
  decide +kernel

/-- R430: the boot goes from the rails to near training, and from the self-test to ready. -/
theorem test_boot :
    (nextHas (exec .railsInRegulation { State.reset with power := { Power.fresh with boot := .rails } }) (fun t => t.power.boot == .nearTrain) &&
    nextHas (exec (.bootComplete [] []) { State.reset with power := { Power.fresh with boot := .selfTest, pwrgd := false } }) (fun t =>
      t.power.boot == .ready && t.power.pwrgd)) = true := by decide +kernel

/-- R451: RESET# low clears memory and contexts and holds the module (here one whose boot ROM runs). -/
theorem test_reset_pin :
    nextHas (exec .resetPin { world .cluster 0 [(0, [1])] with power := { Power.fresh with boot := .recovery } }) (fun t => t.power.boot == .inReset && t.mem.isEmpty && t.ctxs.isEmpty && t.hosts.isEmpty) = true := by
  decide +kernel

/-- The front command runs and leaves the queue; an empty queue idles. -/
theorem test_step :
    nextHas (step { State.reset with pending := [.getInventory 1, .fwStatus 2] }) (fun t => t.pending == [.fwStatus 2] && t.out.length == 1) = true ∧
      step State.reset = .next State.reset := ⟨by decide +kernel, rfl⟩

end Sys2Proof.Tests
end

