-- ==== Sys2Proof/Tests/WitnessCompute.lean ====
section
/-!
SUPPORT. For each statement about transfers, vectors, tables, matrices, attention and pushes, small states and operands that meet the hypotheses of its clauses.
-/

namespace Sys2Proof.Tests

set_option Elab.async false

open Sys2Proof.Machine

/-- The state that a command answers. -/
def after (i : Instr) (s : State) : State :=
  match exec i s with
  | .next t => t
  | _ => s

def runIn (s : State) (k : UnitKind) : Run := (s.run? (unitA k)).getD (runA k 1)
def ctxIn (s : State) : Ctx := (s.ctx? 1).getD (ctxA .cluster 1)

/-- The value of a computation that succeeds. -/
def okD {α : Type} (d : α) : X α → α
  | .ok a => a
  | .error _ => d

/-- Two-element UINT8 tensors, and a list of two INT32 indexes. -/
def td8 (off : Nat) : BitVec 512 := tdOf (dataVa + off) 0x21 [1, 2] [1, 1]
def moveT (op : Nat) : List (BitVec 512) :=
  if op = 2 then [td8 0, tdOf 16 0x21 [1, 2] [1, 1]] else if op = 3 then [tdOf 16 0x21 [1, 2] [1, 1], td8 0]
  else [td8 0, td8 64, tdOf (dataVa + 128) 0x41 [2] [1]]
def moveW (op : Nat) : InstrWord := word 1 op [(0, 16), (1, 22), (2, 28)]
def moveS (op : Nat) : State := worldT .move (moveW op) (moveT op) [0]

def moveInstr (op : Nat) : Instr :=
  if op = 0 then .copy (unitA .move) else if op = 1 then .fill (unitA .move) else if op = 2 then .hostrd (unitA .move)
  else if op = 3 then .hostwr (unitA .move) else .gather (unitA .move)

/-- The world in which the oldest transfer of a kind is under way. -/
def moved (op : Nat) : State := after (moveInstr op) (moveS op)

theorem witness_TransfersJoinAndComplete :
    (∀ op ∈ rangeFrom 0 5, let w := moveW op
      Issues (moveS op) (unitA .move) (runT .move (moveT op) [0]) (ctxA .move 1) w clMOVE op ∧
        moveChecks (moveS op) 1 (ctxA .move 1) (runT .move (moveT op) [0]).T w = .ok ()) ∧
    -- the oldest transfer, its host and its writes
    (∀ op ∈ rangeFrom 0 5, let s := moved op
      let r := runIn s .move
      s.run? (unitA .move) = some r ∧ r.phase ≠ .held ∧ hostPaused s (ctxIn s).slot = false ∧ r.moves.length = 1 ∧ s.ctx? r.ctx = some (ctxIn s) ∧ s.host? (ctxIn s).slot = some hostA ∧
        hostA.reachable = true ∧ r.moves.all (fun sn =>
          decide (wOp sn.word = op) && isOk (tslot sn.T (mTD sn.word)) && (op == 1 || isOk (tslot sn.T (mTS sn.word))) &&
          (match tslot sn.T (mTD sn.word), tslot sn.T (if op = 1 then mTD sn.word else mTS sn.word), hostWindow (ctxIn s) (mHWIN sn.word) with
           | .ok d, .ok t, some x =>
             let ended (l : List WItem) : Bool := decide ((asyncWrites s r.ctx d (mKEY sn.word) l).2 = some none)
             if op = 0 then ended (copyItems s r.ctx (ctxIn s) d t)
             else if op = 1 then ended ((tuples d.exts).map (fun ix => .ok (elemWrite d ix (sreg sn.S (mSK sn.word)).toNat)))
             else if op = 2 then ended (hostrdItems s.freeIx (some x) d t [1, 2])
             else if op = 3 then !(d.aliased) && isOk (mapE (readElem s r.ctx (ctxIn s) t) (tuples d.exts)) &&
               (tuples d.exts).all (fun ix => decide (d.elemAddr ix + d.fmt.size ≤ x.len))
             else (match tslot sn.T (mTI sn.word) with
               | .ok i => ended (gatherItems s r.ctx (ctxIn s) d t i)
               | .error _ => false)
           | _, _, _ => false)) = true) := by
  simp only [issues_iff]; decide +kernel

/-- VEC: every element-wise operation on FP32 tensors of two elements, with and without the scalar operand. -/
def vecT : List (BitVec 512) :=
  [tdOf dataVa 0x40 [2] [1], tdOf (dataVa + 64) 0x40 [2] [1], tdOf (dataVa + 128) 0x40 [2] [1], tdOf (dataVa + 192) 0x40 [1] [1],
   tdOf (dataVa + 256) 0x41 [1] [1], tdOf (dataVa + 320) 0x40 [0] [1], tdOf (dataVa + 320) 0x40 [1] [1]]
def rV : Run := runT .cluster vecT [0, 1]
def vecS (w : InstrWord) : State := worldT .cluster w vecT [0, 1]
def pT (i : Nat) : TD := TD.parse (nth 0 vecT i)

theorem witness_VecElementwiseCompletes :
    ∀ op ∈ rangeFrom 0 8, ∀ k ∈ [0, 1], let w := word 4 op [(0, 16), (1, 22), (2, 28), (2, 34), (k, 50)]
      let s := vecS w
      let c := ctxA .cluster 1
      Issues s (unitA .cluster) rV c w clVEC op ∧ vecDest rV.T (vTD w) (vRM w) = .ok (pT 0) ∧ vecSource s 1 c rV.T (vTS1 w) = .ok (pT 1) ∧
        sameShape (pT 0) (pT 1) = true ∧ vecSource s 1 c rV.T (vTS2 w) = .ok (pT 2) ∧ sameShape (pT 0) (pT 2) = true ∧
        vecSource s 1 c rV.T (vTS3 w) = .ok (pT 2) ∧ (decide (vSKEN w = true) = (k == 1)) ∧
        (runWrites s 1 (pT 0) false (itemWrites ((tuples (pT 0).exts).map (vecElem s 1 c op (vRM w) (pT 0) (pT 1)
          (if op ≤ 5 ∧ vSKEN w = false then some (pT 2) else none) (if op ≤ 5 ∧ vSKEN w = true then some ((sreg rV.S (vSK w)).setWidth 32) else none)
          (if op = 3 then some (pT 2) else none))))).2 = none := by
  simp only [issues_iff]; decide +kernel

theorem witness_VecReductionsPoolsAndRandComplete :
    let c := ctxA .cluster 1
    -- RSUM to ARGMAX along axis 0 over two elements; ARGMAX writes INT32
    (∀ op ∈ [0x10, 0x11, 0x12, 0x13, 0x14], let di := if op = 0x14 then 4 else 3
      let w := word 4 op [(di, 16), (1, 22), (6, 34)]
      let s := vecS w
      Issues s (unitA .cluster) rV c w clVEC op ∧ vecDest rV.T (vTD w) (vRM w) = .ok (pT di) ∧ vecSource s 1 c rV.T (vTS1 w) = .ok (pT 1) ∧
        vAXIS w ≤ 5 ∧ reducedShape (vAXIS w) (pT di) (pT 1) = true ∧ (pT di).fmt = (if op = 0x14 then .int32 else .fp32) ∧ (pT 1).count ≠ 0 ∧
        vecDest rV.T (vTS3 w) (vRM w) = .ok (pT 6) ∧ reducedShape (vAXIS w) (pT 6) (pT 1) = true ∧ (pT 6).fmt = .fp32 ∧ (pT 6).aliased = false ∧
        (runWrites s 1 (pT di) false (itemWrites ((tuples (pT di).exts).map (reduceElem s 1 c op (vRM w) (vAXIS w) (pT di) (pT 1) false) ++
          (if op = 0x13 then (tuples (pT 6).exts).map (reduceElem s 1 c op (vRM w) (vAXIS w) (pT 6) (pT 1) true) else [])))).2 = none) ∧
    -- an empty source, and the last axis: rank 1 keeps its extent there
    (∀ op ∈ [0x10, 0x13], let w := word 4 op [(3, 16), (5, 22), (6, 34)]
      Issues (vecS w) (unitA .cluster) rV c w clVEC op ∧ reducedShape (vAXIS w) (pT 3) (pT 5) = true ∧ (pT 5).count = 0) ∧
    (let w := word 4 0x10 [(0, 16), (1, 22), (5, 42)]
     Issues (vecS w) (unitA .cluster) rV c w clVEC 0x10 ∧ vAXIS w ≤ 5 ∧ reducedShape (vAXIS w) (pT 0) (pT 1) = true) ∧
    (∀ op ∈ [0x18, 0x19], let w := word 4 op [(0, 16), (1, 22)]
      Issues (vecS w) (unitA .cluster) rV c w clVEC op ∧ poolShape (pT 0) (pT 1) = true ∧
        (runWrites (vecS w) 1 (pT 0) false (itemWrites ((tuples (pT 0).exts).map (poolElem (vecS w) 1 c op w (pT 0) (pT 1))))).2 = none) ∧
    (let w := word 4 0x20 [(0, 16)]
     Issues (vecS w) (unitA .cluster) rV c w clVEC 0x20 ∧ (randBits (pT 0).fmt .rne 0).isSome = true ∧
       (runWrites (vecS w) 1 (pT 0) false ((tuples (pT 0).exts).map (fun ix => .ok (elemWrite (pT 0) ix 0)))).2 = none) := by
  simp only [issues_iff]; decide +kernel

/-! ### Matrices, attention, pushes -/

def mmW (fs : List (Nat × Nat)) : InstrWord := word clMMA 0 ([(0, 16), (1, 22), (2, 28), (1, 41)] ++ fs)
def mmT : List (BitVec 512) := [tdOf (dataVa + 64) 0x30 [2, 1] [1, 2], tdOf (dataVa + 128) 0x30 [2, 1] [1, 2], tdOf dataVa 0x40 [1, 1] [1, 1]]
/-- A BF16 prologue of kind 1 that waits for a counter at A0 to reach S0. -/
def qTok : BitVec 512 := BitVec.ofNat 512 (bits [(1, 0), (0x30, 10), (1, 145), (0, 146)])
def rM (q : Option (BitVec 512)) : Run := { runT .cluster mmT [0] with Q := [q, none, none, none], A := dataVa :: List.replicate 15 0 }
def mmS (w : InstrWord) (q : Option (BitVec 512)) (data : List (Nat × Bytes)) : State := worldOf .cluster (rM q) (ctxA .cluster 1) [w] data

def convW : InstrWord := word clWIN 0 [(0, 16), (1, 22), (2, 28), (1, 34), (1, 36), (1, 103)]
def convT : List (BitVec 512) :=
  [tdOf (dataVa + 64) 0x30 [1, 2] [1, 1], tdOf (dataVa + 128) 0x30 [1, 1, 2] [1, 1, 1], tdOf dataVa 0x40 [1, 1] [1, 1]]
def rN : Run := runT .cluster convT [0]
def convS : State := worldT .cluster convW convT [0]

theorem witness_MatrixAttentionAndPushIssue_matrix :
    let c := ctxA .cluster 1
    (let w := mmW []
     let s := mmS w none []
     let r := rM none
     Issues s (unitA .cluster) r c w clMMA 0x00 ∧ mmStatic .cluster w = true ∧ prologueSlot r.Q (xQXEN w) (xQX w) = .ok none ∧
       heldByToken s 1 c r [none, none] = .ok none ∧ isOk (mmPlan s 1 c .cluster r w) = true ∧
       (match mmPlan s 1 c .cluster r w with
        | .ok p => isOk (foldE (mmGroup s 1 c r w p (snapshot r w) 1) { planes := r.planes, drains := [], flags := 0 }
            ((rangeFrom 0 1).zip (groupsOf (xBCNT w + 1) (packCount (xSHAPE w) 0 0)))) &&
            -- finite operands are checked, an infinity is not
            checkable (fun a => mmPasses s 1 c r w p a (mmGroups r w)) &&
            (let inf := mmS w none [(64, [0x80, 0x7F]), (66, [0x80, 0x7F])]
             !(checkable (fun a => mmPasses inf 1 c r w p a (mmGroups r w))))
        | .error _ => false) = true) ∧
    -- the counter stands at one, the threshold is zero
    (let w := mmW [(1, 48)]
     let s := mmS w (some qTok) [(0, [1])]
     let r := rM (some qTok)
     Issues s (unitA .cluster) r c w clMMA 0x00 ∧ prologueSlot r.Q (xQXEN w) (xQX w) = .ok (some qTok) ∧
       heldByToken s 1 c r [some qTok, none] = .ok (some [(dataVa, 0)])) ∧
    (Issues convS (unitA .cluster) rN c convW clWIN 0x00 ∧ convStatic .cluster convW = true ∧ prologueSlot rN.Q (nQXEN convW) (nQX convW) = .ok none ∧
       heldByToken convS 1 c rN [none] = .ok none ∧
       (match convPlan convS 1 c .cluster rN convW none with
        | .ok p => isOk (foldE (convGroup convS 1 c rN convW p (snapshot rN convW) 1) { planes := rN.planes, drains := [], flags := 0 }
            ((rangeFrom 0 1).zip (convGroups convW p.tc))) && checkable (fun a => convPasses convS 1 c rN convW p a (convGroups convW p.tc)) &&
            (let inf := worldT .cluster convW convT [0] [(64, [0x80, 0x7F]), (66, [0x80, 0x7F])]
             !(checkable (fun a => convPasses inf 1 c rN convW p a (convGroups convW p.tc))))
        | .error _ => false) = true) := by
  simp only [issues_iff]; decide +kernel

/-- One query, one key, one value of one BF16 element. -/
def attT : List (BitVec 512) := (rangeFrom 0 4).map (fun i => tdOf (dataVa + 64 * i) 0x30 [1, 1] [1, 1])
def attW : InstrWord := word clATTN 0 [(1, 16), (2, 22), (3, 28), (0, 34)]
def rP : Run := runT .pipeline attT [0]
def attS : State := worldT .pipeline attW attT [0]

/-- A context with one sequence: its root region at virtual page 3, page sets in virtual page 4. -/
def rootVa : Nat := 0x600000
def cKv : Ctx :=
  { ctxA .pipeline 1 with
    pages := (ctxA .pipeline 1).pages ++ [(3, { phys := 11 * 0x200000, ro := false, moveTo := none }), (4, { phys := 12 * 0x200000, ro := false, moveTo := none })]
    seqs := [(5, { root := rootVa, maxLp := 1, marked := [], swapArea := some (0, 4096), pageInWanted := false, freeing := [], slots := [], forged := false })]
    kv := { n := 12, pages := [0x800000], free := [0x800000, 0x801000], waiting := [] } }
def kvT : List (BitVec 512) := [tdOf rootVa 0 [] [0], tdOf dataVa 0x30 [1, 1] [1, 1], tdOf (dataVa + 64) 0x30 [1, 1] [1, 1]]
def kvW : InstrWord := word clATTN 1 [(1, 22), (2, 28), (0, 34)]
def rK : Run := runT .pipeline kvT [0]
/-- The header: one group, one element each way, BF16, a state; then the registers of the page tables as they are built. -/
def kvS (st : Nat) : State :=
  let s := worldOf .pipeline rK cKv [kvW] []
  { s with mem := Memory.setBytes s.mem (11 * 0x200000) (toBytes 8 (bits [(2, 52), (2, 54), (st, 56)])) }

theorem witness_MatrixAttentionAndPushIssue_attention :
    (Issues attS (unitA .pipeline) rP (ctxA .pipeline 1) attW clATTN 0x00 ∧ aMASK attW ≤ 4 ∧
      (match attnPlan attS 1 (ctxA .pipeline 1) rP.S rP.T attW none with
       | .ok p => attnOk p attW && checkable (fun _ => scorePass attS 1 (ctxA .pipeline 1) p none 0) && decide (0 < ceilDiv p.rows 128)
       | .error _ => false) = true) ∧
    (Issues (kvS 0) (unitA .pipeline) rK cKv kvW clATTN 0x01 ∧
      (match appendPlan (kvS 0) 1 cKv rK.S rK.T kvW with
       | .ok p => appendOk p kvW && hState p.h == stResident &&
           isOk (allocRange ((kvS 0).setRun (unitA .pipeline) { rK with attns := rK.attns ++ [.append (snapshot rK kvW) p.sn] }) 1 (unitA .pipeline)
             p.sn (tokenPages p.pos p.n))
       | .error _ => false) = true) ∧
    (Issues (kvS 2) (unitA .pipeline) rK cKv kvW clATTN 0x01 ∧
      (match appendPlan (kvS 2) 1 cKv rK.S rK.T kvW with
       | .ok p => appendOk p kvW && hState p.h != stResident
       | .error _ => false) = true) ∧
    -- a push to the last die and the last pipeline
    (let w := word 9 0 [(0, 16), (23, 22), (1, 27), (7, 28), (16, 60), (8, 92)]
     let r := runT .cluster [td8 0] [0]
     let c := ctxA .cluster 1
     let s := worldT .cluster w [td8 0] [0]
     Issues s (unitA .cluster) r c w clPUSH 0x00 ∧ pushStatic .cluster w = true ∧ vecSource s 1 c r.T (pTS w) = .ok (TD.parse (td8 0)) ∧
       packTensor s 1 c (TD.parse (td8 0)) = .ok [0, 0] ∧ isOk (pushTarget 1 c r w 2) = true ∧ isOk (pushToken 1 c w) = true) := by
  simp only [issues_iff]; decide +kernel

def drained : State := after (.mm (unitA .cluster) false) (mmS (mmW []) none [])
def attended : State := after (.attend (unitA .pipeline) false) attS
def appended : State := after (.kvappend (unitA .pipeline)) (kvS 0)
def pushW : InstrWord := word 9 0 [(0, 16), (23, 22), (1, 27), (7, 28), (16, 60), (8, 92)]
def pushed : State := after (.push (unitA .cluster)) (worldT .cluster pushW [td8 0] [0])

theorem witness_AsynchronousInstructionsComplete :
    (let s := drained
     let r := runIn s .cluster
     let c := ctxIn s
     s.run? (unitA .cluster) = some r ∧ s.ctx? r.ctx = some c ∧ r.drains.length = 1 ∧ r.drains.all (fun d =>
       match tslot d.snap.T (xTC d.snap.word), drainChain d with
       | .ok tc, .ok chain =>
         (match drainWrites s r.ctx c r.banks d tc chain with
          | .ok ws =>
            (match prepareAll s r.ctx ws with
             | .ok s1 => decide (waitPages s1 r.ctx ws = []) && isOk (drainRun s1 (unitA .cluster) r [] c d tc chain)
             | .error _ => false)
          | .error _ => false)
       | _, _ => false) = true) ∧
    (let s := attended
     let r := runIn s .pipeline
     let c := ctxIn s
     s.run? (unitA .pipeline) = some r ∧ s.ctx? r.ctx = some c ∧ r.attns = [.attend (snapshot rP attW) none] ∧ aPAGED attW = false ∧
       (match attnPlan s 1 c rP.S rP.T attW none with
        | .ok p =>
          (match attnPass s 1 c p (aMASK attW) none with
           | .ok rows =>
             let ws := (rows.map (finishRow p.out.fmt (RM.ofCode (aRM attW)))).flatMap (rowItems p attW)
             (match prepareAll s 1 ws with
              | .ok s1 => isOk (prepareMass s1 1 p.root []) && decide (waitPages s1 1 (ws ++ massItems p.root []) = []) &&
                  decide ((runBytes s1 1 ws).2 = none) && isOk (addMass (runBytes s1 1 ws).1 1 p.root [])
              | .error _ => false)
           | .error _ => false)
        | .error _ => false) = true) := by decide +kernel

theorem witness_AsynchronousInstructionsComplete_append :
    (let s := after (.shadowCopyDone 1 3) (after (.kvappendDone (unitA .pipeline) false) appended)
     let r := runIn s .pipeline
     let c := ctxIn s
     s.run? (unitA .pipeline) = some r ∧ s.ctx? r.ctx = some c ∧ r.attns = [.append (snapshot rK kvW) 5] ∧
       (match appendPlan s 1 c rK.S rK.T kvW with
        | .ok p => appendReady s 1 c p &&
          (let ws := (appendItems s 1 c p kvW).map (·.1)
           match prepareWrite s 1 p.q.root 64 (decide (0 < p.n)) with
           | .ok s1 =>
             (match prepareAll s1 1 ws with
              | .ok s2 => decide (waitPages s2 1 (.ok (p.q.root, List.replicate 64 0) :: ws) = []) &&
                  (match appendBytes s2 1 ws with
                   | (s3, none) => isOk (putBytes s3 1 p.q.root (toBytes 4 (max (hLen p.h) (p.pos + p.n))))
                   | _ => false)
              | .error _ => false)
           | .error _ => false)
        | .error _ => false) = true) := by decide +kernel

theorem witness_AsynchronousInstructionsComplete_push :
    pushed.fabric.length = 1 ∧ pushed.fabric.all (fun f => decide (f.src = 0) && decide (f.dst = 23) && flightLive pushed f && !(heldBack pushed f) &&
      (routeDies pushed 0 23).all (fun d => !(islandDown pushed 5 d 0)) &&
      decide (f.stage = false) && f.writes.all (fun w => decide (f.token + 8 ≤ w.1)) && decide (f.writes.length = 1) &&
      -- with the epoch's attempt moved on, the same push is dead
      !(flightLive (pushed.modCtx 1 (fun c => c.modEpoch (fun e => { e with attempt := 1 }))) f)) = true ∧
    Memory.wf pushed.mem = true ∧ (runIn pushed .cluster).ctx = 1 ∧ (runIn pushed .cluster).att = 0 := by decide +kernel

end Sys2Proof.Tests
end

