-- ==== Sys2Proof/Tests/WitnessHosts.lean ====
section
/-!
SUPPORT. For each statement about ports, host transfers, attachment, registration and release, small states and operands that meet the hypotheses of its clauses.
-/

namespace Sys2Proof.Tests

set_option Elab.async false

open Sys2Proof.Machine

def hS : State := world .cluster 0 []
def hC : Ctx := ctxA .cluster 1

/-- The world with its port's record changed, and the host port in a mode. -/
def portS (mode : Nat) (f : PortRec → PortRec) : State := { modPort hS 0 f with portModes := List.replicate 8 mode }

theorem witness_PriorityFlowControl :
    (0 < hS.ports.length ∧ 31 < hS.ports.length ∧ portUp hS 0 = true ∧ (portRec hS 0).tx = []) ∧
    -- one answer waits in a paused priority, and stays while it is paused
    (let i : TxItem := { slot := none, ctx := none, roce := false, record := none, out := .arpReply 0 1 }
     let p := (portRec (portS 0 (fun x => { x with tx := [i], paused := setNth x.paused 0 true })) 0)
     p.tx = [i] ∧ nth false (setNth p.paused 0 false) (i.prio hS) = false ∧ nth false (setNth p.paused 5 true) (i.prio hS) = true) ∧
    -- the three sizes of the buffer, at the limits of each clause
    (∀ p ∈ [(0, 4194304), (1, 2097152), (2, 1048576)],
      let s := portS p.1 (fun x => x)
      portBuffer s 0 = p.2 ∧ (portRec s 0).xoff = false ∧ portUp s 0 = true ∧ portBuffer s 0 / 2 < p.2 / 2 + 1 ∧
        (p.2 / 2 ≤ portBuffer s 0 / 2 ∧ 3 * portBuffer s 0 / 8 ≤ p.2 / 2) ∧ 3 * portBuffer s 0 / 8 ≤ 3 * p.2 / 8 ∧
        3 * p.2 / 8 - 1 < 3 * portBuffer s 0 / 8 ∧ p.2 / 4 - 1 < portBuffer s 0 / 4) ∧
    (let s := portS 0 (fun x => { x with xoff := true, occupancy := 1048576 })
     portUp s 0 = true ∧ (portRec s 0).xoff = true ∧ portBuffer s 0 / 4 ≤ (portRec s 0).occupancy) := by decide +kernel

/-- A frame that fills half the buffer, marked or not, in the lossless priority. -/
def frameH (ce : Bool) : FrameInfo := { frameA with pcp := some 3, ce := ce, cnpDue := true, occupancy := 2097152 }

theorem witness_frameTaken (ce : Bool) : FrameTaken hS 0 hostA (frameH ce) false ∧ hostA.hasQp = true ∧ hostPaused (frameState hS 0 hostA (frameH ce)) 0 = false :=
  ⟨{ host := by decide +kernel, up := by decide +kernel, linked := Or.inl (by decide +kernel), sender := rfl, intact := rfl,
     room := by cases ce <;> decide +kernel, verified := rfl }, by cases ce <;> decide +kernel, by cases ce <;> decide +kernel⟩

/-- Bool form of the conditions on a protected message. -/
def messageB (s : State) (slot : Nat) (h : HostRec) (m : MsgHead) (len : Nat) (f : FrameInfo) (held : Bool) : Bool :=
  decide (s.host? slot = some h) && portUp s h.port && (h.linked || (held && h.phase == .hold)) && f.mac == h.mac && f.crcOk &&
    decide (f.occupancy ≤ portBuffer s h.port / 2) && (match f.sec with
      | none => false
      | some x => (h.verifies x).isSome) &&
    msgComplete m && msgWellFormed m len && decide (m.sid = h.sid) && decide (NMap.get? h.replies m.mseq = none)

theorem message_of {s : State} {slot : Nat} {h : HostRec} {m : MsgHead} {len : Nat} {f : FrameInfo} {held : Bool}
    (hb : messageB s slot h m len f held = true) : MessageTaken s slot h m len f held := by
  simp only [messageB, Bool.and_eq_true, Bool.or_eq_true, decide_eq_true_eq, beq_iff_eq] at hb
  obtain ⟨⟨⟨⟨⟨⟨⟨⟨⟨⟨h1, h2⟩, h3⟩, h4⟩, h5⟩, h6⟩, h7⟩, h8⟩, h9⟩, h10⟩, h11⟩ := hb
  cases hs : f.sec with
  | none => simp [hs] at h7
  | some x =>
    rw [hs] at h7
    exact { host := h1, up := h2, linked := h3, sender := h4, intact := h5, room := h6, verified := by rw [hs]; exact h7,
            whole := h8, form := h9, session := h10, inside := by rw [hs]; rfl, fresh := h11 }

/-- The host in a phase, and a world with it alone. -/
def hostP (ph : HostPhase) : HostRec := { hostA with phase := ph }
def worldP (h : HostRec) : State := { hS with hosts := [(0, h)], ctxs := [] }

theorem witness_messageTaken :
    (∀ ph ∈ [HostPhase.attached, .registered], ∀ len ∈ [0, 1, 12, 40, 64], MessageTaken (worldP (hostP ph)) 0 (hostP ph) (headA len) len frameS false) ∧
    (∀ ph ∈ [HostPhase.attached, .registered, .hold], MessageTaken (worldP (hostP ph)) 0 (hostP ph) (headA 1) 1 frameS true) := by
  have h1 : ∀ ph ∈ [HostPhase.attached, .registered], ∀ len ∈ [0, 1, 12, 40, 64],
      messageB (worldP (hostP ph)) 0 (hostP ph) (headA len) len frameS false = true := by decide +kernel
  have h2 : ∀ ph ∈ [HostPhase.attached, .registered, .hold], messageB (worldP (hostP ph)) 0 (hostP ph) (headA 1) 1 frameS true = true := by decide +kernel
  exact ⟨fun ph hp len hl => message_of (h1 ph hp len hl), fun ph hp => message_of (h2 ph hp)⟩

/-- The context with its data page read-only, or a line of it poisoned. -/
def roC : Ctx := { hC with pages := [(2, { phys := dataPhys, ro := true, moveTo := none })] }
def badC : Ctx := { hC with poisoned := [65536, 65537], pausePoison := true }

theorem witness_RdmaAccessesOfAttachedHosts :
    (∀ ce ∈ [true, false],
      let a := frameState hS 0 hostA (frameH ce)
      -- the last byte of the data page, and one past it
      keyedCtx a 0 1 = some hC ∧ accessOk hC (dataVa + 0x1FFFFF) 1 true = true ∧ accessOk hC (dataVa + 0x1FFFFF) 2 true = false ∧
        accessOk hC dataVa 0 true = false ∧ keyedCtx a 0 2 = none ∧
        -- the last word of the control page, and one past it
        ctrlOk 4092 4 = true ∧ ctrlOk 4096 4 = false ∧ ctrlOk 2 4 = false ∧ windowOk 4088 8 = true ∧ windowOk 4096 8 = false ∧ windowOk 4 8 = false ∧
        accessOk hC (dataVa + 0x1FFFFF) 1 false = true ∧ touchesPoison hC (dataVa + 0x1FFFFF) 1 = false) ∧
    (let a := frameState (worldOf .cluster (runA .cluster 1) roC [0] []) 0 hostA (frameH true)
     keyedCtx a 0 1 = some roC ∧ accessOk roC dataVa 8 true = false ∧ accessOk roC dataVa 8 false = true) ∧
    (let a := frameState (worldOf .cluster (runA .cluster 1) badC [0] []) 0 hostA (frameH true)
     keyedCtx a 0 1 = some badC ∧ touchesPoison badC (dataVa + 63) 1 = true ∧ touchesPoison badC (dataVa + 128) 1 = false ∧
       accessOk badC (dataVa + 63) 1 false = true) ∧
    -- a write that cures the first line and not the second
    (let s := worldOf .cluster (runA .cluster 1) badC [0] []
     Memory.wf s.mem = true ∧ s.ctx? 1 = some badC ∧ accessOk badC dataVa 127 true = true ∧
       (accessPages dataVa 127).all (fun vp => !(unstablePage badC vp)) = true ∧ accessPages dataVa 127 = [2] ∧
       NMap.get? badC.pages 2 = some { phys := dataPhys, ro := false, moveTo := none } ∧ NMap.get? badC.shadows 2 = none ∧
       (65536 ∈ badC.poisoned ∧ dataVa ≤ 64 * 65536 ∧ 64 * 65536 + 64 ≤ dataVa + 127) ∧
       (65537 ∈ badC.poisoned ∧ dataVa + 127 < 64 * 65537 + 64) ∧ badC.pausePoison = true) := by
  refine ⟨by decide +kernel, by decide +kernel, by decide +kernel, ?_⟩
  intro s
  refine ⟨?_, ?_, ?_, ?_, ?_, ?_, ?_, ?_, ?_, ?_⟩ <;> decide +kernel

theorem witness_CongestionRetriesAndBeacons :
    (hS.host? 0 = some hostA ∧ hostA.qps = [QPair.fresh 5 9 7 3] ∧ (QPair.fresh 5 9 7 3).qpn = 5 ∧ (QPair.fresh 5 9 7 3).retries < 7) ∧
    (let h : HostRec := { hostA with qps := [{ QPair.fresh 5 9 7 3 with retries := 7, rate := 2 ^ 32 - 1 }] }
     ({ hS with hosts := [(0, h)] } : State).host? 0 = some h ∧ h.qps = [{ qpn := 5, psn := 9, hqpn := 7, hpsn := 3, retries := 7, rate := 2 ^ 32 - 1 }]) ∧
    (portUp hS 0 = true ∧ ipv4Of hS 0 = 0 ∧ portPaused hS 0 0 = false) := by decide +kernel

/-! ### Attachment -/

/-- A tenancy entry that admits a key digest with an encryption rule (R415). -/
def entryFor (hk enc : Nat) : TenantBits := BitVec.ofNat 1024 (hk + 2 ^ 512 + enc * 2 ^ 513 + 2 * 2 ^ 516 + 1 * 2 ^ 518 + 2 ^ 527 + 64 * 2 ^ 558)

/-- The world whose last tenancy entry admits the key 6 and the one before it the key 5. -/
def tenS : State :=
  { hS with colyr := { hS.colyr with
      tenFlash := ({ count := 1, valid := true, entries := List.replicate 14 tenantReset ++ [entryFor 5 1, entryFor 6 1] }, hS.colyr.tenFlash.2) } }

def reqH (sid hk : Nat) : AttachReq :=
  { port := 0, head := { aver := 1, rsv := 0, sid := sid, mseq := 0, mlen := 4200, segs := segmentsOf 4200 }, avmin := 1, avmax := 1, umax := 0x10,
    enc := 1, rsv := 0, hnonce := 3, hpub := [], hek := [], hkdig := BitVec.ofNat 512 hk }

def sessA (sid hk : Nat) : Session :=
  { sid := sid, req := reqH sid hk, mac := 0xB, dnonce := 0, t := 7, keys := keysA, reply := [], authSeq := 0, waiting := none }

/-- The header of its ATTACH_AUTH. -/
def headAuth (sid : Nat) : MsgHead := { aver := 1, rsv := 0, sid := sid, mseq := 1, mlen := 4691, segs := segmentsOf 4691 }

theorem witness_portFrameTaken (b : Bool) : PortFrameTaken tenS 0 { frameA with mac := 0xB } b :=
  { up := by decide +kernel, intact := rfl, room := by decide +kernel, plain := rfl,
    sender := fun slot h hh => by
      have : hostByMac tenS 0 0xB = none := by decide +kernel
      rw [show ({ frameA with mac := 0xB } : FrameInfo).mac = 0xB from rfl, this] at hh
      cases hh }

theorem witness_AttachRequestsAreCheckedAndAnswered :
    -- both rules on encryption, an identity of a free slot and one of its own hold
    (reqReason tenS (reqH 9 6) = 0 ∧ reqReason tenS { reqH 9 6 with enc := 0 } = 0 ∧
     reqReason { tenS with hosts := [(0, { hostA with phase := .hold })] } (reqH 9 5) = 0 ∧
     reqReason { tenS with order := .half } { reqH 9 6 with enc := 0 } = 0 ∧ reqReason { tenS with order := .half } (reqH 9 6) = 0x06) ∧
    (let a := portState tenS 0 { frameA with mac := 0xB }
     msgComplete { (reqH 9 6).head with segs := [(0, 4200)] } = true ∧ (∀ x ∈ tenS.sessions, x.sid ≠ 9) ∧ reqReason a (reqH 9 6) = 0 ∧
       reqReason a (reqH 9 7) ≠ 0 ∧ storedReply a 9 0 = none ∧ (portPaused a 0 0 = false)) ∧
    (let s := { tenS with hosts := [(0, { hostA with sid := 9, replies := [(0, some [[1]])] })] }
     storedReply (portState s 0 { frameA with mac := 0xB }) 9 0 = some (0, { hostA with sid := 9, replies := [(0, some [[1]])] }, [[1]])) ∧
    (let s := { tenS with sessions := [sessA 9 6] }
     s.sessions.find? (fun y => y.sid == (reqH 9 6).head.sid) = some (sessA 9 6) ∧ (sessA 9 6).waiting = none ∧ (sessA 9 6).req = reqH 9 6 ∧
       (sessA 9 6).req ≠ { reqH 9 6 with umax := 0x11 }) := by decide +kernel

theorem witness_AttachmentsBeginAndGoOn :
    -- an identity that is new, and one in its hold
    (let s := { tenS with sessions := [sessA 9 6, sessA 10 5], hosts := [(0, { hostA with phase := .hold })] }
     ∀ x ∈ [(9, 6, 15, 1), (10, 5, 14, 0)],
       s.sessions.find? (fun y => y.sid == (sessA x.1 x.2.1).sid) = some (sessA x.1 x.2.1) ∧ (sessA x.1 x.2.1).waiting = none ∧ attachOpen s = true ∧
         msgWellFormed (headAuth x.1) 4691 = true ∧ msgWellFormed (headAuth x.1) 4690 = false ∧ storedReply s x.1 1 = none ∧
         tenantOf s (sessA x.1 x.2.1).req.hkdig = some x.2.2.1 ∧ encRefused s x.2.2.1 (sessA x.1 x.2.1).req = false ∧
         ((slotOf s (sessA x.1 x.2.1).req.hkdig).map (fun p => p.2.phase)).getD .hold = .hold ∧ waitsBefore s (sessA x.1 x.2.1) = false ∧
         slotFor s (sessA x.1 x.2.1).req.hkdig = some x.2.2.2 ∧ drydownRuns s x.2.2.1 = false) ∧
    (hS.host? 0 = some hostA ∧ hostA.linked = true ∧ hostA.rekey = none ∧ frameS.sec.isSome = true ∧ msgWellFormed (headA 0) 0 = true ∧ (headA 0).sid = hostA.sid) ∧
    (portUp hS 0 = true ∧ 0x7E ∉ attachTypes) ∧
    (let s := { hS with hosts := [(15, { hostA with phase := .attached })], ctxs := [] }
     s.hosts.find? (fun p => p.2.sid == 4 && p.2.phase == .attached) = some (15, { hostA with phase := .attached }) ∧ ctxsOf s 15 = []) ∧
    (∀ p ∈ hS.hosts, p.2.sid ≠ 5) := by decide +kernel

/-- A host that works on a REKEY of its own, or on one of the module's. -/
def hostK (started : Bool) : HostRec := { hostA with rekey := some { started := started, req := [], draw := 0, fixed := some (7, keysA) } }

theorem witness_AttachmentsBeginAndGoOn_rekey :
    ∀ p ∈ [(RekeyMsg.req 1 1 0x10 1 0 0 [], hostA), (.auth true 0, hostK false), (.ack 0 0, hostK true)],
      MessageTaken (worldP p.2) 0 p.2 (headA (rekeyLen p.1)) (rekeyLen p.1) frameS false := by
  have h : ∀ p ∈ [(RekeyMsg.req 1 1 0x10 1 0 0 [], hostA), (.auth true 0, hostK false), (.ack 0 0, hostK true)],
      messageB (worldP p.2) 0 p.2 (headA (rekeyLen p.1)) (rekeyLen p.1) frameS false = true := by decide +kernel
  exact fun p hp => message_of (h p hp)

def regM (n rsv : Nat) (wins : List Window) : RegisterMsg :=
  { evt := true, rsv := rsv, hqpn := n, hpsn := 1, swapVa := 0, swapLen := 4096, swapKey := 3, wins := wins }

theorem witness_RegistrationAndContextsComplete :
    (∀ ph ∈ [HostPhase.attached, .registered], let h : HostRec := { hostA with phase := ph }
     let s := { hS with hosts := [(0, h)], ctxs := [] }
     s.host? 0 = some h ∧ (h.phase = .attached ∨ h.phase = .registered) ∧ ctxsOf s 0 = []) ∧
    ((regM 7 1 []).rsv ≠ 0 ∧ (regM 7 0 []).rsv = 0 ∧ regOk (regM 7 0 [{ index := 15, va := 0, len := 1, rkey := 3 }]) = true ∧
     regOk (regM 7 0 [{ index := 16, va := 0, len := 1, rkey := 3 }]) = false ∧ regOk (regM 7 0 [{ index := 0, va := 0, len := 0, rkey := 3 }]) = false ∧
     regOk { regM 7 0 [] with swapLen := 4095 } = false) ∧
    -- the context creation: form, quota, the lowest free number
    (let h : HostRec := { hostA with tenant := 15 }
     let s := { tenS with hosts := [(0, h)] }
     s.host? 0 = some h ∧ h.phase = .registered ∧ quotaRefused s h.tenant = false ∧ NMap.lowestFree s.ctxs 0 256 = some 0 ∧
       quotaRefused s 0 = true) ∧
    (hostA.linked = true ∧ hS.ctx? 1 = some hC ∧ hC.slot = 0 ∧ hC.drydown = false ∧ hS.ctx? 2 = none) ∧
    (let s := { hS with ctxs := [(1, { hC with slot := 3 })] }
     s.ctx? 1 = some { hC with slot := 3 } ∧ ({ hC with slot := 3 } : Ctx).slot ≠ 0) := by decide +kernel

/-- The context in a Drydown, its unit stopped. -/
def dryC : Ctx := { hC with drydown := true, active := false, epoch := none, ctxDone := some 3 }
def dryS (c : Ctx) : State := { hS with ctxs := [(1, c)], units := [] }

theorem witness_HostsAndContextsAreReleased :
    (∀ ph ∈ [HostPhase.attached, .registered, .hold, .detaching false, .detached], let h : HostRec := { hostA with phase := ph }
     ({ hS with hosts := [(0, h)] } : State).host? 0 = some h ∧ ctxsOf { hS with hosts := [(0, h)], ctxs := [] } 0 = [] ∧ 1 < 2) ∧
    (∀ done ∈ [some 3, none], let c := { dryC with ctxDone := done }
     (dryS c).ctx? 1 = some c ∧ c.drydown = true ∧ quiet (dryS c) 1 = true ∧ Memory.wf (dryS c).mem = true ∧
       (2, { phys := dataPhys, ro := false, moveTo := none : PageEnt }) ∈ c.pages ∧ pageOf dataPhys = some (false, 0, 10) ∧
       0 < (dryS c).near.length ∧ 0 < (dryS c).far.length ∧ c.slot = 0 ∧ hostA.linked = true) ∧
    (∀ h, ((releaseCtx (dryS dryC) 1 dryC).logRec 0x2D (coordDie dryC) 7 0 1 0 (stepOf dryC) 0 0xFF 0).host? dryC.slot = some h → h.linked = true) := by
  refine ⟨by decide +kernel, by decide +kernel, ?_⟩
  intro h hh
  have : ((releaseCtx (dryS dryC) 1 dryC).logRec 0x2D (coordDie dryC) 7 0 1 0 (stepOf dryC) 0 0xFF 0).hosts = (releaseCtx (dryS dryC) 1 dryC).hosts := rfl
  simp only [State.host?, this] at hh
  have h2 : (NMap.get? (releaseCtx (dryS dryC) 1 dryC).hosts dryC.slot).all (fun h => h.linked) = true := by decide +kernel
  rw [hh] at h2
  simpa using h2

end Sys2Proof.Tests
end

