-- ==== Sys2Proof/Tests/WitnessIssue.lean ====
section
/-!
SUPPORT. For each statement about instructions, small states and operands that meet the hypotheses of its clauses, at the ends of their ranges.
-/

namespace Sys2Proof.Tests

set_option Elab.async false

open Sys2Proof.Machine

abbrev uC : UnitId := unitA .cluster
abbrev rC : Run := runA .cluster 1
abbrev cC : Ctx := ctxA .cluster 1

/-- A word on the cluster with registers filled. -/
def wS (w : InstrWord) (S : List Nat) : State := worldT .cluster w [] S
def rS (S : List Nat) : Run := runT .cluster [] S

theorem witness_ChecksComeBeforeThePredicate :
    -- predicate P1 is false at the start of a task
    (let w := word 0 6 [(1, 12), (0xC, 41)]
     AtPc (world .cluster w []) uC rC cC w clCTRL 6 ∧ decide (fSUB w ≤ 0xC) = true ∧ predicate rC w = false) ∧
    (let w := word 0 6 [(1, 12), (0xD, 41)]
     AtPc (world .cluster w []) uC rC cC w clCTRL 6 ∧ decide (fSUB w ≤ 0xC) = false) ∧
    -- class 10, an operation above the last, and version 1
    (∀ p ∈ [(10, 0, 0), (0, 0x11, 0), (0, 0, 1)],
      let w := word p.1 p.2.1 [(p.2.2, 124)]
      let s := world .cluster w []
      s.run? uC = some rC ∧ rC.phase = .running ∧ s.ctx? rC.ctx = some cC ∧ pcInside rC = true ∧ fetchWord s rC cC = .ok w ∧
        (9 < wClass w ∨ classAllowed uC.kind (wClass w) = false ∨ opDefined (wClass w) (wOp w) = false ∨ wIver w ≠ 0)) ∧
    -- one word after the program, one before it
    (∀ pc ∈ [progVa + 16, progVa - 16],
      let r := { rC with pc := pc }
      let s := worldOf .cluster r cC [0] []
      s.run? uC = some r ∧ r.phase = .running ∧ s.ctx? r.ctx = some cC ∧ (r.pc < tProg r.desc ∨ tProg r.desc + 16 * tPlen r.desc ≤ r.pc)) := by
  simp only [atPc_iff]; decide +kernel

theorem witness_ScalarRegisterInstructionsComplete :
    ∀ op ∈ [0x00, 0x05, 0x07, 0x0A, 0x0D, 0x0E], ∀ n ∈ [0, 31],
      let w := word 0 op [(n, 16), (n, 21), (n % 16, 31), (n * 2 ^ 59, 60)]
      Issues (world .cluster w []) uC rC cC w clCTRL op := by
  simp only [issues_iff]; decide +kernel

theorem witness_SaluAndScmpComputeTheListedOperation :
    (∀ sub ∈ rangeFrom 0 0xD, let w := word 0 6 [(31, 16), (sub, 41)]
      Issues (world .cluster w []) uC rC cC w clCTRL 0x06 ∧ fSUB w = sub ∧ fSUB w ≤ 0xC) ∧
    (let w := word 0 6 [(0xD, 41)]; AtPc (world .cluster w []) uC rC cC w clCTRL 0x06 ∧ 0xC < fSUB w) ∧
    (∀ sub ∈ rangeFrom 0 9, let w := word 0 8 [(1, 16), (sub, 41)]
      Issues (world .cluster w []) uC rC cC w clCTRL 0x08 ∧ fSUB w = sub ∧ fSD w % 8 ≠ 0) ∧
    (let w := word 0 8 [(1, 16), (9, 41)]; AtPc (world .cluster w []) uC rC cC w clCTRL 0x08 ∧ 0x8 < fSUB w) ∧
    (let w := word 0 8 [(8, 16)]; AtPc (world .cluster w []) uC rC cC w clCTRL 0x08 ∧ fSD w % 8 = 0) := by
  simp only [issues_iff, atPc_iff]; decide +kernel

/-- Two loops, the inner one in its third iteration. -/
def loops2 : List LoopEntry := [⟨progVa, 1, 0, 2⟩, ⟨progVa, 2, 5, 0⟩]

theorem witness_RdsrReadsTheSpecialRegisters :
    (∀ n ∈ rangeFrom 0 8, let w := word 0 9 [(3, 16), (n, 60)]
      let r := { rC with loops := loops2 }
      Issues (worldOf .cluster r cC [w] []) uC r cC w clCTRL 0x09 ∧ fIMM w % 256 = n) ∧
    (({ rC with loops := loops2 } : Run).loops.reverse[0]? = some ⟨progVa, 2, 5, 0⟩) ∧
    (let w := word 0 9 [(8, 60)]; AtPc (world .cluster w []) uC rC cC w clCTRL 0x09 ∧ 7 < fIMM w % 256) := by
  simp only [issues_iff, atPc_iff]; decide +kernel

theorem witness_RegistersHardWiredAndAtStart :
    (31 ≠ 0 ∧ 31 < rC.S.length) ∧ (List.replicate 16 (0 : Word64)).length = 16 := by decide +kernel

theorem witness_LoopsAndBranches :
    (let w := word 0 2 [(1, 60)]
     let r := { rC with loops := loops2 }
     Issues (worldOf .cluster r cC [w] []) uC r cC w clCTRL 0x02) ∧
    -- a loop that fits exactly into the one around it, at depth 3, with counts 0 and 1; then a body one word too long, an empty one, and depth 4
    (∀ n ∈ [0, 1], let w := word 0 3 [(1, 45), (1, 46), (n, 60)]
      let l : LoopEntry := ⟨progVa, 2, 0, 0⟩
      let r := { rC with loops := [l, l, l] }
      Issues (worldOf .cluster r cC [w] []) uC r cC w clCTRL 0x03 ∧ fLEN w ≠ 0 ∧ r.loops.length < 4 ∧
        (∀ l, r.loops.head? = some l → r.pc + 16 + 16 * fLEN w ≤ l.start + 16 * l.len) ∧ (if fIMMSEL w then fIMM w % 2 ^ 32 else 0) = n) ∧
    (let w := word 0 3 [(1, 45), (2, 46)]
     let r := { rC with loops := [⟨progVa, 2, 0, 0⟩] }
     Issues (worldOf .cluster r cC [w] []) uC r cC w clCTRL 0x03 ∧ ¬ (∀ l, r.loops.head? = some l → r.pc + 16 + 16 * fLEN w ≤ l.start + 16 * l.len)) ∧
    (let w := word 0 3 []; Issues (world .cluster w []) uC rC cC w clCTRL 0x03 ∧ fLEN w = 0) ∧
    -- the four ways the PC goes on
    (rC.loops = [] ∧
     (let r := { rC with loops := [⟨progVa, 2, 1, 0⟩] }; r.loops = ⟨progVa, 2, 1, 0⟩ :: [] ∧ r.pc + 16 ≠ progVa + 16 * 2) ∧
     (let r := { rC with loops := [⟨progVa, 1, 1, 0⟩] }; r.loops = ⟨progVa, 1, 1, 0⟩ :: [] ∧ r.pc + 16 = progVa + 16 * 1 ∧ 0 < 1) ∧
     (let r := { rC with loops := [⟨progVa, 1, 0, 0⟩] }; r.loops = ⟨progVa, 1, 0, 0⟩ :: [] ∧ r.pc + 16 = progVa + 16 * 1)) := by
  simp only [issues_iff]; decide +kernel

theorem witness_LoadsOfRegistersAndSlotsComplete :
    (let w := word 0 0xB [(3, 16), (dataVa + 7, 60)]
     Issues (world .cluster w []) uC rC cC w clCTRL 0x0B ∧ isOk (readNat (world .cluster w []) 1 cC dataVa 8) = true) ∧
    (∀ sub ∈ [0, 1], let w := word 0 0x10 [(3, 16), (sub, 41), (dataVa, 60)]
     Issues (world .cluster w []) uC rC cC w clCTRL 0x10 ∧ isOk (readNat (world .cluster w []) 1 cC dataVa 64) = true) ∧
    (let w := word 0 0x0F [(0, 35), (0, 31)]
     let r := runT .cluster [tdOf dataVa 0x40 [1] [1]] []
     Issues (worldOf .cluster r cC [w] []) uC r cC w clCTRL 0x0F ∧ (nth none r.T (fTX w)).isSome = true) := by
  simp only [issues_iff]; decide +kernel

/-- A descriptor of a boundary task. -/
def rBnd : Run := { rC with desc := rC.desc ||| (1 <<< 119) }

theorem witness_WaitsAndEndsOfProgramsComplete :
    (let w := word 0 1 []; Issues (world .cluster w []) uC rC cC w clCTRL 0x01) ∧
    (let w := word 8 3 []; Issues (worldOf .cluster rBnd cC [w] []) uC rBnd cC w clSYNC 0x03 ∧ tBnd rBnd.desc = true) ∧
    (let w := word 8 3 []; Issues (world .cluster w []) uC rC cC w clSYNC 0x03 ∧ tBnd rC.desc = false) ∧
    (let w := word 0 4 [(0xF, 60)]
     Issues (world .cluster w []) uC rC cC w clCTRL 0x04 ∧ rC.moves = [] ∧ rC.pushes = 0 ∧ rC.drains = [] ∧ rC.stagePushes = 0 ∧ rC.attns = []) ∧
    (let w := word 0 4 [(2, 60)]
     let r := { rC with pushes := 1 }
     Issues (worldOf .cluster r cC [w] []) uC r cC w clCTRL 0x04 ∧ fIMM w / 2 % 2 = 1 ∧ r.pushes ≠ 0) ∧
    -- the counter equals the threshold; then it is one above it
    (∀ v ∈ [0, 1], let w := word 8 2 [(dataVa, 60)]
     let s := world .cluster w [(0, [v])]
     Issues s uC rC cC w clSYNC 0x02 ∧ readNat s 1 cC dataVa 8 = .ok v.toNat ∧
       ((BitVec.ofNat 64 v.toNat).toInt ≤ (sreg rC.S (fSA w)).toInt ∨ (sreg rC.S (fSA w)).toInt < (BitVec.ofNat 64 v.toNat).toInt)) := by
  simp only [issues_iff]; decide +kernel

theorem witness_HeldUnitsResume :
    (let r := { rC with phase := .waitGroups 15 }
     (worldOf .cluster r cC [] []).run? uC = some r ∧ r.phase = .waitGroups 15 ∧ r.moves = [] ∧ r.pushes = 0 ∧ r.drains = [] ∧ r.stagePushes = 0 ∧
       r.attns = []) ∧
    (let r := { rC with phase := .waitToken dataVa 0 }
     let s := worldOf .cluster r cC [] []
     s.run? uC = some r ∧ s.ctx? r.ctx = some cC ∧ readNat s r.ctx cC dataVa 8 = .ok 0 ∧ (BitVec.ofNat 64 0).toInt ≤ (0 : Word64).toInt) ∧
    (let r := { rC with phase := .waitPrologue [(dataVa, 0)] }
     let s := worldOf .cluster r cC [] []
     s.run? uC = some r ∧ s.ctx? r.ctx = some cC ∧ readNat s r.ctx cC dataVa 8 = .ok 0) ∧
    (let c := { cC with shadows := [(2, { phys := 11 * 0x200000, copying := true })] }
     let r := { rC with phase := .waitShadow [2] }
     let s := worldOf .cluster r c [] []
     s.ctx? 1 = some c ∧ NMap.get? c.shadows 2 = some { phys := 11 * 0x200000, copying := true } ∧ s.run? uC = some r ∧ r.ctx = 1 ∧
       r.phase = .waitShadow [2]) := by decide +kernel

/-- The page of the data as step state: a write makes its shadow. -/
def cRegion : Ctx := { cC with regions := [(0, { base := dataVa, pages := 1 })] }

/-- The prepared state of a store of eight bytes: its memory in its form, and the bytes' places p, p + 1, … in its context. -/
def stores (x : X State) (va p : Nat) : Bool :=
  match x with
  | .error _ => false
  | .ok s1 => Memory.wf s1.mem && (match s1.ctx? 1 with
    | none => false
    | some c1 => (rangeFrom 0 8).all (fun i => match translate 1 c1 (va + i) true with
      | .ok q => q == p + i
      | .error _ => false))

theorem witness_ScalarStoresCompleteAndKeepOtherBytes :
    -- plain pages
    (∀ p ∈ [(clCTRL, 0xC), (clSYNC, 1)], let w := word p.1 p.2 [(dataVa + 15, 60)]
     let s := world .cluster w []
     Issues s uC rC cC w p.1 p.2 ∧ stores (prepareWrite s 1 (dataVa + 8) 8 false) (dataVa + 8) (dataPhys + 8) = true) ∧
    -- step state: the bytes go to the shadow, the first free page
    (let w := word 0 0xC [(dataVa, 60)]
     let s := worldOf .cluster rC cRegion [w] []
     Issues s uC rC cRegion w clCTRL 0xC ∧ stores (prepareWrite s 1 dataVa 8 false) dataVa (11 * 0x200000) = true) ∧
    (let w := word 8 0 [(3, 16), (dataVa, 60)]
     let s := world .cluster w []
     Issues s uC rC cC w clSYNC 0 ∧ readNat s 1 cC dataVa 8 = .ok 0 ∧ stores (prepareWrite s 1 dataVa 8 true) dataVa (11 * 0x200000) = true) := by
  simp only [issues_iff]; decide +kernel

theorem witness_WritesKeepEveryOtherByte :
    let s := world .cluster 0 []
    let ws : List WItem := [.ok (dataVa, [1, 2]), .ok (dataVa + 100, [3])]
    MemInv s ∧ s.ctx? 1 = some cC ∧ (∀ vp ∈ pagesTouched dataVa 2 ++ pagesTouched (dataVa + 100) 1, stepState cC vp = false) ∧
      (runBytes s 1 ws).2 = none ∧ (TD.parse (tdOf dataVa 0x40 [1] [1])).cmp = 0 := by
  simp only [MemInv]; decide +kernel

end Sys2Proof.Tests
end

