-- ==== Sys2Proof/Tests/WitnessManagement.lean ====
section
/-!
SUPPORT. For each statement about management, firmware, tenancy, recovery, reset, boot, power, clocks and the queue of commands, small states and operands that meet the hypotheses of its clauses.
-/

namespace Sys2Proof.Tests

set_option Elab.async false

open Sys2Proof.Machine

def gS : State := State.reset
def stageS (b : BootStage) : State := { gS with power := { gS.power with boot := b } }

theorem witness_OtherMessagesOfTheManagementPort :
    (gS.colyr.deleting = none ∧ fwRuns gS = true ∧ 0x14 < 0x15) ∧ (stageS .recovery).power.boot = .recovery ∧
      (mctpRuns gS = true ∧ mctpRuns (stageS .recovery) = true) ∧ (0 ≤ 1 ∧ 1 ≤ 254 ∧ 254 ≤ 254 ∧ 254 < 255 ∧ 1 < 2) := by decide +kernel

def sampleA (in0 : Nat) : Samples :=
  { diePower := List.replicate 24 90000, junction := List.replicate 24 in0, nearT := List.replicate 24 60000, farT := List.replicate 24 60000,
    inputMw := 8000000, inputMv := 54000, inputMa := 150000, inletMc := 40000, outletMc := 60000, energy := [(unitA .cluster, 1, 1000)] }

theorem witness_ReadingCommandsAndRegisterWrites :
    (gS.colyr.deleting = none ∧ fwRuns gS = true) ∧
    ((readColyr gS 0x0108).isSome = true ∧ readColyr gS 0x0001 = none ∧ (readColyr gS 0x0110).isSome = true) ∧
    -- a log that has lost its first ten entries, the last of them and the first kept
    (let e : LogEntry := { record := 0, dseq := 1, lcyc := 0, sdie := 24, isl := 7, idx := 0 }
     let s := { gS with colyr := { gS.colyr with log := [e], logNext := 11 } }
     9 < s.colyr.logNext - s.colyr.log.length ∧ s.colyr.logNext - s.colyr.log.length ≤ 10) ∧
    (({ gS with power := { gS.power with lastSample := some (sampleA 60000) } } : State).power.lastSample = some (sampleA 60000) ∧
      gS.power.lastSample = none) ∧
    (15 ≤ 15 ∧ 15 < 16) ∧
    ((4096 ≤ 4096 ∧ 23 ≤ 23 ∧ 2 * pageSize - 4096 + 4096 ≤ 2 * pageSize) ∧ 4096 < 4097 ∧ (23 < 24 ∧ 2 * pageSize < 2 * pageSize - 4096 + 4097)) ∧
    -- a hold period at each end of its range, and a reserved port mode of the last host port
    ((1 ≤ (2 ^ 14 : Nat) / 2 ^ 14 % 2 ^ 10) ∧ (600 * 2 ^ 14 : Nat) / 2 ^ 14 % 2 ^ 10 ≤ 600) ∧
    (7 < 8 ∧ (3 * 2 ^ 14 : Nat) / 2 ^ (2 * 7) % 4 = 3) := by decide +kernel

/-- An image that passes every check: a body of one zero byte, and its digest in the signature block. -/
def goodDigest : Bytes := toBytes 64 (Config.sha3 [0]).toNat
def goodFlash : Memory := imageReset ++ (rangeFrom 32 64).zip goodDigest

theorem goodFlash_form : imgForm goodFlash = true := by decide +kernel
theorem goodFlash_svn : imgSvn goodFlash = 1 ∧ imgBlen goodFlash = 1 := by decide +kernel
/-- Bytes above every listed one read as zero. -/
theorem getBytes_above {m : Memory} {lo : Nat} (h : ∀ c ∈ m, c.1 < lo) (n : Nat) : Memory.getBytes m lo n = List.replicate n 0 := by
  have hg : ∀ {m : Memory} {a : Nat}, (∀ c ∈ m, c.1 < a) → Memory.get m a = 0 := by
    intro m
    induction m with
    | nil => intro _ _; rfl
    | cons c r ih =>
      intro a hc
      have hb : c.1 < a := hc c (by simp)
      have h1 : (c.1 == a) = false := by simp; omega
      have h2 : ¬ a < c.1 := by omega
      simp only [Memory.get, h1, h2, Bool.false_eq_true, if_false]
      exact ih (fun d hd => hc d (by simp [hd]))
  induction n generalizing lo with
  | zero => rfl
  | succ n ih =>
    have := ih (lo := lo + 1) (fun c hc => Nat.lt_succ_of_lt (h c hc))
    simp only [Memory.getBytes, rangeFrom, List.map_cons, List.replicate_succ, List.cons.injEq] at this ⊢
    exact ⟨hg h, this⟩

theorem goodFlash_key : imgVkeyDig goodFlash = Firmware.fresh.anchor :=
  congrArg Config.sha3 (getBytes_above (by
    have h : goodFlash.all (fun c => decide (c.1 < 96)) = true := by decide +kernel
    exact fun c hc => of_decide_eq_true (List.all_eq_true.1 h c hc)) 2592)

theorem get_append : ∀ {pre post : Memory} {a : Nat}, (∀ c ∈ pre, c.1 < a) → Memory.get (pre ++ post) a = Memory.get post a
  | [], _, _, _ => rfl
  | (b, v) :: r, post, a, h => by
    have hb : b < a := h (b, v) (by simp)
    have h1 : (b == a) = false := by simp; omega
    have h2 : ¬ a < b := by omega
    simp only [List.cons_append, Memory.get, h1, h2, Bool.false_eq_true, if_false]
    exact get_append (fun c hc => h c (by simp [hc]))

theorem getBytes_zip : ∀ (l : Bytes) (lo : Nat) (pre : Memory), (∀ c ∈ pre, c.1 < lo) →
    Memory.getBytes (pre ++ (rangeFrom lo l.length).zip l) lo l.length = l
  | [], _, _, _ => rfl
  | v :: r, lo, pre, h => by
    have h0 : Memory.get (pre ++ (rangeFrom lo (r.length + 1)).zip (v :: r)) lo = v := by
      rw [get_append h]; simp [rangeFrom, Memory.get]
    have ih := getBytes_zip r (lo + 1) (pre ++ [(lo, v)]) (fun c hc => by
      rcases List.mem_append.1 hc with hc | hc
      · have := h c hc; omega
      · simp at hc; subst hc; exact Nat.lt_succ_self lo)
    simp only [Memory.getBytes, List.length_cons, rangeFrom, List.map_cons, List.cons.injEq]
    refine ⟨h0, ?_⟩
    simpa [Memory.getBytes, rangeFrom, List.append_assoc] using ih

theorem toBytes_length : ∀ n x, (toBytes n x).length = n
  | 0, _ => rfl
  | n + 1, x => by simp [toBytes, toBytes_length n]

theorem goodFlash_digest : imgBodyDig goodFlash = goodDigest := by
  have h := getBytes_zip goodDigest 32 imageReset (by decide)
  rw [show goodDigest.length = 64 from toBytes_length 64 _] at h
  exact h
theorem goodFlash_body : bodyCheck goodFlash = true := by
  have h : imgDigest goodFlash = goodDigest := by
    simp only [imgDigest, goodFlash_svn.2, goodDigest]
    rw [show Memory.getBytes goodFlash bodyAt 1 = [0] by decide +kernel]
  simp [bodyCheck, goodFlash_svn.2, h, goodFlash_digest]

def fwS (len : Option Nat) (step : Nat) : State := { gS with fw := { gS.fw with updLen := len, updStep := step } }

theorem witness_FirmwareCommandsComplete :
    (∀ x ∈ [fwS none 0, fwS (some 10000) 0, fwS (some 10000) 3], x.colyr.deleting = none ∧ fwRuns x = true) ∧
    (updating (fwS (some 10000) 0) = true ∧ updating (fwS none 3) = true ∧ updating (fwS none 0) = false ∧ (fwS none 0).recSession = none ∧
      (fwS none 0).colyr.debugOpen = false ∧ (1 ≤ bodyAt + 2 ^ 27 ∧ bodyAt + 2 ^ 27 < bodyAt + 2 ^ 27 + 1)) ∧
    ((fwS (some 10000) 0).fw.updLen = some 10000 ∧ fwWriting (fwS (some 10000) 0) = false ∧ ([7] : Bytes) ≠ [] ∧ ([7] : Bytes).length ≤ 4096 ∧
      9999 + ([7] : Bytes).length ≤ 10000 ∧ 10000 < 10000 + ([7] : Bytes).length ∧ imagesWf (fwS (some 10000) 0).fw (fwS (some 10000) 0).recSession = true) ∧
    ((fwS none 0).fw.updLen = none ∧ (fwS none 0).fw.fuses < 1 ∧ 1 ≤ (fwS none 0).fw.runSvn ∧ 0 ≤ (fwS none 0).fw.fuses ∧ (fwS none 0).fw.runSvn < 2) := by
  decide +kernel

/-- A world with a host on the last tenancy entry. -/
def tenantS : State := { world .cluster 0 [] with hosts := [(0, { hostA with tenant := 15 })] }
def entryOf (enc hk : Nat) : TenantBits :=
  BitVec.ofNat 1024 (hk + enc * 2 ^ 513 + 2 * 2 ^ 516 + 2 ^ 518 + 2 ^ 527 + 2 ^ 535 + 2 ^ 550 + 2 ^ 700)

theorem witness_TenancyAndModuleRequestsComplete :
    (tenantS.colyr.deleting = none ∧ fwRuns tenantS = true) ∧
    (entryStatus tenantS 16 (entryClean (entryOf 0 0)) ≠ 0 ∧ entryStatus tenantS 15 (entryClean (entryOf 3 0)) ≠ 0 ∧
      entryStatus tenantS 15 (entryClean (entryOf 0 0)) = 0) ∧
    (entryHost tenantS 0 = none ∧ 0 < tenantS.colyr.tenants.length ∧ entryHost tenantS 15 = some (0, { hostA with tenant := 15 })) ∧
    (teField (entryClean (entryOf 0 1)) 512 0 ≠ teField (tenantBits tenantS 15) 512 0 ∧
      teField (entryClean (entryOf 0 0)) 512 0 = teField (tenantBits tenantS 15) 512 0 ∧ tenantS.colyr.modReq = none) ∧
    (15 < 16 ∧ 15 ≤ 15) ∧
    -- a power cap of 9,300 W, shares for context 1, and a request with no item
    (moduleArrival tenantS [mkItem 0x101 0 9300] = 0 ∧ moduleArrival tenantS [mkItem 0x100 1 0] = 0 ∧ moduleArrival tenantS [] ≠ 0 ∧
      (tenantS.ctx? 1 = some (ctxA .cluster 1) ∧ mkItem 0x100 1 0 ∈ [mkItem 0x100 1 0] ∧ iType (mkItem 0x100 1 0) = 0x100 ∧ iTarget (mkItem 0x100 1 0) = 1)) := by
  decide +kernel

theorem witness_ActingCommandsComplete :
    (gS.colyr.deleting = none ∧ fwRuns gS = true) ∧ 0 ≠ actFWU ∧ (fwWriting (fwS none 0) = false ∧ fwWriting (fwS none 3) = true) ∧
    ((world .cluster 0 []).ctx? 255 = none ∧ (world .cluster 0 []).ctx? 1 = some (ctxA .cluster 1)) ∧
    (hostPresent (world .cluster 0 []) = true ∧ (world .cluster 0 []).ctxs ≠ [] ∧ (1 : BitVec 256) ≠ gS.colyr.nonce) ∧
    (hostPresent gS = false ∧ gS.ctxs = [] ∧ (fwS none 0).fw.sigOk = false) := by decide +kernel

def recS (r : Option RecSession) (len : Option Nat) : State :=
  { stageS .recovery with
    ports := setNth gS.ports 28 { PortRec.fresh with up := true }, recSession := r, fw := { gS.fw with updLen := len } }
def sessR (expect : Nat) (ok : Bool) : RecSession := { port := 28, source := 4, expect := expect, sigOk := ok, image := goodFlash }

theorem witness_RecoveryTakesAnImage :
    recPort (recS none none) 28 = true ∧
    (([7] : Bytes) ≠ [] ∧ ([7] : Bytes).length ≤ 1024 ∧ (recS none none).recSession = none ∧ updating (recS none none) = false ∧ ([7] : Bytes).length < bodyAt) ∧
    (∀ e ∈ [8191, bodyAt + 2 ^ 27 - 1], (recS (some (sessR e true)) none).recSession = some (sessR e true) ∧ (sessR e true).source = 4 ∧
      updating (recS (some (sessR e true)) none) = false ∧ e + ([7] : Bytes).length ≤ bodyAt + 2 ^ 27 ∧ 0 ≠ (sessR e true).expect) ∧
    (updating (recS (some (sessR 0 false)) (some 9)) = true ∧ (sessR 0 false).source ≠ 5 ∧ (sessR 0 true).sigOk = true ∧ (sessR 0 false).sigOk = false ∧
      bodyCheck [] = false) ∧ bodyCheck (sessR 0 true).image = true := by
  refine ⟨?_, ?_, ?_, ?_, goodFlash_body⟩
  · decide +kernel
  · refine ⟨?_, ?_, rfl, ?_, ?_⟩ <;> decide +kernel
  · have h1 : updating (recS none none) = false := by decide +kernel
    exact fun e he => ⟨rfl, rfl, h1, by revert e; decide +kernel, by revert e; decide +kernel⟩
  · decide +kernel

theorem witness_ResetAndPowerEmptyTheModule :
    (Memory.wf gS.mem = true ∧ isSillage 0 = true ∧ isSillage (2 * pageSize - 1) = true ∧ isSillage (2 * pageSize) = false) ∧
    ((stageS .off).power.boot = .off ∧ gS.power.resetLow = false ∧ gS.power.refclk = true) ∧
    (23 < 24 ∧ gS.power.boot ≠ .off ∧ gS.power.boot = .ready ∧ gS.power.hold = false) ∧
    ((stageS .farTrain).power.boot ≠ .off ∧ (stageS .farTrain).power.boot ≠ .ready) ∧
    (∀ b ∈ [true, false], let s := { gS with power := { gS.power with low := true, hold := true, holdLocked := b } }
     s.power.low = true ∧ s.power.holdLocked = b) := by decide +kernel

theorem witness_BootStepsFollowInOrder :
    (∀ b ∈ [BootStage.rom, .rails, .nearTrain, .farTrain, .selfTest], (stageS b).power.hold = false ∧ (stageS b).power.boot = b) ∧
    (23 < 24 ∧ 127 < 128 ∧ 71 < 72 ∧ stackFitted gS.order 23 = true) ∧
    (UnitId.exists_ gS.order ⟨23, .cluster, 15⟩ = true ∧ UnitId.exists_ gS.order ⟨27, .video, 1⟩ = true) := by
  decide +kernel

/-- The good image passes; the same fails with a bad signature, with one body byte changed in nothing but its digest's place, and below the fuses. -/
theorem witness_BootStepsFollowInOrder_image :
    imgCheck gS.fw goodFlash true = 0 ∧ imgCheck gS.fw goodFlash false ≠ 0 ∧ imgCheck { gS.fw with fuses := 2 } goodFlash true ≠ 0 ∧
      imgCheck gS.fw [] true ≠ 0 := by
  have hk : imgVkeyDig goodFlash = gS.fw.anchor := goodFlash_key
  refine ⟨?_, ?_, ?_, by decide +kernel⟩
  · simp [imgCheck, sigCheck, goodFlash_form, goodFlash_svn.1, hk, goodFlash_body, show gS.fw.fuses = 0 from rfl]
  · simp [imgCheck, sigCheck, goodFlash_form, hk]
  · simp [imgCheck, sigCheck, goodFlash_form, goodFlash_svn.1, hk]

theorem witness_PowerLoopsStepTheLevels :
    (fwRuns gS = true ∧ 7 < 8 ∧ gS.power.convLost < 8 ∧ ({ gS with power := { gS.power with convLost := 7 } } : State).power.convLost < 8) ∧
    (let s := { gS with power := { gS.power with lastSample := some (sampleA 60000), thermLevel := List.replicate 24 1 } }
     fwRuns s = true ∧ s.power.lastSample = some (sampleA 60000) ∧ nth 0 s.power.thermLevel 23 ≠ 0 ∧
       coolBelow (heat s.order (sampleA 60000) 23) (nth 0 s.power.thermLevel 23) = true) ∧
    (let s := { gS with power := { gS.power with capLevel := List.replicate 24 3 } }
     23 < 24 ∧ nth 0 s.power.level 23 ≠ demand s.power 23 ∧ nth 0 s.power.level 23 < demand s.power 23 ∧ s.power.level.length = 24) ∧
    (let s := { gS with power := { gS.power with level := List.replicate 24 3 } }
     nth 0 s.power.level 23 ≠ demand s.power 23 ∧ ¬ nth 0 s.power.level 23 < demand s.power 23) ∧ gS.power.boot = .ready := by decide +kernel

theorem witness_ClocksAndPins :
    (gS.power.refclk = true ∧ gS.power.boot ≠ .off ∧ gS.power.resetLow = false) ∧
    (let s := { stageS .inReset with power := { (stageS .inReset).power with refclk := false } }
     s.power.refclk = false ∧ s.power.boot ≠ .off ∧ s.power.resetLow = false) ∧
    (let s := { stageS .inReset with power := { (stageS .inReset).power with resetLow := true } }
     s.power.resetLow = true ∧ s.power.boot = .inReset ∧ s.power.refclk = true) ∧
    (({ gS with colyr := { gS.colyr with debugOpen := true } } : State).colyr.debugOpen = true ∧ gS.colyr.debugOpen = false) := by decide +kernel

/-- A queue with a command at its front, and the step that takes it. -/
def queueS : State := { gS with pending := [.recoveryTimeout, .holdPeriodEnd 15] }

theorem witness_EveryStepKeepsMemoryCanonical : MemInv queueS ∧ ImagesInv queueS ∧ ∃ t, step queueS = .next t :=
  ⟨by simp only [MemInv]; decide +kernel, by simp only [ImagesInv]; decide +kernel, _, rfl⟩

theorem witness_EveryCommandGoesOnAndKeepsTheQueue :
    queueS.pending = .recoveryTimeout :: [.holdPeriodEnd 15] ∧ nextHas (step queueS) (fun t => t.pending == [.holdPeriodEnd 15]) = true := by
  decide +kernel

/-! ### Video -/

/-- A frame record of 128 bytes as eight words. -/
def recordWords (n : Nat) : List InstrWord := (rangeFrom 0 8).map (fun i => BitVec.ofNat 128 (n / 2 ^ (128 * i) % 2 ^ 128))

def videoRun (ext : List Nat) : Run := { runT .video [tdOf dataVa 0x21 ext [1, 1, 2]] [] with phase := .frame }
def videoCtx (dir : Nat) : Ctx := { ctxA .video 1 with streams := [(9, streamA dir)] }

/-- A record with an operation on stream 9, its result at 0x400100, and other fields. -/
def recordA (op : Nat) (fs : List (Nat × Nat)) : Nat := bits ([(op, 0), (9, 4), ((dataVa + 0x100) / 32, 21)] ++ fs)

def videoS (c : Ctx) (ext : List Nat) (rec : Nat) : State := worldOf .video (videoRun ext) c (recordWords rec) []

theorem ok_of_isOk {α : Type} {x : X α} (h : isOk x = true) : ∃ a, x = .ok a := by
  cases x with
  | ok a => exact ⟨a, rfl⟩
  | error e => simp [isOk] at h

theorem witness_VideoFrameTasksComplete_open :
    (∀ op ∈ [1, 4], let s := videoS (ctxA .video 1) [3, 2, 2] (recordA op [])
      let f := frameRecord s (videoRun [3, 2, 2]) (ctxA .video 1)
      s.run? (unitA .video) = some (videoRun [3, 2, 2]) ∧ (videoRun [3, 2, 2]).phase = .frame ∧ s.ctx? 1 = some (ctxA .video 1) ∧ frOp f = op ∧ islandDown s 8 (unitA .video).die (unitA .video).idx = false ∧
        openEngine s = some 0 ∧ isOk (writeRegion s 1 (newStream 0 f)) = true ∧ isOk (taskWrite s 1 (frRes f) (List.replicate 32 0)) = true) ∧
    (let s := { videoS (ctxA .video 1) [3, 2, 2] (recordA 1 []) with excluded := (rangeFrom 0 8).map (fun e => (engineUnit e).key) }
     openEngine s = none) := by decide +kernel

theorem witness_VideoFrameTasksComplete_encode :
    let s := videoS (videoCtx 0) [3, 2, 2] (recordA 2 [(1, 66), (16, 120)])
    let f := frameRecord s (videoRun [3, 2, 2]) (videoCtx 0)
    frOp f = 2 ∧ islandDown s 8 (unitA .video).die (unitA .video).idx = false ∧ NMap.get? (videoCtx 0).streams (frStream f) = some (streamA 0) ∧ isOk (tslot (videoRun [3, 2, 2]).T 0) = true ∧
      (match tslot (videoRun [3, 2, 2]).T 0 with
       | .ok d => isOk (pictureCodes s 1 (videoCtx 0) d (streamA 0) f)
       | .error _ => false) = true ∧ hostPaused s (videoCtx 0).slot = false ∧
      isOk (writeRegion s 1 (streamA 0)) = true ∧ capNeed (streamA 0) = 65542 ∧ feOff f = 0 ∧ hostWindow (videoCtx 0) (feHwin f) =
        some { index := 0, va := 0x10000, len := 0x100000, rkey := 77 } := by decide +kernel

/-- The bitstream of the test picture fits its window, whatever the encoder gives. -/
theorem witness_VideoFrameTasksComplete_encodeFits (b : Bytes) :
    let s := videoS (videoCtx 0) [3, 2, 2] (recordA 2 [(1, 66), (16, 120)])
    let f := frameRecord s (videoRun [3, 2, 2]) (videoCtx 0)
    (∃ w, hostRange (videoCtx 0) (feHwin f) (feOff f) (b.take (capNeed (streamA 0))).length = .ok w) ∧
      ∀ key codes, isOk (writeRegion s 1 (afterPicture (streamA 0) key codes)) = true := by
  intro s f
  obtain ⟨-, -, -, -, -, -, -, h1, h2, h3⟩ := witness_VideoFrameTasksComplete_encode
  have h2' : feOff f = 0 := h2
  have h3' : hostWindow (videoCtx 0) (feHwin f) = some { index := 0, va := 0x10000, len := 0x100000, rkey := 77 } := h3
  have hl := List.length_take_le (capNeed (streamA 0)) b
  refine ⟨⟨{ index := 0, va := 0x10000, len := 0x100000, rkey := 77 }, ?_⟩, fun key codes => rfl⟩
  simp only [hostRange, h2', h3']
  rw [if_pos (by omega)]

/-- A picture with no element has no writes, whatever the decoder gives. -/
theorem decodeStep_empty {t : TD} (ht : tuples t.exts = []) (st : Stream) (f : Nat) (b : Bytes) : (decodeStep t st f b).2.2 = [] := by
  unfold decodeStep
  split
  · rfl
  · split
    · rfl
    · split
      · rfl
      · simp [pictureItems, ht]

theorem witness_VideoFrameTasksComplete_decode :
    let s := videoS (videoCtx 1) [3, 0, 0] (recordA 3 [(dataVa, 72), (16, 120)])
    let r := videoRun [3, 0, 0]
    let f := frameRecord s r (videoCtx 1)
    (frOp f = 3 ∧ islandDown s 8 (unitA .video).die (unitA .video).idx = false ∧ NMap.get? (videoCtx 1).streams (frStream f) = some (streamA 1) ∧ isOk (tslot r.T 0) = true ∧
      isOk (unitBytes s 1 (videoCtx 1) f []) = true) ∧ isOk (writeRegion s 1 (streamA 1)) = true ∧
    (∃ d, tslot r.T 0 = .ok d ∧ ∀ b s1, ∃ s2, runWrites s1 1 d false (decodeStep d (streamA 1) f b).2.2 = (s2, none)) := by
  refine ⟨by decide +kernel, by decide +kernel, ?_⟩
  obtain ⟨d, hd⟩ := ok_of_isOk (x := tslot (videoRun [3, 0, 0]).T 0) (by decide +kernel)
  refine ⟨d, hd, fun b s1 => ⟨_, Prod.ext rfl ?_⟩⟩
  have he : (match tslot (videoRun [3, 0, 0]).T 0 with
    | .ok d => decide (tuples d.exts = [] ∧ d.cmp = 0)
    | .error _ => false) = true := by decide +kernel
  rw [hd] at he
  have he2 := of_decide_eq_true he
  rw [decodeStep_empty he2.1]
  cases d.aliased <;> simp [runWrites, storeAll, destItems, freeItems, he2.2, doWrites, plainWrites, foldE]

end Sys2Proof.Tests
end

