-- ==== Sys2Proof/Tests/WitnessMemory.lean ====
section
/-!
SUPPORT. For each statement about memory events, maintenance, links, Squalls, faults and resets, small states and operands that meet the hypotheses of its clauses.
-/

namespace Sys2Proof.Tests

set_option Elab.async false

open Sys2Proof.Machine

def mS : State := world .cluster 0 []
def cM : Ctx := ctxA .cluster 1
/-- A die whose channel 3 has dead symbols. -/
def deadS (l : List Nat) : State := { mS with near := setNth mS.near 23 { Tier.fresh with dead := [(3, l)] } }

theorem witness_FailedReadsAndDeadSymbols :
    -- the last die, channel and line
    (23 < 24 ∧ 127 < 128 ∧ nearPages * 256 - 1 < nearPages * 256 ∧ 31 < 32 ∧ farPages * 1024 - 1 < farPages * 1024 ∧ stackFitted mS.order 23 = true) ∧
    -- four symbols in error on a channel with no dead one decode and five do not; with two dead ones three do and four do not
    (rsDecodes (NMap.getD (tierOf mS false 23).dead 127 []) [1, 2, 3, 4] = true ∧ rsDecodes (NMap.getD (tierOf mS false 23).dead 127 []) [1, 2, 3, 4, 5] = false ∧
     rsDecodes (dedup (NMap.getD (tierOf mS false 23).dead 127 [])) [1, 2, 3, 4, 5] = false ∧ (NMap.getD (tierOf mS false 23).dead 127 []).length < 3 ∧
     rsDecodes (dedup (NMap.getD (tierOf (deadS [8, 9]) false 23).dead 3 [])) [1, 2, 3] = true ∧
     rsDecodes (dedup (NMap.getD (tierOf (deadS [8, 9]) false 23).dead 3 [])) [1, 2, 3, 4] = false ∧
     (NMap.getD (tierOf (deadS [8, 9]) false 23).dead 3 []).length < 3) ∧
    -- a far word with one nibble in error is corrected, with two it is lost
    (wordCheck (NMap.getD (tierOf mS true 23).dead 31 [] ++ []) = .clean ∧ wordCheck (NMap.getD (tierOf mS true 23).dead 31 [] ++ [5]) = .corrected ∧
     wordCheck (NMap.getD (tierOf mS true 23).dead 31 [] ++ [5, 6]) = .detected) ∧
    (mS.run? (unitA .cluster) = some (runA .cluster 1) ∧ mS.order = .full ∧ mS.corrected = [] ∧
     (let c := { cM with enc := true, pages := [(2, { phys := farBase 0 + dataPhys, ro := false, moveTo := none })] }
      let s := worldOf .cluster (runA .cluster 1) c [0] []
      s.ctx? 1 = some c ∧ c.enc = true ∧ isFar (farBase 0 + dataPhys) = true ∧ c.epoch = some (epochA .cluster 1))) ∧
    (mS.near.length = 24 ∧ 71 < 72 ∧
     (71 ∉ [8, 9] ∧ NMap.getD (tierOf (deadS [8, 9]) false 23).dead 3 [] = [8, 9]) ∧
     NMap.getD (tierOf (deadS [1, 2, 3, 4, 5, 6]) false 23).dead 3 [] = [1, 2, 3, 4, 5, 6] ∧
     71 ∈ NMap.getD (tierOf (deadS [71]) false 23).dead 3 [] ∧ 71 ∉ NMap.getD (tierOf (deadS [8]) false 23).dead 3 []) := by decide +kernel

/-- The data page of the context moves to page 20 of die 0. -/
def cMove (sh : List (Nat × ShadowEnt)) : Ctx :=
  { cM with pages := [(0, { phys := 8 * 0x200000, ro := false, moveTo := none }), (2, { phys := dataPhys, ro := false, moveTo := some (20 * 0x200000) })], shadows := sh }

theorem witness_PagesRetireMoveAndAreScrubbed :
    -- a page no one owns (the first and the last of a near tier), a shadow's, a context's
    (8 < nearPages ∧ nearPages - 1 < nearPages ∧ 8 ∉ (tierOf mS false 1).bad ∧
     anyOwner ((logMemory mS 0x08 false 1 0 127 (physPage false 1 8)).modTier false 1 (fun t => { t with bad := insertNat 8 t.bad }))
       (physPage false 1 8) = none) ∧
    -- a backing page
    (let s := worldOf .cluster (runA .cluster 1) { cM with backing := [31 * 0x200000] } [0] []
     let told := (logMemory s 0x08 false 0 0 127 (physPage false 0 31)).modTier false 0 (fun t => { t with bad := insertNat 31 t.bad })
     anyOwner told (physPage false 0 31) = none ∧ backingOwner told (physPage false 0 31) = some 1) ∧
    (let s := worldOf .cluster (runA .cluster 1) { cM with shadows := [(2, { phys := 30 * 0x200000, copying := false })] } [0] []
     let told := (logMemory s 0x08 false 0 0 127 (physPage false 0 30)).modTier false 0 (fun t => { t with bad := insertNat 30 t.bad })
     pageOwner told (physPage false 0 30) = none ∧ shadowOwner told (physPage false 0 30) = some (1, 2)) ∧
    (let told := (logMemory mS 0x08 false 0 0 127 (physPage false 0 10)).modTier false 0 (fun t => { t with bad := insertNat 10 t.bad })
     pageOwner told (physPage false 0 10) = some (1, 2) ∧
       ((told.ctx? 1).bind (fun c => NMap.get? c.pages 2)).bind (fun e => e.moveTo) = none) ∧
    -- a finished move, with and without a shadow
    (∀ sh ∈ [[], [(2, { phys := 30 * 0x200000, copying := false : ShadowEnt })]],
      let s := worldOf .cluster (runA .cluster 1) (cMove sh) [0] []
      Memory.wf s.mem = true ∧ pageOwner s (physPage false 0 10) = some (1, 2) ∧ s.ctx? 1 = some (cMove sh) ∧
        NMap.get? (cMove sh).pages 2 = some { phys := dataPhys, ro := false, moveTo := some (20 * 0x200000) }) ∧
    (let s := { mS with near := setNth mS.near 5 { Tier.fresh with scrubbing := [8] } }
     (tierOf s false 5).scrubbing.contains 8 = true ∧ Memory.wf s.mem = true) ∧
    (∀ far ∈ [true, false], let s := { mS with near := setNth mS.near 5 { Tier.fresh with evacuating := true }, far := setNth mS.far 5 { Tier.fresh with evacuating := true } }
     (tierOf s far 5).evacuating = true ∧ tierBusy s far 5 = false) := by decide +kernel

theorem witness_MaintenanceStartsQueuesAndEnds :
    -- every activity at its last target
    (∀ p ∈ [(0, 23), (1, 23), (2, 23), (3, 23), (4, 7), (5, 23)],
      p.1 ≠ actFWU ∧ maintKnown p.1 p.2 = true ∧ maintAbsent mS p.1 p.2 = false ∧ maintDeferred mS p.1 p.2 = false ∧
        (∀ r ∈ mS.maintRun ++ mS.maintQueue, r.clash p.1 p.2 = false)) ∧
    -- a conflict with an urgent one, with 31 waiting and with 32
    (let x : Maint := { act := 3, target := 23, urgent := true, paused := false }
     (x ∈ ({ mS with maintRun := [x] } : State).maintRun ++ mS.maintQueue ∧ x.clash 0 23 = true ∧ x.urgent = true) ∧
       (List.replicate 31 x).length < 32 ∧ 32 ≤ (List.replicate 32 x).length) ∧
    (let m : Maint := { act := 0, target := 0, urgent := false, paused := false }
     let s := { mS with maintQueue := [m] }
     s.maintQueue = m :: [] ∧ m.act ≠ actFWU ∧ maintDeferred s m.act m.target = false ∧ s.maintRun = []) ∧
    (∀ act ∈ [0, 1, 2, 3, 4, 5, 6], let m : Maint := { act := act, target := 0, urgent := false, paused := false }
     ({ mS with maintRun := [m] } : State).maintRun.find? (fun m => m.act == act && m.target == 0 && !m.paused) = some m) := by decide +kernel

theorem witness_LinksComeUpReplayAndFail :
    (edgeEnds 45 = some (23, 27) ∧ edgeEnds 0 = some (0, 1) ∧ mS.exclEdges.contains 45 = false ∧ 1023 < 1024) ∧
    -- seven failed replays in a row, and eight
    (NMap.getD ({ mS with edgeFails := [(90, 7)] } : State).edgeFails (45 * 2) 0 < 8 ∧
     8 ≤ NMap.getD ({ mS with edgeFails := [(90, 8)] } : State).edgeFails (45 * 2) 0) ∧
    (hostPortAlive mS (hostPort 28) = true ∧ portPaused mS 0 0 = false ∧ 0 < mS.ports.length) ∧
    (hostPortsRun mS = true ∧ portInMode (takeMode mS (hostPort 28)) 28 = true ∧ portClock mS 28 = true) ∧
    ((portRec mS 0).up = true ∧ hostsOn mS 0 ≠ [] ∧ portUp mS 0 = true) ∧
    (let s := { mS with hosts := [] }; hostsOn s 0 = [] ∧ (portRec s 0).up = true) ∧
    (let s := { mS with colyr := { mS.colyr with ipv4 := [(0, 0x0A000001)], ipv6 := [(0, 1), (1, 2)] } }
     portUp s 0 = true ∧ (0x0A000001 : BitVec 32) ≠ 0 ∧ 0x0A000001 = ipv4Of s 0 ∧ (0x0A000002 : BitVec 32) ≠ ipv4Of s 0 ∧
       (BitVec.ofNat 128 (2 ^ 64 + 2) ≠ 0 ∧ BitVec.ofNat 128 (2 ^ 64 + 2) = ipv6Of s 0)) := by decide +kernel

theorem witness_LinksComeUpReplayAndFail_frame (b : Bool) : PortFrameTaken mS 0 frameA b :=
  { up := by decide +kernel, intact := rfl, room := by decide +kernel, plain := rfl,
    sender := fun slot h hh => by
      rw [show frameA.mac = 0xA from rfl, show mS = worldOf .cluster (runA .cluster 1) (ctxA .cluster 1) [0] [] from rfl, hostA_by_mac] at hh
      cases hh
      exact Or.inr rfl }

def squallA (kind : Nat) : Squall := { kind := kind, src := 3, ctx := 1, att := 0, cause := 1, epoch := 0 }

theorem witness_SquallsActOnArrival :
    (∀ kind ∈ [1, 2, 3, 4], let s := { mS with squalls := [squallA kind] }
      squallA kind ∈ s.squalls ∧ s.ctx? 1 = some cM ∧ cM.epoch = some (epochA .cluster 1) ∧ cM.epochNo = 0 ∧ (epochA .cluster 1).attempt % 16 = 0 ∧
        s.squalls.find? (fun x => (x.kind == kind && x.src == 3 && x.ctx == 1 && x.cause == 1) && !(s.squallSeen.contains (x.src, x.seq))) =
          some (squallA kind)) ∧
    -- a copy of one that has been seen
    (let s := { mS with squalls := [squallA 1], squallSeen := [(3, 0)] }
     ∀ x ∈ s.squalls, (x.src, x.seq) ∈ s.squallSeen) ∧
    (cM.epochNo ≠ 1 ∧ (epochA .cluster 1).attempt % 16 ≠ 15) := by decide +kernel

theorem witness_AbortsStopTasksAndAwaitTheDies :
    (mS.ctx? 1 = some cM ∧ cM.epoch = some (epochA .cluster 1) ∧ (epochA .cluster 1).phase = .open ∧ mS.run? (unitA .cluster) = some (runA .cluster 1) ∧
      (runA .cluster 1).ctx = 1) ∧
    (∀ l ∈ [[0, 3], [3]], let e := { epochA .cluster 1 with phase := .aborting l }
      let c := { cM with epoch := some e }
      let s := worldOf .cluster (runA .cluster 1) c [0] []
      s.ctx? 1 = some c ∧ c.epoch = some e ∧ e.phase = .aborting l ∧ 3 ∈ l ∧ s.resets = [] ∧ decide (l.filter (· != 3) = []) = decide (l = [3])) := by
  decide +kernel

theorem witness_FaultsReportAndWatchesReplayOnce :
    (let s := mS
     s.run? (unitA .cluster) = some (runA .cluster 1) ∧ s.ctx? 1 = some cM ∧ cM.epoch = some (epochA .cluster 1) ∧ cM.faulted = false ∧
       (runA .cluster 1).phase ≠ .stopping ∧ (runA .cluster 1).att = (epochA .cluster 1).attempt ∧ s.power.hold = false ∧ (epochA .cluster 1).expired = [] ∧
       kvWaits s cM (unitA .cluster) (runA .cluster 1) = false) ∧
    (({ cM with faulted := true } : Ctx).faulted = true ∧
     ∃ p ∈ ({ epochA .cluster 1 with expired := [(0, unitA .cluster)] } : Epoch).expired, p.1 = (runA .cluster 1).task) ∧
    -- a task that waits for a dependence which nothing will meet
    (∀ b ∈ [false, true], let e := { epochA .cluster 1 with tasks := [(0, { taskA .cluster 1 with status := .waiting, deps := 1 })], ctxExpired := b }
      let c := { cM with epoch := some e }
      let s := { worldOf .cluster (runA .cluster 1) c [0] [] with units := [] }
      s.ctx? 1 = some c ∧ c.epoch = some e ∧ contextStuck s 1 c e = true ∧ e.ctxExpired = b) := by decide +kernel

theorem witness_UnitsDiesAndIslandsAreReset :
    (∀ k ∈ [UnitKind.cluster, .video], let r := { runA k 1 with phase := .stopping }
      (worldOf k r cM [0] []).run? (unitA k) = some r ∧ r.phase = .stopping) ∧
    (23 < 24 ∧ 15 < 16 ∧ 7 < 8 ∧ 24 ≤ 24 ∧ 27 < 28 ∧ 1 < 2) ∧
    (∃ d ∈ ({ mS with resets := [.dieCompute 5] } : State).resets, resetCovers d 5 = true) ∧
    (∀ d ∈ [ResetDomain.dieCompute 0, .computePart], d ∈ ({ mS with resets := [d] } : State).resets ∧ d ≠ .module ∧ mS.power.hold = false) ∧
    (islandExists mS .nearCtl 23 0 = true ∧ islandExists mS .farCtl 23 0 = true ∧ islandExists mS .router 23 0 = true ∧
      islandExists mS .encEngine 27 0 = true ∧ islandExists mS .ioCtl 24 0 = true ∧ islandExists mS .video 27 1 = true ∧ islandExists mS .hostPort 24 1 = true) := by
  decide +kernel

/-- A first failed restart is counted, and a second one too where the window since the first has not ended (log entry 11 leaves that free). -/
theorem witness_UnitsDiesAndIslandsAreReset_restarts :
    let key := islKey (islandCode .video) 27 1
    NMap.getD (restartFailed mS key).restarts key 0 < 2 ∧
      (Config.freeBool mS.freeIx 9 = false → 2 ≤ NMap.getD (restartFailed { mS with restarts := [(key, 1)] } key).restarts key 0) := by
  refine ⟨?_, fun h => ?_⟩
  · cases hb : Config.freeBool mS.freeIx 9 <;> simp only [restartFailed, hb, if_true, if_false, Bool.false_eq_true] <;> decide +kernel
  · have h' : Config.freeBool ({ mS with restarts := [(islKey (islandCode .video) 27 1, 1)] } : State).freeIx 9 = false := h
    simp only [restartFailed, h', if_false, Bool.false_eq_true]
    decide +kernel

end Sys2Proof.Tests
end

