-- ==== Sys2Proof/Tests/WitnessPaging.lean ====
section
/-!
SUPPORT. For the statements about boundaries and about key-value paging, small states and operands that meet the hypotheses of their clauses.
-/

namespace Sys2Proof.Tests

set_option Elab.async false

open Sys2Proof.Machine

/-! ### A boundary that is ready, in a context whose page 0 is not mapped, so that no scale slot changes -/

def epDone : Epoch := { epochA .cluster 1 with tasks := [(0, { taskA .cluster 1 with status := .done })] }
def cDone : Ctx := { ctxA .cluster 1 with pages := [(2, { phys := dataPhys, ro := false, moveTo := none })], epoch := some epDone }
def doneS : State := worldOf .cluster (runA .cluster 1) cDone [0] []

theorem slot_unmapped (slot : Nat) (h : slot < 4096) : updateSlot 1 doneS slot = doneS := by
  have hc : doneS.ctx? 1 = some cDone := by decide +kernel
  have h1 : scaleSlotVa slot % 2 ^ 48 = 8 * slot := by simp only [scaleSlotVa]; omega
  have h2 : ¬ tabLo ≤ 8 * slot := by simp only [tabLo]; omega
  have h3 : 8 * slot < winLo := by simp only [winLo]; omega
  have h4 : vpageOf (8 * slot) = 0 := by simp only [vpageOf, pageSize]; omega
  have h5 : NMap.get? cDone.pages 0 = none := by decide +kernel
  have h6 : 8 * slot % 2 ^ 48 = 8 * slot := by omega
  have hb : readByte doneS 1 cDone (scaleSlotVa slot) = .error .partition := by
    simp only [readByte, Machine.translate, h1, h2, h3, h4, h5, h6, if_true, if_false]
  simp only [updateSlot, hc, readNat, readBytes, rangeFrom, mapE, hb]

theorem slots_unmapped : ∀ (n lo : Nat), lo + n ≤ 4096 → (rangeFrom lo n).foldl (updateSlot 1) doneS = doneS
  | 0, _, _ => rfl
  | n + 1, lo, h => by
    rw [rangeFrom, List.foldl_cons, slot_unmapped lo (by omega)]
    exact slots_unmapped n (lo + 1) (by omega)

theorem witness_BoundaryCommitsInOrder :
    doneS.ctx? 1 = some cDone ∧ cDone.epoch = some epDone ∧ boundaryReady doneS 1 cDone epDone = true ∧
      commitUnits (updateSlots doneS 1) 1 epDone.openUnits = .ok doneS := by
  refine ⟨by decide +kernel, by decide +kernel, by decide +kernel, ?_⟩
  rw [updateSlots, slots_unmapped 4096 0 (by omega)]
  rfl

/-! ### A sequence of one page -/

/-- A sequence of one page, in its own slots. -/
def qSeq (freeing : List (Word64 × Bool × Nat)) : SeqRec :=
  { root := 0x600000, maxLp := 1, marked := [], swapArea := some (0, 16), pageInWanted := false, freeing := freeing, slots := [0x800020, 0x800000], forged := false }

/-- Slots of 16 bytes; the page set of page 0 in slot 0x800000 in a state. -/
def cSeq (waiting : List (Option UnitId × Nat × Nat)) (freeing : List (Word64 × Bool × Nat)) : Ctx :=
  { ctxA .pipeline 1 with
    pages := (ctxA .pipeline 1).pages ++ [(3, { phys := 11 * 0x200000, ro := false, moveTo := none }), (4, { phys := 12 * 0x200000, ro := false, moveTo := none })]
    seqs := [(5, qSeq freeing)]
    kv := { n := 4, pages := [0x800000], free := [0x800010], waiting := waiting } }
def seqS (c : Ctx) (st : Nat) : State :=
  let s := worldOf .pipeline (runA .pipeline 1) c [0] []
  { s with
    mem := Memory.setBytes (Memory.setBytes s.mem (11 * 0x200000 + 0x40) (toBytes 8 (0x602000 + 2 ^ 48))) (11 * 0x200000 + 0x2000)
      (toBytes 8 (leafEntry 0x800000 st))
    swap := [((1, 5, 0), List.replicate 16 7)] }

theorem witness_SlotsAndPageSetsOfSequences_freeing :
    let q := qSeq [(1, true, 0x602000), (2, false, 0x800020)]
    let old := (q.freeing.filter (fun x => !x.2.1)).map (fun x => x.2.2)
    old = [0x800020] ∧ old.Nodup ∧ q.slots.Nodup ∧ ∀ a ∈ old, a ∈ q.slots := by decide +kernel

theorem witness_SlotsAndPageSetsOfSequences :
    -- no walker; a leaf and a slot wait
    (let f : List (Word64 × Bool × Nat) := [(1, true, 0x602000), (2, false, 0x800020)]
     let s := seqS (cSeq [] f) psResident
     s.ctx? 1 = some (cSeq [] f) ∧ NMap.get? (cSeq [] f).seqs 5 = some (qSeq f) ∧ walkerEpochs s 1 5 = []) ∧
    -- a free slot and a waiting append, then a waiting page-in
    (let u := unitA .pipeline
     let c := cSeq [(some u, 5, 0)] []
     let s := seqS c psAbsent
     s.ctx? 1 = some c ∧ c.kv.free = [0x800010] ∧ c.kv.waiting = [(some u, 5, 0)] ∧
       isOk (allocPage (s.setCtx 1 { c with kv := { c.kv with free := [], waiting := [] } }) 1 5 0 0x800010) = true) ∧
    (let c := cSeq [(none, 5, 0)] []
     (seqS c psSwapped).ctx? 1 = some c ∧ c.kv.free = [0x800010] ∧ c.kv.waiting = [(none, 5, 0)]) ∧
    -- page-out acknowledged, page-in verified
    (∀ st ∈ [psCopying, psFetching], let c := cSeq [] []
      let s := seqS c st
      s.ctx? 1 = some c ∧ NMap.get? c.seqs 5 = some (qSeq []) ∧ unsent s 1 = false ∧ (hostLink s c).isSome = true ∧ spareHeld (qSeq []) 0 = false ∧ 0 < (qSeq []).maxLp ∧
        pageEntry s 1 c (qSeq []) 0 = .ok (0x800000, st) ∧ readBytes s 1 c 0x800000 (2 ^ c.kv.n) = .ok (List.replicate 16 0) ∧
        isOk (seqHeader s 1 c (qSeq [])) = true ∧
        s.swap.find? (fun p => p.1 == (1, 5, 0)) = some ((1, 5, 0), List.replicate 16 7)) := by decide +kernel

end Sys2Proof.Tests
end

