-- ==== Sys2Proof/Tests/WitnessQueues.lean ====
section
/-!
SUPPORT. For each statement about queues, packets, epochs, tasks, boundaries and paging, small states and operands that meet the hypotheses of its clauses.
-/

namespace Sys2Proof.Tests

set_option Elab.async false

open Sys2Proof.Machine

def cQ : Ctx := ctxA .cluster 1
def qS : State := world .cluster 0 []

theorem witness_DoorbellMovesTailOrSetsDberr :
    -- a ring of 16: 16 is the last good TAIL, 17 the first bad one; a TAIL behind the one in force is bad; queue 4 is none
    qS.ctx? 1 = some cQ ∧
    (let x := getSq cQ 3
     ¬ (2 ^ sqLog x < (16 - x.head).toNat ∨ (16 - x.head).toNat < (x.tail - x.head).toNat) ∧ 2 ^ sqLog x < (17 - x.head).toNat) ∧
    (let x := { SubQueue.fresh with tail := 2 }
     (1 - x.head).toNat < (x.tail - x.head).toNat) := by decide +kernel

theorem witness_QueueRegisterWrites :
    (let y := getSq cQ 3
     let on : SubQueue := { y with cfg := y.cfg ||| 1 }
     let v : Word64 := BitVec.ofNat 64 (bits [(1, 0), (3, 1), (4, 3), (0xFF, 8), (5, 24)])
     y.cfg.toNat % 2 = 0 ∧ on.cfg.toNat % 2 = 1 ∧ v.toNat / 2 % 4 = 3 ∧ v.toNat / 2 ^ 3 % 2 ^ 5 = y.cfg.toNat / 2 ^ 3 % 2 ^ 5 ∧
       v.toNat / 2 ^ 24 ≠ y.cfg.toNat / 2 ^ 24) ∧
    (qS.ctx? 1 = some cQ ∧ cQ.heldRecs = [] ∧ cQ.cqHead = cQ.cqTail ∧ ({ cQ with cqTail := 1 } : Ctx).cqHead ≠ 1 ∧
      (64 : Word64).toNat / 2 ^ 21 = cQ.cqCfg.toNat / 2 ^ 21 ∧ (64 : Word64).toNat / 2 ^ 4 % 2 ^ 5 = cQ.cqCfg.toNat / 2 ^ 4 % 2 ^ 5 ∧
      (80 : Word64).toNat / 2 ^ 4 % 2 ^ 5 ≠ cQ.cqCfg.toNat / 2 ^ 4 % 2 ^ 5) := by decide +kernel

theorem witness_CompletionRecordIsWrittenOrHeld :
    qS.ctx? 1 = some cQ ∧ cQ.heldRecs = [] ∧ 2 ^ 192 - 1 < 2 ^ 192 ∧ cQ.drydown = false ∧ hostPaused qS cQ.slot = false ∧
    -- 15 records unread leave room, 16 do not
    qS.host? cQ.slot = some hostA ∧ cqRoom hostA { cQ with cqTail := 15 } = true ∧ (hostWindow cQ (cqHwin cQ)).isSome = true ∧
      (cQ.reg.map (·.evt)).getD false = false ∧ cqRoom hostA { cQ with cqTail := 16 } = false := by decide +kernel

/-- A queue q enabled at the highest class, its ring in the data page, one packet waiting. -/
def cPkt (q : Nat) : Ctx :=
  { cQ with epoch := none, sqs := setNth cQ.sqs q { SubQueue.fresh with cfg := BitVec.ofNat 64 (bits [(1, 0), (4, 3), (dataVa / 256, 24)]), tail := 1 } }

/-- A packet as its first bytes: TYPE, CQE, TID, TAG and COUNT. -/
def pkt (type cqe tid count scope : Nat) : List (Nat × Bytes) :=
  [(0, toBytes 40 (bits [(type, 0), (cqe, 8), (tid, 16), (0x77, 32), (dataVa + 0x400, 64), (count, 192), (0x9000 / 16, 132), (scope, 272)]))]

def pktS (c : Ctx) (data : List (Nat × Bytes)) : State := worldOf .cluster (runA .cluster 1) c [0] data

/-- The packet that a fetch from queue 2 gives, with the context after it. -/
def fetched (c : Ctx) (data : List (Nat × Bytes)) (p : Ctx → Nat → Bool) : Bool :=
  match fetchPacket (pktS c data) 1 2 with
  | some (_, c', .ok n) => p c' n
  | _ => false

theorem witness_PacketsAreChosenTakenOrRefused :
    -- SUBMIT with COUNT 1 and 1,048,576, and out of range
    (fetched (cPkt 2) (pkt 1 0 0 1 0) (fun _ p => pType p == 1 && pCount p == 1) &&
     fetched (cPkt 2) (pkt 1 0 0 1048576 0) (fun _ p => pType p == 1 && pCount p == 1048576) &&
     fetched (cPkt 2) (pkt 1 0 0 0 0) (fun _ p => pType p == 1 && pCount p == 0) &&
     fetched (cPkt 2) (pkt 1 0 0 1048577 0) (fun _ p => pType p == 1 && pCount p == 1048577) &&
     -- TLOAD: free number, bad count, number in use
     fetched (cPkt 2) (pkt 2 1 9 1 0) (fun c p => pType p == 2 && pCount p == 1 && !(NMap.has c.templates (pTid p))) &&
     fetched (cPkt 2) (pkt 2 0 9 0 0) (fun _ p => pType p == 2 && pCount p == 0) &&
     (let c := { cPkt 2 with templates := [(9, { arr := dataVa, count := 1, free := none, live := 0 })] }
      fetched c (pkt 2 0 9 1 0) (fun c p => pType p == 2 && NMap.has c.templates (pTid p)) &&
      -- TFREE and LAUNCH of a template that is loaded, and of one that is not
      fetched c (pkt 3 0 9 0 0) (fun c p => pType p == 3 && (NMap.get? c.templates (pTid p)).any (fun x => x.free.isNone)) &&
      fetched c (pkt 4 0 9 0 0) (fun c p => pType p == 4 && (NMap.get? c.templates (pTid p)).any (fun x => x.free.isNone))) &&
     fetched (cPkt 2) (pkt 3 0 9 0 0) (fun c p => pType p == 3 && (NMap.get? c.templates (pTid p)).isNone) &&
     fetched (cPkt 2) (pkt 4 0 9 0 0) (fun c p => pType p == 4 && (NMap.get? c.templates (pTid p)).isNone) &&
     -- reserved types 0 and 6
     fetched (cPkt 2) (pkt 0 0 0 0 0) (fun _ p => pType p == 0) && fetched (cPkt 2) (pkt 6 0 0 0 0) (fun _ p => decide (5 < pType p))) = true ∧
    (pktS (cPkt 2) (pkt 1 0 0 1 0)).ctx? 1 = some (cPkt 2) := by decide +kernel

theorem witness_TemplatesAndAccordRequests :
    (let c := { cQ with templates := [(9, { arr := dataVa, count := 1, free := some (5, true), live := 0 })] }
     (pktS c []).ctx? 1 = some c ∧ NMap.get? c.templates 9 = some { arr := dataVa, count := 1, free := some (5, true), live := 0 }) ∧
    (fetched (cPkt 2) (pkt 5 0 0 0 0) (fun _ p => pType p == 5 && pCount p == 0) &&
     fetched (cPkt 2) (pkt 5 0 0 257 0) (fun _ p => pType p == 5 && decide (256 < pCount p)) &&
     fetched (cPkt 2) (pkt 5 0 0 256 3) (fun _ p => pType p == 5 && pCount p == 256 && pScope p == 3) &&
     fetched (cPkt 2) (pkt 5 0 0 1 2) (fun _ p => pType p == 5 && pCount p == 1 && pScope p == 2) &&
     fetched (cPkt 2) (pkt 5 0 0 1 1) (fun _ p => pType p == 5 && pCount p == 1 && pScope p == 1) &&
     fetched { cPkt 2 with apend := some { tag := 1, items := [] } } (pkt 5 0 0 1 0) (fun c p => pType p == 5 && pScope p == 0 && c.apend.isSome)) = true ∧
    -- an item list of one item whose form is right: SCALE of slot 5 by code 0x80 is of type 7
    (let item : ItemBits := BitVec.ofNat 256 (bits [(7, 0), (5, 32), (0x80, 64)])
     let c := cPkt 2
     let data := pkt 5 0 0 1 0 ++ [(0x400, toBytes 32 item.toNat)]
     fetched c data (fun c' p => pType p == 5 && pScope p == 0 && c'.apend.isNone &&
       (match fetchPacket (pktS c data) 1 2 with
        | some (s', _, _) => (match packetItems s' 1 c' p with
          | .ok l => l == [item]
          | .error _ => false)
        | none => false)) = true) := by decide +kernel

def launchA : LaunchRec :=
  { tag := 3, cqe := true, q := 0, tid := none, arr := dataVa + 0x1000, count := 2, ptr := 0, carr := dataVa + 0x800, bind := List.replicate 16 0,
    step0 := 7, iter := 0, total := 1 }

theorem witness_IterationsOpenAndTasksAreAdmitted :
    (let c := { cQ with epoch := none, launch := some launchA }
     let s := pktS c []
     s.ctx? 1 = some c ∧ c.canRun = true ∧ launchA.iter < launchA.total ∧ launchBind s 1 c launchA = .ok (List.replicate 16 0) ∧
       isOk (taskWrite s 1 launchA.carr (List.replicate (16 * launchA.count) 0)) = true) ∧
    (∀ home ∈ [0, 23, 31], let e := { epochA .cluster 1 with tasks := [], next := 0, count := 1 }
      let c := { cQ with epoch := some e }
      let d : BitVec 1024 := descA .cluster 1 ^^^ (31 <<< 256) ||| BitVec.ofNat 1024 (home <<< 256)
      let s := pktS c [(0x1000, toBytes 128 d.toNat)]
      s.ctx? 1 = some c ∧ c.canRun = true ∧ e.phase = .open ∧ e.next < e.count ∧ readNat s 1 c (e.arr + 128 * e.next) 128 = .ok d.toNat ∧
        readNat s 1 c (e.carr + 16 * e.next) 16 = .ok 0 ∧ tBnd d = false ∧ tHome d = home ∧ (slotDie s c (tHome d)).isSome = true) := by
  decide +kernel

theorem witness_TaskCompletionFreesTheUnit :
    ∀ ph ∈ [Phase.halting, .handing], let r := { runA .cluster 1 with phase := ph }
    let c := cQ
    let e := epochA .cluster 1
    let x := taskA .cluster 1
    let s := worldOf .cluster r c [0] []
    let s1 := (s.setCtx 1 { c with epoch := some { e with tasks := NMap.set e.tasks r.task (x.finish r) } }).freeUnit (unitA .cluster)
    s.run? (unitA .cluster) = some r ∧ (r.phase = .halting ∨ r.phase = .handing) ∧ groupsDone r 15 = true ∧ writesBitstream s r c = false ∧ s.ctx? r.ctx = some c ∧ c.epoch = some e ∧
      NMap.get? e.tasks r.task = some x ∧ r.att = e.attempt ∧ e.phase = .open ∧
      (match taskWrite s1 1 (e.carr + 16 * r.task) (toBytes 16 (doneRecord r x.demoted)) with
       | .ok s2 => decide (readSucc s2 1 c x.desc = .ok [])
       | .error _ => false) = true := by decide +kernel

/-! ### Dispatch -/

/-- The task is ready, and every unit is free. -/
def readyS : State :=
  let e := { epochA .cluster 1 with tasks := [(0, { taskA .cluster 1 with status := .ready, unit := none })] }
  { pktS { cQ with epoch := some e } [] with units := [] }

theorem witness_DispatchChoosesTaskAndUnit :
    (candidates readyS 0 .cluster 0).length = 1 ∧ candidates readyS 1 .cluster 0 = [] ∧
    (let x := { taskA .cluster 1 with status := .ready, unit := none }
     let e := { epochA .cluster 1 with tasks := [(0, x)] }
     let c := { cQ with epoch := some e }
     readyS.ctx? 1 = some c ∧ NMap.get? e.tasks 0 = some x ∧ c.canRun = true ∧ c.stopped = false ∧ e.phase = .open ∧ x.status = .ready ∧
       tKind x.desc < 3 ∧ readyS.power.tenantHold.contains c.tenant = false ∧ dispatchCheck readyS 1 c x.desc = none ∧
       isOk (readTable readyS 1 c x.desc) = true) := by decide +kernel

/-- The first cluster of a die that dispatches is free. -/
theorem free_cluster (s : State) (d : Nat) (h1 : (s.run? ⟨d, .cluster, 0⟩).isNone = true) (h2 : unitExcluded s ⟨d, .cluster, 0⟩ = false)
    (h3 : UnitId.exists_ s.order ⟨d, .cluster, 0⟩ = true) (ha : s.power.hold = false) (hb : s.resets = []) (hr : s.power.rampStage = Config.rampStageOf d) :
    freeUnitOn s d .cluster [] = some ⟨d, .cluster, 0⟩ := by
  have h4 : dieHeld s d = false := by simp [dieHeld, ha, hb, hr]
  have hu : unitReady s ⟨d, .cluster, 0⟩ = true := by simp [unitReady, h1, h2, h3, h4]
  simp only [freeUnitOn, unitCount, rangeFrom, List.map_cons, List.find?_cons, hu, List.contains_nil, Bool.not_false, Bool.and_self]

/-- The same with the dispatch ramp run as far as a die needs; and with every cluster of die 0 excluded, and the ramp as far as die 1. -/
def rampS : State := { readyS with power := { readyS.power with rampStage := Config.rampStageOf 0 } }
def fullS : State :=
  { readyS with
    excluded := (rangeFrom 0 16).map (fun i => ({ die := 0, kind := .cluster, idx := i } : UnitId).key)
    power := { readyS.power with rampStage := Config.rampStageOf 1 } }

theorem witness_DispatchChoosesTaskAndUnit_unit :
    let x := { taskA .cluster 1 with status := .ready, unit := none }
    let e := { epochA .cluster 1 with tasks := [(0, x)] }
    let c := { cQ with epoch := some e }
    candidates rampS 0 .cluster 0 = [(1, 0, x)] ∧ placeable rampS 0 .cluster 0 (1, 0, x) = true ∧ rampS.ctx? 1 = some c ∧
      NMap.get? e.tasks 0 = some x ∧ dispatchCheck rampS 1 c x.desc = none ∧ pickUnit rampS 0 .cluster 0 (1, 0, x) = some ⟨0, .cluster, 0⟩ ∧
      isOk (readTable rampS 1 c x.desc) = true := by
  intro x e c
  have hc : candidates rampS 0 .cluster 0 = [(1, 0, x)] := by decide +kernel
  have h1 : rampS.ctx? 1 = some c := by decide +kernel
  have ha : avoided e 0 = [] := by decide +kernel
  have hu := free_cluster rampS 0 (by decide +kernel) (by decide +kernel) (by decide) (by decide +kernel) (by decide +kernel) rfl
  refine ⟨hc, ?_, h1, by decide +kernel, by decide +kernel, ?_, by decide +kernel⟩
  · simp only [placeable, h1, ha, c, hu, Option.isSome_some, Bool.true_or, Bool.or_true]
  · simp only [pickUnit, h1, Option.bind_some, ha, c, freeUnitIn, hu]

/-- A video task with a frame record that no operation has, on either engine of an I/O die: it is dispatched there, and faults. -/
def engineS (eng : Nat) : State :=
  let x := { taskA .video 1 with status := .ready, unit := none }
  let c := { ctxA .video 1 with epoch := some { epochA .video 1 with tasks := [(0, x)] }, streams := [(0, { streamA 0 with engine := eng })] }
  { worldOf .video (runA .video 1) c [0] [] with units := [] }

theorem witness_DispatchChoosesTaskAndUnit_engine :
    ∀ eng ∈ [0, 1], ∃ y ∈ candidates (engineS eng) 24 .video eng, placeable (engineS eng) 24 .video eng y = true ∧
      (eng = 1 → candidates (engineS eng) 24 .video 0 = []) := by decide +kernel

theorem witness_DispatchChoosesTaskAndUnit_neighbour :
    let x := { taskA .cluster 1 with status := .ready, unit := none }
    let e := { epochA .cluster 1 with tasks := [(0, x)] }
    let c := { cQ with epoch := some e }
    fullS.ctx? 1 = some c ∧ NMap.get? e.tasks 0 = some x ∧ tKind x.desc < 3 ∧
      (oldest ((candidates fullS x.die .cluster 0).filter (fun y => y.1 == 1 && y.2.2.cls == x.cls))).map (·.2.1) = some 0 ∧
      freeUnitOn fullS x.die .cluster (avoided e 0) = none ∧
      freeUnitIn fullS .cluster (avoided e 0) (neighbours fullS x.die) = some ⟨1, .cluster, 0⟩ ∧
      (∀ y ∈ candidates fullS x.die .cluster 0 ++ candidates fullS 1 .cluster 0, x.cls ≤ y.2.2.cls) ∧
      dispatchCheck fullS 1 c x.desc = none ∧ isOk (readTable fullS 1 c x.desc) = true := by
  intro x e c
  have ha : avoided e 0 = [] := by decide +kernel
  have hn : neighbours fullS x.die = [1, 6] := by decide +kernel
  have hu := free_cluster fullS 1 (by decide +kernel) (by decide +kernel) (by decide) (by decide +kernel) (by decide +kernel) rfl
  refine ⟨by decide +kernel, by decide +kernel, by decide +kernel, by decide +kernel, by decide +kernel, ?_, by decide +kernel, by decide +kernel, by decide +kernel⟩
  simp only [ha, hn, freeUnitIn, hu]

/-! ### Shadows and module requests -/

theorem witness_ShadowsCopyAndReplacePages :
    (MemInv qS ∧ qS.ctx? 1 = some cQ ∧ NMap.get? cQ.pages 2 = some { phys := dataPhys, ro := false, moveTo := none } ∧
      NMap.has cQ.shadows 2 = false ∧ isOk (makeShadow qS 1 2) = true ∧ pageOf dataPhys = some (false, 0, 10)) := by
  simp only [MemInv]; decide +kernel

def itemCap : ItemBits := BitVec.ofNat 256 (bits [(0x101, 0), (5000, 64)])

theorem witness_ModuleBoundaryAppliesAllOrNone :
    (∀ cap ∈ [5000, 0], let l : List ItemBits := [BitVec.ofNat 256 (bits [(0x101, 0), (cap, 64)])]
      ∀ entry ∈ [none, some (3, tenantReset)],
      let s := { qS with colyr := { qS.colyr with modReq := some (7, l, entry) } }
      let free : State := { s with
        colyr := { s.colyr with modReq := none }, ctxs := s.ctxs.map (fun p => (p.1, { p.2 with stopped := false })) }
      s.colyr.modReq = some (7, l, entry) ∧ moduleReady s = true ∧ decide (moduleCheck free l = 0) = decide (cap = 5000) ∧
        l.all (fun i => iType i == 0x101) = true) := by decide +kernel

end Sys2Proof.Tests
end

