-- ==== Sys2Proof/Tests/WitnessTables.lean ====
section
/-!
SUPPORT. For the statement about LOOKUP, LOAD and CVT, small states and operands that meet the hypotheses of its clauses.
-/

namespace Sys2Proof.Tests

set_option Elab.async false

open Sys2Proof.Machine

def tabT : List (BitVec 512) :=
  [tdOf dataVa 0x30 [2] [1], tdOf (dataVa + 64) 0x40 [2] [1], tdOf (dataVa + 128) 0x40 [2] [1], tdOf (dataVa + 0x2000) 0x21 [7232] [1],
   tdOf dataVa 0x22 [2] [1] ||| (1 <<< 424) ||| (0x1000 <<< 438)]
def rT : Run := runT .cluster tabT [0]
def tabS (w : InstrWord) : State := worldT .cluster w tabT [0]
def tT (i : Nat) : TD := TD.parse (nth 0 tabT i)

theorem witness_TableAndConversionInstructionsComplete :
    let c := ctxA .cluster 1
    -- LOOKUP with and without a multiplier
    (∀ m ∈ [0, 1], let w := word clTAB 0 [(0, 16), (1, 22), (m, 33), (2, 34)]
      Issues (tabS w) (unitA .cluster) rT c w clTAB 0x00 ∧ tslot rT.T (tbTD w) = .ok (tT 0) ∧ tslot rT.T (tbTS w) = .ok (tT 1) ∧
        (decide (tbMULEN w = true) = (m == 1)) ∧ tslot rT.T (tbTS2 w) = .ok (tT 2) ∧ useSource (tabS w) 1 c (tT 2) = .ok () ∧
        rmOk (tbRM w) (tT 0).fmt = true ∧ (tT 0).cmp = 0 ∧ useSource (tabS w) 1 c (tT 1) = .ok () ∧
        (runWrites (tabS w) 1 (tT 0) false (itemWrites ((tuples (tT 0).exts).map (lookupElem (tabS w) 1 c rT w (tT 0) (tT 1)
          (if m = 0 then none else some (tT 2)))))).2 = none) ∧
    -- LOAD of the active bank
    (let w := word clTAB 1 [(3, 22), (7, 28)]
     Issues (tabS w) (unitA .cluster) rT c w clTAB 0x01 ∧ tslot rT.T (tbTS w) = .ok (tT 3) ∧ loadSourceOk (tT 3) = true ∧
       nth 0 rT.banks (tbSLOT w) = tbBANK w) ∧
    -- CVT: no scale, the slot's scale with AMAX, block scales
    (∀ scl ∈ [0, 1, 2], let w := word clCVT 0 [(if scl = 2 then 4 else 0, 16), (1, 22), (scl, 32), (if scl = 1 then 1 else 0, 30)]
      let d := if scl = 2 then tT 4 else tT 0
      let s := tabS w
      Issues s (unitA .cluster) rT c w clCVT 0x00 ∧ cSCL w = scl ∧ tslot rT.T (cTD w) = .ok d ∧ vecSource s 1 c rT.T (cTS w) = .ok (tT 1) ∧
        rmOk (cRM w) d.fmt = true ∧ d.cmp = 0 ∧ (scl = 2 → d.sblk = 1) ∧ d.count ≠ 0 ∧ cAMAX w = (scl == 1) ∧
        isOk (readScode s 1 c (cSLOT w)) = true ∧
        (match mapE (cvtIn s 1 c (tT 1)) (tuples d.exts) with
         | .ok l =>
           let out := if cSCL w = 2 then l.flatMap (cvtBlock d (RM.ofCode (cRM w)) (cMARG w) l) else l.map (cvtOut d (RM.ofCode (cRM w)) 0)
           let x := runWrites s 1 d false (out.map (fun p => .ok p.1))
           decide (x.2 = none) && (scl != 1 || isOk (gatherAmax x.1 1 (cSLOT w) (amaxOf (l.map (·.wide))) d.fmt))
         | .error _ => false) = true) := by
  simp only [issues_iff]; decide +kernel

/-! ### LOAD into the inactive bank: an image with IVERS 1 and zeros -/

theorem mapE_ok {α β : Type} {f : α → X β} {g : α → β} : ∀ {l : List α}, (∀ a ∈ l, f a = .ok (g a)) → mapE f l = .ok (l.map g)
  | [], _ => rfl
  | a :: r, h => by
    rw [mapE, h a (by simp), mapE_ok (l := r) (fun b hb => h b (by simp [hb]))]
    rfl

theorem mem_rangeFrom : ∀ {n lo a : Nat}, a ∈ rangeFrom lo n → lo ≤ a ∧ a < lo + n
  | 0, _, _, h => by simp [rangeFrom] at h
  | n + 1, lo, a, h => by
    simp only [rangeFrom, List.mem_cons] at h
    rcases h with rfl | h
    · omega
    · have := mem_rangeFrom h; omega

theorem nth_map_rangeFrom (g : Nat → Byte) : ∀ (n lo o : Nat), nth 0 ((rangeFrom lo n).map g) o = if o < n then g (lo + o) else 0
  | 0, _, _ => by simp [rangeFrom, nth]
  | n + 1, lo, 0 => by simp [rangeFrom, nth]
  | n + 1, lo, o + 1 => by
    rw [rangeFrom, List.map_cons, nth, nth_map_rangeFrom g n (lo + 1) o]
    simp only [Nat.add_lt_add_iff_right, Nat.add_assoc, Nat.add_comm 1 o]

theorem putBytes_ok {cn : Nat} {c : Ctx} : ∀ (bs : Bytes) (s : State) (va : Nat), s.ctx? cn = some c →
    (∀ i < bs.length, isOk (translate cn c (va + i) true) = true) → ∃ t, putBytes s cn va bs = .ok t
  | [], s, _, _, _ => ⟨s, rfl⟩
  | v :: r, s, va, hc, h => by
    have h0 := h 0 (by simp)
    obtain ⟨t, ht⟩ : ∃ t, putByte s cn va v = .ok t := by
      rw [Nat.add_zero] at h0
      cases hx : translate cn c va true with
      | error e => simp [hx, isOk] at h0
      | ok p =>
        simp only [putByte, hc, hx]
        split
        · split <;> exact ⟨_, rfl⟩
        · exact ⟨_, rfl⟩
    have hc' : t.ctx? cn = some c := by rw [(putByte_frame ht hc).1]; exact hc
    obtain ⟨t2, h2⟩ := putBytes_ok r t (va + 1) hc' (fun i hi => by
      have := h (i + 1) (by simp; omega)
      rwa [show va + (i + 1) = va + 1 + i by omega] at this)
    exact ⟨t2, by simp only [putBytes, ht, h2]⟩

def loadW : InstrWord := word clTAB 1 [(3, 22), (7, 28), (1, 40)]
/-- Page 0 has no shadow yet, or has one whose copy is complete. -/
def cLoad (copied : Bool) : Ctx :=
  { ctxA .cluster 1 with shadows := if copied then [(0, { phys := 11 * 0x200000, copying := false })] else [] }
def loadS (copied : Bool) : State := worldOf .cluster rT (cLoad copied) [loadW] [(0x2000, [1])]
def imgBytes (s : State) : Bytes := (rangeFrom (dataVa + 0x2000) 7232).map (fun a => Memory.get s.mem (dataPhys + a % pageSize))

theorem page2 (b : Bool) (a : Nat) (lo : dataVa + 0x2000 ≤ a) (hi : a < dataVa + 0x2000 + 7232) :
    readByte (loadS b) 1 (cLoad b) a = .ok (Memory.get (loadS b).mem (dataPhys + a % pageSize)) := by
  have hv : dataVa = 4194304 := by decide
  rw [hv] at lo hi
  have h1 : a % 2 ^ 48 = a := by omega
  have h2 : ¬ tabLo ≤ a := by simp only [tabLo]; omega
  have h3 : a < winLo := by simp only [winLo]; omega
  have h4 : vpageOf a = 2 := by simp only [vpageOf, pageSize]; omega
  have h5 : NMap.get? (cLoad b).pages 2 = some { phys := dataPhys, ro := false, moveTo := none } := by revert b; decide +kernel
  have h6 : NMap.get? (cLoad b).shadows 2 = none := by revert b; decide +kernel
  simp only [readByte, Machine.translate, h1, h2, h3, h4, h5, h6, if_true, if_false, Bool.false_and, Bool.false_eq_true]

theorem imgBytes_length (s : State) : (imgBytes s).length = 7232 := by
  have : ∀ n lo, (rangeFrom lo n).length = n := fun n => by induction n with
    | zero => intro lo; rfl
    | succ n ih => intro lo; simp [rangeFrom, ih]
  simp only [imgBytes, List.length_map, this]

/-- The state in which the table bank is loading. -/
def loadingS (copied : Bool) : State :=
  setBankState (loadS copied) 1 7 1 { (nth .dflt (cLoad copied).tabs 7).bank 1 with state := .loading }

/-- The prepared state answers the context, its page 0 writable. -/
def ready (x : X State) : Bool :=
  match x with
  | .ok s1 => (match s1.ctx? 1 with
    | some c1 => (match NMap.get? c1.pages 0 with
      | some e => !e.ro
      | none => false)
    | none => false)
  | .error _ => false

def itemsOf (bs : Bytes) : List WItem := [.ok (bankVa 7 1, bs)]

theorem prepared (b : Bool) (bs : Bytes) (hl : bs.length = 7232) :
    prepareAll (loadingS b) 1 (itemsOf bs) = prepareWrite (loadingS b) 1 (bankVa 7 1) 7232 false := by
  simp only [prepareAll, itemsOf, foldE, hl]
  cases prepareWrite (loadingS b) 1 (bankVa 7 1) 7232 false <;> rfl

/-- Any bytes of that length. -/
def zeros : Bytes := List.replicate 7232 0

theorem waits (b : Bool) (bs : Bytes) (hl : bs.length = 7232) :
    ∃ s1, prepareAll (loadingS b) 1 (itemsOf bs) = .ok s1 ∧ (b = false → waitPages s1 1 (itemsOf bs) ≠ []) ∧ (b = true → waitPages s1 1 (itemsOf bs) = []) := by
  rw [prepared b bs hl]
  have key : (match prepareWrite (loadingS b) 1 (bankVa 7 1) 7232 false with
    | .ok s1 => (waitPages s1 1 (itemsOf zeros)).isEmpty == b
    | .error _ => false) = true := by revert b; decide +kernel
  have same : ∀ s1, waitPages s1 1 (itemsOf bs) = waitPages s1 1 (itemsOf zeros) := by
    intro s1
    simp only [waitPages, itemsOf, List.flatMap_cons, List.flatMap_nil, hl, show zeros.length = 7232 from List.length_replicate]
  cases hp : prepareWrite (loadingS b) 1 (bankVa 7 1) 7232 false with
  | error e => simp [hp] at key
  | ok s1 =>
    simp only [hp, beq_iff_eq] at key
    refine ⟨s1, rfl, ?_, ?_⟩ <;> intro hb <;> rw [same s1] <;> subst hb <;> simpa using key

theorem load_writes (b : Bool) (bs : Bytes) (hl : bs.length = 7232) : ∃ s1 s', prepareAll (loadingS b) 1 (itemsOf bs) = .ok s1 ∧
    (b = true → runBytes s1 1 (itemsOf bs) = (s', none)) := by
  obtain ⟨s1, h1, -, -⟩ := waits b bs hl
  cases b with
  | false => exact ⟨s1, s1, h1, by simp⟩
  | true =>
    have hs : prepareWrite (loadingS true) 1 (bankVa 7 1) 7232 false = .ok s1 := by rw [← prepared true bs hl]; exact h1
    have hr : (match prepareWrite (loadingS true) 1 (bankVa 7 1) 7232 false with
      | .ok s1 => ready (prepareWrite s1 1 (bankVa 7 1) 7232 false)
      | .error _ => false) = true := by decide +kernel
    simp only [hs] at hr
    cases hp : prepareWrite s1 1 (bankVa 7 1) 7232 false with
    | error e => simp [hp, ready] at hr
    | ok s2 =>
      cases hc : s2.ctx? 1 with
      | none => simp [hp, ready, hc] at hr
      | some c1 =>
        cases he : NMap.get? c1.pages 0 with
        | none => simp [hp, ready, hc, he] at hr
        | some e =>
          have ho : e.ro = false := by simpa [hp, ready, hc, he] using hr
          obtain ⟨t, ht⟩ := putBytes_ok bs s2 (bankVa 7 1) hc (fun i hi => by
            rw [hl] at hi
            have hb : bankVa 7 1 = 0x26000 := by decide
            have h1 : (bankVa 7 1 + i) % 2 ^ 48 = bankVa 7 1 + i := Nat.mod_eq_of_lt (by omega)
            have h3 : bankVa 7 1 + i < winLo := by simp only [winLo]; omega
            have h4 : vpageOf (bankVa 7 1 + i) = 0 := by simp only [vpageOf, pageSize]; omega
            simp only [Machine.translate, h1, h3, h4, he, ho, if_true, Bool.and_false, Bool.false_eq_true, if_false]
            cases NMap.get? c1.shadows 0 <;> rfl)
          refine ⟨s1, ?_, h1, fun _ => ?_⟩
          rotate_left
          · simp only [runBytes, doWrites, plainWrites, itemsOf, foldE, taskWrite, hl, hp, ht]
            rfl

theorem witness_TableAndConversionInstructionsComplete_load :
    ∀ b : Bool, let c := cLoad b
      let w := loadW
      let s := loadS b
      let old := (nth .dflt c.tabs (tbSLOT w)).bank (tbBANK w)
      let ws : List WItem := [.ok (bankVa (tbSLOT w) (tbBANK w), imgBytes s)]
      Issues s (unitA .cluster) rT c w clTAB 0x01 ∧ tslot rT.T (tbTS w) = .ok (tT 3) ∧ loadSourceOk (tT 3) = true ∧
        nth 0 rT.banks (tbSLOT w) ≠ tbBANK w ∧ readBytes s 1 c (tT 3).addr 7232 = .ok (imgBytes s) ∧ imageOk (fun o => nth 0 (imgBytes s) o) = true ∧
        loadRaces s c rT old = false ∧
        (∃ s1, prepareAll (setBankState s 1 (tbSLOT w) (tbBANK w) { old with state := .loading }) 1 ws = .ok s1 ∧
          (b = false → waitPages s1 1 ws ≠ []) ∧ (b = true → waitPages s1 1 ws = [])) ∧
        ∃ s1 s', prepareAll (setBankState s 1 (tbSLOT w) (tbBANK w) { old with state := .loading }) 1 ws = .ok s1 ∧
          (b = true → runBytes s1 1 ws = (s', none)) := by
  intro b
  have h1 : tbSLOT loadW = 7 := by decide +kernel
  have h2 : tbBANK loadW = 1 := by decide +kernel
  have ha : (tT 3).addr = dataVa + 0x2000 := by decide +kernel
  refine ⟨issues_iff.2 (by revert b; decide +kernel), by decide +kernel, by decide +kernel, by decide +kernel, ?_, ?_, by revert b; decide +kernel, ?_, ?_⟩
  · rw [ha]
    exact mapE_ok (fun a h => by have := mem_rangeFrom h; exact page2 b a this.1 this.2)
  · have : (fun o => nth 0 (imgBytes (loadS b)) o) =
        (fun o => if o < 7232 then Memory.get (loadS b).mem (dataPhys + (dataVa + 0x2000 + o) % pageSize) else 0) := by
      funext o
      exact nth_map_rangeFrom (fun a => Memory.get (loadS b).mem (dataPhys + a % pageSize)) 7232 (dataVa + 0x2000) o
    rw [this]
    clear this
    revert b; decide +kernel
  · simp only [h1, h2]
    exact waits b _ (imgBytes_length _)
  · simp only [h1, h2]
    exact load_writes b _ (imgBytes_length _)

end Sys2Proof.Tests
end

/-!
PROOFS. Fields of a word, read and replaced.
-/

namespace Sys2Proof.Machine

theorem field_eq_div_mod (x hi lo : Nat) : field x hi lo = x / 2 ^ lo % 2 ^ (hi + 1 - lo) := by
  rw [field, Nat.shiftRight_eq_div_pow]

theorem field_lt (x hi lo : Nat) : field x hi lo < 2 ^ (hi + 1 - lo) := Nat.mod_lt _ (Nat.two_pow_pos _)

theorem testBit_field (x hi lo i : Nat) : (field x hi lo).testBit i = (decide (i < hi + 1 - lo) && x.testBit (lo + i)) := by
  rw [field, Nat.testBit_mod_two_pow, Nat.testBit_shiftRight]

/-- A replaced field, seen as the bits above it, its new bits and the bits below it. -/
theorem setField_eq_parts (x hi lo v : Nat) : setField x hi lo v =
    2 ^ lo * (2 ^ (hi + 1 - lo) * (x / 2 ^ lo / 2 ^ (hi + 1 - lo)) + v % 2 ^ (hi + 1 - lo)) + x % 2 ^ lo := by
  have hx : 2 ^ lo * (2 ^ (hi + 1 - lo) * (x / 2 ^ lo / 2 ^ (hi + 1 - lo)) + field x hi lo) + x % 2 ^ lo = x := by
    rw [field_eq_div_mod, Nat.div_add_mod, Nat.div_add_mod]
  rw [Nat.mul_add] at hx ⊢
  rw [setField, Nat.mul_comm (field x hi lo), Nat.mul_comm (v % _)]
  omega

theorem testBit_setField (x hi lo v i : Nat) :
    (setField x hi lo v).testBit i = if lo ≤ i ∧ i ≤ hi then v.testBit (i - lo) else x.testBit i := by
  rw [setField_eq_parts, Nat.testBit_two_pow_mul_add _ (Nat.mod_lt _ (Nat.two_pow_pos _))]
  by_cases h1 : i < lo
  · simp [h1, Nat.not_le.mpr h1]
  · rw [if_neg h1, Nat.testBit_two_pow_mul_add _ (Nat.mod_lt _ (Nat.two_pow_pos _))]
    by_cases h2 : i ≤ hi
    · have h3 : i - lo < hi + 1 - lo := by omega
      simp [h3, h2, Nat.not_lt.mp h1]
    · have h3 : ¬ i - lo < hi + 1 - lo := by omega
      rw [if_neg h3, if_neg (fun h => h2 h.2), Nat.testBit_div_two_pow, Nat.testBit_div_two_pow]
      congr 1
      omega

/-- The replaced field reads as what was put there. -/
theorem field_setField_same (x hi lo v : Nat) : field (setField x hi lo v) hi lo = v % 2 ^ (hi + 1 - lo) := by
  refine Nat.eq_of_testBit_eq fun i => ?_
  rw [testBit_field, testBit_setField, Nat.testBit_mod_two_pow]
  by_cases h : i < hi + 1 - lo
  · rw [if_pos (by omega), Nat.add_sub_cancel_left]
  · simp [h]

/-- A field apart from the replaced one reads as before. -/
theorem field_setField_disjoint {hi lo hi' lo' : Nat} (x v : Nat) (h : hi' < lo ∨ hi < lo') :
    field (setField x hi lo v) hi' lo' = field x hi' lo' := by
  refine Nat.eq_of_testBit_eq fun i => ?_
  rw [testBit_field, testBit_field, testBit_setField]
  by_cases hw : i < hi' + 1 - lo'
  · rw [if_neg (by omega)]
  · simp [hw]

/-- A field of a number that is stored in a 64-bit register. -/
theorem field_toNat_ofNat {hi lo : Nat} (x : Nat) (h : hi < 64) : field (BitVec.ofNat 64 x).toNat hi lo = field x hi lo := by
  refine Nat.eq_of_testBit_eq fun i => ?_
  rw [testBit_field, testBit_field, BitVec.toNat_ofNat, Nat.testBit_mod_two_pow]
  by_cases hw : i < hi + 1 - lo
  · rw [decide_eq_true (by omega : lo + i < 64), Bool.true_and]
  · simp [hw]

/-- The field that goes up to the last bit of a 64-bit register. -/
theorem field_toNat_top {lo : Nat} (x : Word64) (h : lo ≤ 64) : field x.toNat 63 lo = x.toNat / 2 ^ lo := by
  rw [field_eq_div_mod]
  refine Nat.mod_eq_of_lt (Nat.div_lt_of_lt_mul ?_)
  rw [← Nat.pow_add, Nat.add_sub_cancel' h]
  exact x.isLt

theorem bitAt_eq_testBit (x i : Nat) : bitAt x i = x.testBit i := by
  rw [bitAt, Nat.testBit, Nat.and_comm, Nat.and_one_is_mod]
  rcases Nat.mod_two_eq_zero_or_one (x >>> i) with h | h <;> rw [h] <;> rfl

theorem bitAt_eq_field (x i : Nat) : bitAt x i = (field x i i == 1) := by
  rw [bitAt, field, Nat.add_sub_cancel_left, pow_one]

end Sys2Proof.Machine

/-!
PROOFS. Writes to the registers of a context's control page (R14, R100, R101).
-/

namespace Sys2Proof.Machine

/-! ### What a write of SQ_CFG stores (R11, R101) -/

/-- Outside the reserved bits and CEIL the write's own bits are stored. -/
theorem field_sqCfgBits {hi lo : Nat} (old v : Word64) (ceil : hi < 1 ∨ 2 < lo) (rsv : hi < 8 ∨ 15 < lo) (h : hi < 64) :
    field (sqCfgBits old v).toNat hi lo = field v.toNat hi lo := by
  unfold sqCfgBits
  rw [field_toNat_ofNat _ h]
  split
  · rw [field_setField_disjoint _ _ ceil, field_setField_disjoint _ _ rsv]
  · rw [field_setField_disjoint _ _ rsv]

theorem field_sqCfgBits_reserved (old v : Word64) : field (sqCfgBits old v).toNat 15 8 = 0 := by
  unfold sqCfgBits
  rw [field_toNat_ofNat _ (by decide)]
  split
  · rw [field_setField_disjoint _ _ (.inr (by decide)), field_setField_same, Nat.zero_mod]
  · rw [field_setField_same, Nat.zero_mod]

theorem field_sqCfgBits_ceil (old v : Word64) :
    field (sqCfgBits old v).toNat 2 1 = if field v.toNat 2 1 = 3 then field old.toNat 2 1 else field v.toNat 2 1 := by
  have hv : field (setField v.toNat 15 8 0) 2 1 = field v.toNat 2 1 := field_setField_disjoint _ _ (.inl (by decide))
  unfold sqCfgBits
  rw [field_toNat_ofNat _ (by decide), hv]
  split
  · rw [field_setField_same]
    exact Nat.mod_eq_of_lt (field_lt old.toNat 2 1)
  · exact hv

/-- The ring that a write of SQ_CFG names is the one of the written value. -/
theorem sameRing_sqCfgBits (old v : Word64) : sameRing old (sqCfgBits old v) = true ↔
    field v.toNat 7 3 = field old.toNat 7 3 ∧ field v.toNat 63 24 = field old.toNat 63 24 := by
  unfold sameRing
  rw [field_sqCfgBits old v (.inr (by decide)) (.inr (by decide)) (by decide),
    field_sqCfgBits old v (.inr (by decide)) (.inl (by decide)) (by decide), Bool.and_eq_true, beq_iff_eq, beq_iff_eq]
  exact ⟨fun ⟨hb, hl⟩ => ⟨hl.symm, hb.symm⟩, fun ⟨hl, hb⟩ => ⟨hb.symm, hl.symm⟩⟩

theorem writeSqCfg_passed (q : SubQueue) (v : Word64) : (writeSqCfg q v).passed = q.passed := by
  unfold writeSqCfg
  dsimp only
  split
  · rfl
  · split <;> rfl

theorem writeSqCfg_enabled {q : SubQueue} (v : Word64) (h : field q.cfg.toNat 0 0 = 1) :
    writeSqCfg q v = { q with cfg := BitVec.ofNat 64 (setField q.cfg.toNat 0 0 (v.toNat % 2)) } := by
  have he : sqEn q = true := by rw [sqEn, bitAt_eq_field, h]; rfl
  rw [writeSqCfg, if_pos he]

theorem writeSqCfg_disabled {q : SubQueue} (v : Word64) (h : field q.cfg.toNat 0 0 = 0) :
    writeSqCfg q v = if sameRing q.cfg (sqCfgBits q.cfg v) then { q with cfg := sqCfgBits q.cfg v }
      else { q with cfg := sqCfgBits q.cfg v, head := 0, tail := 0 } := by
  have he : ¬ sqEn q = true := by rw [sqEn, bitAt_eq_field, h]; decide
  rw [writeSqCfg, if_neg he]

theorem writeSqCfg_disabled_cfg {q : SubQueue} (v : Word64) (h : field q.cfg.toNat 0 0 = 0) :
    (writeSqCfg q v).cfg = sqCfgBits q.cfg v := by
  rw [writeSqCfg_disabled v h]
  split <;> rfl

theorem writeSqCfg_sameRing {q : SubQueue} {v : Word64} (h : field q.cfg.toNat 0 0 = 0) (hlog : field v.toNat 7 3 = field q.cfg.toNat 7 3)
    (hbase : field v.toNat 63 24 = field q.cfg.toNat 63 24) : (writeSqCfg q v).head = q.head ∧ (writeSqCfg q v).tail = q.tail := by
  rw [writeSqCfg_disabled v h, if_pos ((sameRing_sqCfgBits q.cfg v).2 ⟨hlog, hbase⟩)]
  exact ⟨rfl, rfl⟩

theorem writeSqCfg_newRing {q : SubQueue} {v : Word64} (h : field q.cfg.toNat 0 0 = 0)
    (hring : field v.toNat 7 3 ≠ field q.cfg.toNat 7 3 ∨ field v.toNat 63 24 ≠ field q.cfg.toNat 63 24) :
    (writeSqCfg q v).head = 0 ∧ (writeSqCfg q v).tail = 0 := by
  have hne : ¬ sameRing q.cfg (sqCfgBits q.cfg v) = true := fun e => by
    obtain ⟨hlog, hbase⟩ := (sameRing_sqCfgBits q.cfg v).1 e
    exact hring.elim (· hlog) (· hbase)
  rw [writeSqCfg_disabled v h, if_neg hne]
  exact ⟨rfl, rfl⟩

/-- EN of the written value is stored whether the queue is enabled or not. -/
theorem writeSqCfg_enable (q : SubQueue) (v : Word64) : field (writeSqCfg q v).cfg.toNat 0 0 = field v.toNat 0 0 := by
  have hb : field q.cfg.toNat 0 0 < 2 := field_lt _ 0 0
  rcases Nat.lt_succ_iff_lt_or_eq.mp hb with h | h
  · have h : field q.cfg.toNat 0 0 = 0 := by omega
    rw [writeSqCfg_disabled_cfg v h]
    exact field_sqCfgBits _ _ (.inl (by decide)) (.inl (by decide)) (by decide)
  · rw [writeSqCfg_enabled v h, field_toNat_ofNat _ (by decide), field_setField_same, field_eq_div_mod, pow_zero, Nat.div_one]
    exact Nat.mod_mod _ _

/-- An enabled queue keeps every bit above EN. -/
theorem writeSqCfg_enabled_above {q : SubQueue} (v : Word64) (h : field q.cfg.toNat 0 0 = 1) :
    field (writeSqCfg q v).cfg.toNat 63 1 = field q.cfg.toNat 63 1 := by
  rw [writeSqCfg_enabled v h, field_toNat_ofNat _ (by decide), field_setField_disjoint _ _ (.inr (by decide))]

theorem exec_sqCfgWrite {s : State} {cn q : Nat} {c : Ctx} (v : Word64) (hc : s.ctx? cn = some c) (hq : q < 4) :
    exec (.sqCfgWrite cn q v) s = .next (s.setCtx cn { c with sqs := setNth c.sqs q (writeSqCfg (getSq c q) v) }) := by
  rw [show exec (.sqCfgWrite cn q v) s = execSqCfgWrite cn q v s from rfl, execSqCfgWrite, hc]
  dsimp only
  rw [if_pos hq]

/-! ### Writes of the completion queue's registers (R101, R463) -/

/-- With no record held a release leaves only CQFULL clear. -/
theorem releaseRecs_setCtx_none (s : State) (cn : Nat) {c : Ctx} (h : c.heldRecs = []) :
    releaseRecs (s.setCtx cn c) cn = s.setCtx cn { c with cqfull := false } := by
  rw [releaseRecs, State.ctx?_setCtx]
  dsimp only
  rw [h, List.length_nil, drainRecs, State.ctx?_setCtx]
  dsimp only
  rw [h]
  dsimp only
  rw [State.setCtx_setCtx]

theorem exec_cqHeadWrite {s : State} {cn : Nat} {c : Ctx} (head : Bits32) (hc : s.ctx? cn = some c) (hr : c.heldRecs = []) :
    exec (.cqHeadWrite cn head) s = .next (s.setCtx cn { c with cqHead := head, cqfull := false }) := by
  rw [show exec (.cqHeadWrite cn head) s = execCqHeadWrite cn head s from rfl, execCqHeadWrite, hc]
  dsimp only
  rw [releaseRecs_setCtx_none s cn (c := { c with cqHead := head }) hr]

theorem writeCqCfg_heldRecs (c : Ctx) (v : Word64) : (writeCqCfg c v).heldRecs = c.heldRecs := by
  unfold writeCqCfg
  dsimp only
  split
  · rfl
  · split <;> rfl

theorem exec_cqCfgWrite {s : State} {cn : Nat} {c : Ctx} (v : Word64) (hc : s.ctx? cn = some c) (hr : c.heldRecs = []) :
    exec (.cqCfgWrite cn v) s = .next (s.setCtx cn { writeCqCfg c v with cqfull := false }) := by
  rw [show exec (.cqCfgWrite cn v) s = execCqCfgWrite cn v s from rfl, execCqCfgWrite, hc]
  dsimp only
  rw [releaseRecs_setCtx_none s cn ((writeCqCfg_heldRecs c v).trans hr)]

theorem writeCqCfg_unconsumed {c : Ctx} (v : Word64) (h : c.cqHead ≠ c.cqTail) : writeCqCfg c v = c := by
  rw [writeCqCfg, if_pos (bne_iff_ne.mpr h)]

/-- What a write of CQ_CFG stores: bits [15:9] read as zero. -/
def cqCfgBits (v : Word64) : Word64 := BitVec.ofNat 64 (setField v.toNat 15 9 0)

theorem field_cqCfgBits {hi lo : Nat} (v : Word64) (rsv : hi < 9 ∨ 15 < lo) (h : hi < 64) :
    field (cqCfgBits v).toNat hi lo = field v.toNat hi lo := by
  rw [cqCfgBits, field_toNat_ofNat _ h, field_setField_disjoint _ _ rsv]

theorem field_cqCfgBits_reserved (v : Word64) : field (cqCfgBits v).toNat 15 9 = 0 := by
  rw [cqCfgBits, field_toNat_ofNat _ (by decide), field_setField_same]
  rfl

/-- The value names the ring of the completion queue in force: the same BASE and the same size. -/
def SameCqRing (c : Ctx) (v : Word64) : Prop :=
  field v.toNat 63 21 = field c.cqCfg.toNat 63 21 ∧ field v.toNat 8 4 = field c.cqCfg.toNat 8 4

/-- With every record consumed the value is stored, and HEAD and TAIL stay for the same ring alone. -/
theorem writeCqCfg_consumed {c : Ctx} (v : Word64) (h : c.cqHead = c.cqTail) :
    (SameCqRing c v → writeCqCfg c v = { c with cqCfg := cqCfgBits v }) ∧
    (¬ SameCqRing c v → writeCqCfg c v = { c with cqCfg := cqCfgBits v, cqHead := 0, cqTail := 0 }) := by
  have hstored : SameCqRing c (cqCfgBits v) ↔ SameCqRing c v := by
    rw [SameCqRing, field_cqCfgBits v (.inr (by decide)) (by decide), field_cqCfgBits v (.inl (by decide)) (by decide), SameCqRing]
  rw [writeCqCfg, if_neg (fun hn => bne_iff_ne.mp hn h)]
  exact ⟨fun hs => if_pos (hstored.2 hs), fun hs => if_neg (hs ∘ hstored.1)⟩

theorem sameCqRing_iff (c : Ctx) (v : Word64) : SameCqRing c v ↔
    v.toNat / 2 ^ 21 = c.cqCfg.toNat / 2 ^ 21 ∧ v.toNat / 2 ^ 4 % 2 ^ 5 = c.cqCfg.toNat / 2 ^ 4 % 2 ^ 5 := by
  rw [SameCqRing, field_toNat_top v (by decide), field_toNat_top c.cqCfg (by decide), field_eq_div_mod, field_eq_div_mod]

/-- The stored value, as the bits below, at and above the reserved ones. -/
theorem cqCfgBits_parts (v : Word64) : (cqCfgBits v).toNat % 2 ^ 9 = v.toNat % 2 ^ 9 ∧ (cqCfgBits v).toNat / 2 ^ 9 % 2 ^ 7 = 0 ∧
    (cqCfgBits v).toNat / 2 ^ 16 = v.toNat / 2 ^ 16 := by
  refine ⟨?_, ?_, ?_⟩
  · simpa [field_eq_div_mod] using field_cqCfgBits (hi := 8) (lo := 0) v (.inl (by decide)) (by decide)
  · simpa [field_eq_div_mod] using field_cqCfgBits_reserved v
  · have h := field_cqCfgBits (hi := 63) (lo := 16) v (.inr (by decide)) (by decide)
    rwa [field_toNat_top _ (by decide), field_toNat_top _ (by decide)] at h

/-! ### Any other write to the page (R14, R100) -/

theorem exec_registerWrite {s : State} {cn : Nat} {c : Ctx} (off : Nat) (v : Word64) (hc : s.ctx? cn = some c) :
    exec (.registerWrite cn off v) s =
      .next (s.setCtx cn (if off = 0 ∧ v.getLsbD 5 = true then { c with dberr := false } else c)) := by
  rw [show exec (.registerWrite cn off v) s = execRegisterWrite cn off v s from rfl, execRegisterWrite, hc]
  dsimp only
  rw [bitAt_eq_testBit, BitVec.testBit_toNat]

/-! ### The statement -/

/-- Settles O20: a write of SQ_CFG through what `writeSqCfg` stores in an enabled and in a disabled queue, the others through the context with
no record to release. -/
theorem queueRegisterWrites : Obligations.QueueRegisterWrites := by
  unfold Obligations.QueueRegisterWrites
  refine ⟨fun s cn q v c hc hq => ⟨writeSqCfg (getSq c q) v, exec_sqCfgWrite v hc hq, ?_⟩, fun s cn c hc => ⟨?_, ?_, ?_, ?_⟩⟩
  · simp only [← field_eq_div_mod]
    refine ⟨writeSqCfg_passed _ v, writeSqCfg_enable _ v, fun he => ?_, fun hd => ?_⟩
    · have hw := writeSqCfg_enabled v he
      exact ⟨by rw [hw], by rw [hw], writeSqCfg_enabled_above v he⟩
    · refine ⟨?_, ?_, ?_, ?_, writeSqCfg_sameRing hd, writeSqCfg_newRing hd⟩ <;> rw [writeSqCfg_disabled_cfg v hd]
      · exact field_sqCfgBits _ _ (.inr (by decide)) (.inl (by decide)) (by decide)
      · exact field_sqCfgBits _ _ (.inr (by decide)) (.inr (by decide)) (by decide)
      · exact field_sqCfgBits_reserved _ _
      · exact field_sqCfgBits_ceil _ _
  · exact fun head hr => exec_cqHeadWrite head hc hr
  · intro v hr hne
    rw [exec_cqCfgWrite v hc hr, writeCqCfg_unconsumed v hne]
  · intro v hr heq
    obtain ⟨hsame, hnew⟩ := writeCqCfg_consumed v heq
    obtain ⟨hlow, hrsv, hhigh⟩ := cqCfgBits_parts v
    by_cases hring : SameCqRing c v
    · refine ⟨cqCfgBits v, c.cqHead, c.cqTail, ?_, hlow, hrsv, hhigh, fun _ => ⟨rfl, rfl⟩, fun hn => ?_⟩
      · rw [exec_cqCfgWrite v hc hr, hsame hring]
      · obtain ⟨hbase, hlog⟩ := (sameCqRing_iff c v).1 hring
        exact hn.elim (absurd hbase) (absurd hlog)
    · refine ⟨cqCfgBits v, 0, 0, ?_, hlow, hrsv, hhigh, fun h => absurd ((sameCqRing_iff c v).2 h) hring, fun _ => ⟨rfl, rfl⟩⟩
      rw [exec_cqCfgWrite v hc hr, hnew hring]
  · exact fun off v => exec_registerWrite off v hc

end Sys2Proof.Machine

/-!
PROOFS. What a port does with a frame it takes, and what sending leaves unchanged (R278, R327 to R331).
-/

namespace Sys2Proof.Machine

/-! ### Sending -/

/-- Sending changes the ports' records and what has been sent. -/
theorem sendItem_frame (s : State) (port : Nat) (x : TxItem) :
    s.sendItem port x = { s with ports := (s.sendItem port x).ports, out := (s.sendItem port x).out } := by
  unfold State.sendItem
  split <;> rfl

theorem sendSegs_frame (s : State) (port : Nat) (slot : Option Nat) (l : List Bytes) :
    sendSegs s port slot l = { s with ports := (sendSegs s port slot l).ports, out := (sendSegs s port slot l).out } :=
  sendItem_frame s port _

/-- Firmware's own datagrams leave at once by a port whose priority 0 is not paused. -/
theorem sendSegs_out {s : State} {port : Nat} (slot : Option Nat) (l : List Bytes) (h : portPaused s port 0 = false) :
    (sendSegs s port slot l).out = s.out ++ [.message port l] := by
  have hp : ¬ portPaused s port 0 = true := by rw [h]; decide
  rw [sendSegs, State.sendItem]
  exact congrArg State.out (if_neg hp)

/-! ### Frames that arrive -/

theorem losslessArrival_frame (s : State) (port occ : Nat) :
    (losslessArrival s port occ).1 = { s with ports := (losslessArrival s port occ).1.ports, out := (losslessArrival s port occ).1.out } := by
  unfold losslessArrival
  dsimp only
  split
  · rfl
  · dsimp only
    split <;> rfl

theorem sharedArrival_frame (s : State) (port occ : Nat) :
    (sharedArrival s port occ).1 = { s with ports := (sharedArrival s port occ).1.ports, out := (sharedArrival s port occ).1.out } := by
  unfold sharedArrival
  split <;> rfl

/-- A frame that arrives changes the ports' records, and sends at most a pause. -/
theorem arrive_frame (s : State) (port : Nat) (f : FrameInfo) :
    (arrive s port f).1 = { s with ports := (arrive s port f).1.ports, out := (arrive s port f).1.out } := by
  unfold arrive
  split
  · rfl
  · split
    · exact losslessArrival_frame s port f.occupancy
    · exact sharedArrival_frame s port f.occupancy

@[simp] theorem portState_hosts (s : State) (port : Nat) (f : FrameInfo) : (portState s port f).hosts = s.hosts := by
  rw [portState, arrive_frame]
@[simp] theorem portState_sessions (s : State) (port : Nat) (f : FrameInfo) : (portState s port f).sessions = s.sessions := by
  rw [portState, arrive_frame]
@[simp] theorem portState_mem (s : State) (port : Nat) (f : FrameInfo) : (portState s port f).mem = s.mem := by
  rw [portState, arrive_frame]
@[simp] theorem portState_colyr (s : State) (port : Nat) (f : FrameInfo) : (portState s port f).colyr = s.colyr := by
  rw [portState, arrive_frame]

/-- A whole frame that fits the receive region of its priority is received. -/
theorem arrive_received {s : State} {port : Nat} {f : FrameInfo} (intact : f.crcOk = true) (room : f.occupancy ≤ portBuffer s port / 2) :
    (arrive s port f).2 = true := by
  have hpass : (!(Custody.ingress.passes .frame f.crcOk)) = false := by rw [intact]; decide
  have hroom : ¬ portBuffer s port / 2 < f.occupancy := Nat.not_lt.mpr room
  unfold arrive
  rw [hpass]
  cases inLossless s f
  · simp [sharedArrival, hroom]
  · simp [losslessArrival, hroom]

/-- The host that a frame's sender is does not depend on what has arrived. -/
theorem hostByMac_portState (s : State) (port : Nat) (f : FrameInfo) (mac : BitVec 48) :
    hostByMac (portState s port f) port mac = hostByMac s port mac := by
  rw [hostByMac, portState_hosts, hostByMac]

/-- An unprotected frame that may be unprotected passes and changes nothing. -/
theorem protect_unprotected {s : State} {slot : Nat} {h : HostRec} {f : FrameInfo} {exempt : Bool} (plain : f.sec = none)
    (may : exempt = true ∨ h.plainOk = true) : protect s slot h f exempt = (s, true) := by
  unfold protect
  rw [plain]
  exact if_pos (Bool.or_eq_true_iff.mpr may)

/-- What a taken frame asks is done in the state in which its bytes are counted. -/
theorem portFrame_taken {s : State} {port : Nat} {f : FrameInfo} {exempt : Bool} (h : PortFrameTaken s port f exempt) (k : State → State) :
    portFrame s port f exempt k = k (portState s port f) := by
  have hrec : (arrive s port f).2 = true := arrive_received h.intact h.room
  have hmac : hostByMac (arrive s port f).1 port f.mac = hostByMac s port f.mac := hostByMac_portState s port f f.mac
  unfold portFrame
  rw [h.up]
  dsimp only
  rw [hrec, hmac, h.plain]
  cases hb : hostByMac s port f.mac with
  | none => rfl
  | some x =>
    obtain ⟨slot, y⟩ := x
    simp [protect_unprotected h.plain (h.sender slot y hb), portState]

end Sys2Proof.Machine

/-!
PROOFS. The checks of step 2 of an attach and what an ATTACH_REQ is answered with (R334, R336, R338 to R340).
-/

namespace Sys2Proof.Machine

/-! ### The checks of step 2 -/

theorem wantsEnc_iff (m : AttachReq) : wantsEnc m = true ↔ m.enc % 2 = 1 := by
  rw [wantsEnc, bitAt, beq_iff_eq, Nat.shiftRight_zero]

theorem attachOpen_iff (s : State) : attachOpen s = true ↔ s.power.boot = .ready ∧ s.colyr.debugOpen = false := by
  rw [attachOpen, Bool.and_eq_true, beq_iff_eq, Bool.not_eq_true']

/-- ENC against the tenancy entry: 0 forbids a protected session, 2 an unprotected one. -/
theorem encRefused_eq_false_iff (s : State) (k : Nat) (m : AttachReq) : encRefused s k m = false ↔
    (m.enc % 2 = 1 → teField (tenantBits s k) 514 513 ≠ 0) ∧ (m.enc % 2 = 0 → teField (tenantBits s k) 514 513 ≠ 2) := by
  unfold encRefused
  rcases Nat.mod_two_eq_zero_or_one m.enc with h | h
  · rw [if_neg (by rw [wantsEnc_iff]; omega)]
    simp [h]
  · rw [if_pos ((wantsEnc_iff m).2 h)]
    simp [h]

/-- The last check: a tenancy entry admits the key, and its rule on encryption the request. -/
def TenantAdmits (s : State) (m : AttachReq) : Prop := ∃ k, tenantOf s m.hkdig = some k ∧ encRefused s k m = false

/-- A chain of checks gives no reason exactly when the first does not and the rest do not. -/
theorem reason_else_eq_zero {p : Prop} [Decidable p] {r n : Nat} (hr : r ≠ 0) : (if p then r else n) = 0 ↔ ¬ p ∧ n = 0 := by
  by_cases h : p <;> simp [h, hr]

/-- No reason is given exactly when none of the checks fails. -/
theorem reqReason_eq_zero_iff (s : State) (m : AttachReq) : reqReason s m = 0 ↔
    ¬ (m.rsv ≠ 0 ∨ m.enc / 2 ≠ 0 ∨ msgWellFormed m.head 4200 = false) ∧ ¬ (1 < m.avmin ∨ m.avmax < 1) ∧ ¬ m.umax < 0x10 ∧
      ¬ (!(attachOpen s)) = true ∧ ¬ 4 ≤ s.sessions.length ∧ ¬ (slotFor s m.hkdig).isNone = true ∧
      ¬ (wantsEnc m && decide (s.order = .half)) = true ∧ TenantAdmits s m := by
  unfold reqReason TenantAdmits
  simp (disch := decide) only [reason_else_eq_zero]
  cases tenantOf s m.hkdig with
  | none => simp
  | some k => simp

/-- The checks of step 2 as R338 to R340 list them. -/
theorem reqReason_eq_zero_iff_checks (s : State) (m : AttachReq) : reqReason s m = 0 ↔
    m.rsv = 0 ∧ m.enc < 2 ∧ msgWellFormed m.head 4200 = true ∧ m.avmin ≤ 1 ∧ 1 ≤ m.avmax ∧ 0x10 ≤ m.umax ∧ s.power.boot = .ready ∧
      s.colyr.debugOpen = false ∧ s.sessions.length < 4 ∧ (slotFor s m.hkdig).isSome = true ∧ (s.order = .half → m.enc % 2 = 0) ∧
      ∃ k, tenantOf s m.hkdig = some k ∧ (m.enc % 2 = 1 → teField (tenantBits s k) 514 513 ≠ 0) ∧
        (m.enc % 2 = 0 → teField (tenantBits s k) 514 513 ≠ 2) := by
  have hform : ¬ (m.rsv ≠ 0 ∨ m.enc / 2 ≠ 0 ∨ msgWellFormed m.head 4200 = false) ↔
      m.rsv = 0 ∧ m.enc < 2 ∧ msgWellFormed m.head 4200 = true := by
    have henc : m.enc / 2 = 0 ↔ m.enc < 2 := by omega
    simp [henc]
  have hver : ¬ (1 < m.avmin ∨ m.avmax < 1) ↔ m.avmin ≤ 1 ∧ 1 ≤ m.avmax := by omega
  have hopen : ¬ (!(attachOpen s)) = true ↔ s.power.boot = .ready ∧ s.colyr.debugOpen = false := by
    rw [← attachOpen_iff]
    simp
  have hslot : ¬ (slotFor s m.hkdig).isNone = true ↔ (slotFor s m.hkdig).isSome = true := by
    rw [Bool.not_eq_true, Option.isNone_eq_false_iff]
  have hhalf : ¬ (wantsEnc m && decide (s.order = .half)) = true ↔ (s.order = .half → m.enc % 2 = 0) := by
    rw [Bool.and_eq_true, wantsEnc_iff, decide_eq_true_eq, not_and', Nat.mod_two_not_eq_one]
  rw [reqReason_eq_zero_iff, hform, hver, hopen, hslot, hhalf, Nat.not_lt, Nat.not_le, TenantAdmits]
  simp only [encRefused_eq_false_iff, and_assoc]

/-! ### The answer to an ATTACH_REQ -/

section
variable {s : State} {m : AttachReq} {f : FrameInfo} (taken : PortFrameTaken s m.port f (unfinished s m.head.sid))
  (whole : msgComplete m.head = true)
include taken whole

/-- A repeated message of a session that a host has completed gets the reply stored for it (R334). -/
theorem exec_attachReq_stored {k : Nat} {h : HostRec} {l : List Bytes}
    (hs : storedReply (portState s m.port f) m.head.sid m.head.mseq = some (k, h, l)) :
    exec (.attachReq m f) s = .next (sendSegs (portState s m.port f) h.port (some k) l) := by
  rw [show exec (.attachReq m f) s = execAttachReq m f s from rfl, execAttachReq, portFrame_taken taken]
  simp [whole, hs]

variable (fresh : storedReply (portState s m.port f) m.head.sid m.head.mseq = none)
include fresh

/-- In an open session the request that opened it gets its challenge again, and another is out of sequence. -/
theorem exec_attachReq_open {x : Session} (hx : s.sessions.find? (fun y => y.sid == m.head.sid) = some x) (hw : x.waiting = none) :
    exec (.attachReq m f) s = .next (if x.req = m then sendSegs (portState s m.port f) m.port none x.reply
      else refuseAttach (portState s m.port f) m.port m.head.sid 1 0x0A m.hkdig) := by
  rw [show exec (.attachReq m f) s = execAttachReq m f s from rfl, execAttachReq, portFrame_taken taken]
  simp [whole, fresh, hx, hw]

/-- A first request is checked: a reason refuses it, and else it opens a session and is sent its challenge. -/
theorem exec_attachReq_first (hn : ∀ x ∈ s.sessions, x.sid ≠ m.head.sid) :
    let a := portState s m.port f
    let x := newSession a m f.mac
    exec (.attachReq m f) s = .next (if reqReason a m ≠ 0 then refuseAttach a m.port m.head.sid 0 (reqReason a m) m.hkdig
      else sendSegs ({ a with sessions := a.sessions ++ [x] } : State).tick m.port none x.reply) := by
  have hfind : s.sessions.find? (fun y => y.sid == m.head.sid) = none := List.find?_eq_none.mpr (by simpa using hn)
  rw [show exec (.attachReq m f) s = execAttachReq m f s from rfl, execAttachReq, portFrame_taken taken]
  simp [whole, fresh, hfind]

end

/-- Settles O42: the checks by `reqReason_eq_zero_iff_checks`; the answers by the three cases of a taken ATTACH_REQ, and for an accepted one by
what a new session holds and what sending its challenge leaves unchanged. -/
theorem attachRequestsAreCheckedAndAnswered : Obligations.AttachRequestsAreCheckedAndAnswered := by
  unfold Obligations.AttachRequestsAreCheckedAndAnswered
  refine ⟨reqReason_eq_zero_iff_checks, fun s m f taken whole => ?_⟩
  intro a
  refine ⟨fun k h l hs => exec_attachReq_stored taken whole hs, fun fresh =>
    ⟨fun hn hok => ?_, fun hn hbad => ?_, fun x hx hw => ⟨fun he => ?_, fun he => ?_⟩⟩⟩
  · let x := newSession a m f.mac
    let b : State := ({ a with sessions := a.sessions ++ [x] } : State).tick
    have hframe := sendSegs_frame b m.port none x.reply
    refine ⟨sendSegs b m.port none x.reply, x, ?_, ?_, rfl, rfl, rfl, rfl, rfl, rfl, fun hp => ?_, ?_, ?_, ?_⟩
    · rw [exec_attachReq_first taken whole fresh hn, if_neg (not_not.mpr hok)]
    · rw [hframe]
      exact congrArg (· ++ [x]) (portState_sessions s m.port f)
    · exact sendSegs_out (s := b) none x.reply hp
    · rw [hframe]
      exact portState_hosts s m.port f
    · rw [hframe]
      exact portState_mem s m.port f
    · rw [hframe]
      exact portState_colyr s m.port f
  · rw [exec_attachReq_first taken whole fresh hn, if_pos hbad]
  · rw [exec_attachReq_open taken whole fresh hx hw, if_pos he]
  · rw [exec_attachReq_open taken whole fresh hx hw, if_neg he]

end Sys2Proof.Machine

/-!
PROOFS. What a module reset keeps and loses, and what a loss of power and a compute hold leave (R28, R375, R414, R430 to R434, R446).
-/

namespace Sys2Proof.Machine

/-! ### A module reset -/

@[simp] theorem afterReset_pending (s : State) (st : BootStage) : (afterReset s st).pending = s.pending := rfl
@[simp] theorem afterReset_out (s : State) (st : BootStage) : (afterReset s st).out = s.out := rfl
@[simp] theorem afterReset_mem (s : State) (st : BootStage) : (afterReset s st).mem = s.mem.filter (fun c => isSillage c.1) := rfl
@[simp] theorem afterReset_units (s : State) (st : BootStage) : (afterReset s st).units = [] := rfl
@[simp] theorem afterReset_ctxs (s : State) (st : BootStage) : (afterReset s st).ctxs = [] := rfl
@[simp] theorem afterReset_hosts (s : State) (st : BootStage) : (afterReset s st).hosts = [] := rfl
@[simp] theorem afterReset_sessions (s : State) (st : BootStage) : (afterReset s st).sessions = [] := rfl
@[simp] theorem afterReset_fabric (s : State) (st : BootStage) : (afterReset s st).fabric = [] := rfl
@[simp] theorem afterReset_squalls (s : State) (st : BootStage) : (afterReset s st).squalls = [] := rfl
@[simp] theorem afterReset_dseq (s : State) (st : BootStage) : (afterReset s st).dseq = List.replicate 28 0 := rfl
@[simp] theorem afterReset_portModes (s : State) (st : BootStage) : (afterReset s st).portModes = portModesOf s.colyr.portmode := rfl
@[simp] theorem afterReset_boot (s : State) (st : BootStage) : (afterReset s st).power.boot = st := rfl
@[simp] theorem afterReset_cap (s : State) (st : BootStage) : (afterReset s st).power.cap = 9300 := rfl
@[simp] theorem afterReset_railsUp (s : State) (st : BootStage) : (afterReset s st).power.railsUp = s.power.railsUp := rfl
@[simp] theorem afterReset_thermtrip (s : State) (st : BootStage) : (afterReset s st).power.thermtrip = s.power.thermtrip := rfl

/-- Of the firmware's state a module reset drops the update, and it counts one more boot (R398). -/
@[simp] theorem afterReset_fw (s : State) (st : BootStage) : (afterReset s st).fw =
    { s.fw with updLen := none, staged := [], updStep := 0, updStatus := 0, deferredReset := false, boots := s.fw.boots + 1 } := rfl

/-- Of the management island's state a module reset drops what belongs to a boot, the log and the settings not (R414, R417, R420). -/
@[simp] theorem afterReset_colyr (s : State) (st : BootStage) : (afterReset s st).colyr =
    { s.colyr with dwSel := 0, watches := [], nonce := Config.nonce s.freeIx, debugOpen := false, eid := 0, modReq := none, deleting := none } := rfl

/-- The Sillage regions read as before a module reset, everything else as zero (R381). -/
theorem get_afterReset_mem {s : State} (h : MemInv s) (st : BootStage) (a : Nat) :
    Memory.get (afterReset s st).mem a = if isSillage a = true then Memory.get s.mem a else 0 :=
  Memory.get_filter isSillage a h

theorem nth_map_rangeFrom_of_lt {α : Type} (d : α) (g : Nat → α) : ∀ {n k : Nat} (lo : Nat), k < n → nth d ((rangeFrom lo n).map g) k = g (lo + k)
  | _ + 1, 0, _, _ => rfl
  | n + 1, k + 1, lo, h => by
    have ih := nth_map_rangeFrom_of_lt d g (lo + 1) (Nat.lt_of_succ_lt_succ h)
    rw [Nat.add_assoc, Nat.add_comm 1 k] at ih
    exact ih

/-- PORTMODE has two bits for each host port (R414). -/
theorem nth_portModesOf (v : Word64) {n : Nat} (h : n < 8) : nth 0 (portModesOf v) n = v.toNat / 2 ^ (2 * n) % 4 := by
  have hw : 2 * n + 1 + 1 - 2 * n = 2 := by omega
  rw [portModesOf, nth_map_rangeFrom_of_lt _ _ _ h, Nat.zero_add, field_eq_div_mod, hw]
  rfl

/-! ### Loss of the module -/

@[simp] theorem loseModule_mem (s : State) (st : BootStage) (powered : Bool) : (loseModule s st powered).mem = [] := rfl
@[simp] theorem loseModule_ctxs (s : State) (st : BootStage) (powered : Bool) : (loseModule s st powered).ctxs = [] := rfl
@[simp] theorem loseModule_hosts (s : State) (st : BootStage) (powered : Bool) : (loseModule s st powered).hosts = [] := rfl
@[simp] theorem loseModule_boot (s : State) (st : BootStage) (powered : Bool) : (loseModule s st powered).power.boot = st := rfl
@[simp] theorem loseModule_railsUp (s : State) (st : BootStage) (powered : Bool) :
    (loseModule s st powered).power.railsUp = (powered && s.power.railsUp) := rfl
@[simp] theorem loseModule_fw (s : State) (st : BootStage) (powered : Bool) :
    (loseModule s st powered).fw = { (afterReset s st).fw with boots := s.fw.boots } := rfl

/-- Without power the event log goes too (R420). -/
@[simp] theorem loseModule_unpowered_colyr (s : State) (st : BootStage) :
    (loseModule s st false).colyr = { (afterReset s st).colyr with log := [], logNext := 0 } := rfl

theorem exec_inputShutdown (s : State) : exec .inputShutdown s = .next (loseModule s .off false) := rfl

theorem exec_inputOvervoltage (s : State) : exec .inputOvervoltage s = .next (loseModule s .off false) := rfl

/-- A trip is a loss that latches THERMTRIP# and keeps the log (R446). -/
theorem exec_thermalTrip {s : State} {d : Nat} (hd : d < 24) (on : s.power.boot ≠ .off) :
    let t := loseModule s .off false
    exec (.thermalTrip d) s = .next { t with
      power := { t.power with thermtrip := true }, colyr := { t.colyr with log := s.colyr.log, logNext := s.colyr.logNext } } := by
  have hc : ¬ (24 ≤ d ∨ s.power.boot = .off) := not_or.mpr ⟨Nat.not_le.mpr hd, on⟩
  rw [show exec (.thermalTrip d) s = execThermalTrip d s from rfl, execThermalTrip, if_neg hc]

/-! ### The input's return -/

/-- The first entry of a log. -/
theorem logRec_length_of_empty {s : State} (h : s.colyr.log = []) (kind die ukind unit ctx att step cause act detail : Nat) :
    (s.logRec kind die ukind unit ctx att step cause act detail).colyr.log.length = 1 := by
  simp [State.logRec, State.log, h]

theorem firstStage_of_free {s : State} (pin : s.power.resetLow = false) (clock : s.power.refclk = true) : firstStage s = .rom := by
  simp [firstStage, pin, clock]

/-- The state a cold boot starts from: a module reset with rails down, no latch, and memory and log empty (R431). -/
def coldStart (s : State) : State :=
  let t := afterReset { s with power := { s.power with thermtrip := false, railsUp := false, low := false } } (firstStage s)
  { t with mem := [], colyr := { t.colyr with log := [], logNext := 0 } }

theorem exec_powerUp {s : State} (off : s.power.boot = .off) :
    exec .powerUp s = .next ((coldStart s).logRec 0x29 24 7 0 0xFF 0 0 (freeCause s) 0xFF 0) := by
  rw [show exec .powerUp s = execPowerUp s from rfl, execPowerUp, if_neg (not_not.mpr off)]
  rfl

/-! ### The compute hold -/

/-- What a hold that a pin asks for leaves of the power state. -/
theorem enterHold_by_pin {s : State} (free : s.power.hold = false) (on : s.power.boot ≠ .off) :
    let held : State := { s with power := { s.power with hold := true, low := true, holdLocked := s.power.holdLocked, pwrgd := false } }
    enterHold s false = if s.power.boot = .ready then partReset held (freeCause s) else held := by
  simp [enterHold, free, on]

theorem exec_computeHold (s : State) : exec .computeHold s = .next (enterHold s false) := rfl

theorem exec_computeHoldRelease {s : State} (low : s.power.low = true) : exec .computeHoldRelease s = .next { s with
    power := { s.power with low := false, hold := s.power.holdLocked, pwrgd := s.power.boot == .ready && !s.power.holdLocked } } := by
  rw [show exec .computeHoldRelease s = execComputeHoldRelease s from rfl, execComputeHoldRelease, low]
  rfl

/-! ### The statement -/

/-- Settles O53: what a module reset leaves field by field, with its memory by `get_afterReset_mem`; the losses by what `loseModule` leaves; the cold
boot from `coldStart`; a hold by `enterHold_by_pin`. -/
theorem resetAndPowerEmptyTheModule : Obligations.ResetAndPowerEmptyTheModule := by
  unfold Obligations.ResetAndPowerEmptyTheModule
  refine ⟨fun s st hmem => ?_, fun s => ⟨fun off pin clock => ?_, fun i hi => ?_, fun d hd on => ?_, fun ready free => ?_,
    fun on booting free => ?_, fun low unlocked => ?_, fun low locked => ?_⟩⟩
  · have hports : ∀ n < 8, nth 0 (afterReset s st).portModes n = s.colyr.portmode.toNat / 2 ^ (2 * n) % 4 := fun n hn => by
      rw [afterReset_portModes, nth_portModesOf _ hn]
    have hkept : ∀ a, isSillage a = true → Memory.get (afterReset s st).mem a = Memory.get s.mem a := fun a ha => by
      rw [get_afterReset_mem hmem, if_pos ha]
    have hlost : ∀ a, isSillage a = false → Memory.get (afterReset s st).mem a = 0 := fun a ha => by
      rw [get_afterReset_mem hmem, ha, if_neg Bool.false_ne_true]
    simpa using And.intro hports (And.intro hkept hlost)
  · refine ⟨_, exec_powerUp off, firstStage_of_free pin clock, rfl, logRec_length_of_empty rfl .., ?_⟩
    simp [coldStart]
  · have he : exec i s = .next (loseModule s .off false) := by
      rcases List.mem_pair.mp hi with rfl | rfl
      · exact exec_inputShutdown s
      · exact exec_inputOvervoltage s
    refine ⟨_, he, ?_⟩
    simp
  · refine ⟨_, exec_thermalTrip hd on, ?_⟩
    simp
  · have on : s.power.boot ≠ .off := by simp [ready]
    rw [exec_computeHold, enterHold_by_pin free on, if_pos ready]
  · rw [exec_computeHold, enterHold_by_pin free on, if_neg booting]
  · rw [exec_computeHoldRelease low, unlocked, Bool.not_false, Bool.and_true]
  · rw [exec_computeHoldRelease low, locked, Bool.not_true, Bool.and_false]

end Sys2Proof.Machine

/-!
PROOFS. Resets of units and dies, islands that stop and restart (R25, R373, R375, R376, R387).
-/

namespace Sys2Proof.Machine

/-! ### A unit that does not stop (R373) -/

theorem exec_unitStopTimeout {s : State} {u : UnitId} {r : Run} (run : s.run? u = some r) (stopping : r.phase = .stopping) :
    exec (.unitStopTimeout u) s = .next (if u.kind = .video then ((unitStrike s u).freeUnit u).logRec 0x26 u.die 3 u.idx 0xFF 0 0 2 0xFF 0
      else dieReset (unitStrike s u) u.die) := by
  have hp : ¬ (r.phase != .stopping) = true := by simp [stopping]
  rw [show exec (.unitStopTimeout u) s = execUnitStopTimeout u s from rfl, execUnitStopTimeout, run]
  dsimp only
  rw [if_neg hp]
  split <;> rfl

/-! ### Faults in an island's state (R25, R364) -/

section
variable {f : StateFault} (own : f ≠ .controlFlits)
include own

/-- A fault in the state of a cluster's or a pipeline's island counts against the unit and resets its die. -/
theorem exec_pllLossOfLock_unit (s : State) {die idx : Nat} (hdie : die < 24) :
    (idx < 16 → exec (.pllLossOfLock die 0 idx f) s = .next (dieReset (unitStrike s { die := die, kind := .cluster, idx := idx }) die)) ∧
    (idx < 8 → exec (.pllLossOfLock die 1 idx f) s = .next (dieReset (unitStrike s { die := die, kind := .pipeline, idx := idx }) die)) := by
  constructor <;> intro hidx
  · rw [show exec (.pllLossOfLock die 0 idx f) s = execPllLossOfLock die 0 idx f s from rfl, execPllLossOfLock, if_neg own,
      if_pos ⟨rfl, hdie, hidx⟩]
  · rw [show exec (.pllLossOfLock die 1 idx f) s = execPllLossOfLock die 1 idx f s from rfl, execPllLossOfLock, if_neg own,
      if_neg (by simp), if_pos ⟨rfl, hdie, hidx⟩]

theorem exec_pllLossOfLock_control (s : State) {die : Nat} (hdie : die < 24) : exec (.pllLossOfLock die 2 0 f) s = .next (dieReset s die) := by
  rw [show exec (.pllLossOfLock die 2 0 f) s = execPllLossOfLock die 2 0 f s from rfl, execPllLossOfLock, if_neg own]
  simp [hdie]

theorem exec_pllLossOfLock_management (s : State) : exec (.pllLossOfLock 24 10 0 f) s = .next (moduleReset s .rom true 2) := by
  rw [show exec (.pllLossOfLock 24 10 0 f) s = execPllLossOfLock 24 10 0 f s from rfl, execPllLossOfLock, if_neg own]
  rfl

/-- Any other island that the die has stops. -/
theorem exec_pllLossOfLock_island {s : State} {die isl idx : Nat} (hisl : 3 ≤ isl ∧ isl ≤ 9) (fitted : islandFitted s isl die idx = true) :
    exec (.pllLossOfLock die isl idx f) s = .next (stopIsland s isl die idx) := by
  obtain ⟨hlo, hhi⟩ := hisl
  have h0 : isl ≠ 0 := by omega
  have h1 : isl ≠ 1 := by omega
  have h2 : isl ≠ 2 := by omega
  have h10 : isl ≠ 10 := by omega
  rw [show exec (.pllLossOfLock die isl idx f) s = execPllLossOfLock die isl idx f s from rfl, execPllLossOfLock, if_neg own]
  simp [h0, h1, h2, h10, fitted]

/-- One that is not a video engine's only waits for its restart. -/
theorem exec_pllLossOfLock_stops {s : State} {die isl idx : Nat} (hisl : 3 ≤ isl ∧ isl ≤ 9) (hne : isl ≠ 8)
    (fitted : islandFitted s isl die idx = true) :
    exec (.pllLossOfLock die isl idx f) s = .next { s with islandsDown := insertNat (islKey isl die idx) s.islandsDown } := by
  rw [exec_pllLossOfLock_island own hisl fitted, stopIsland, if_neg hne]

end

theorem islandFitted_compute (s : State) {die isl : Nat} (hdie : die < 24) (h : isl = 3 ∨ isl = 5 ∨ (isl = 4 ∧ stackFitted s.order die = true)) :
    islandFitted s isl die 0 = true := by
  rcases h with rfl | rfl | ⟨rfl, hs⟩
  · simp [islandFitted, hdie]
  · simp [islandFitted, hdie]
  · simp [islandFitted, hs]

theorem islandFitted_io (s : State) {die isl : Nat} (hlo : 24 ≤ die) (hhi : die < 28) (h : isl = 6 ∨ (isl = 9 ∧ s.order = .full)) :
    islandFitted s isl die 0 = true := by
  rcases h with rfl | ⟨rfl, ho⟩
  · simp [islandFitted, hlo, hhi]
  · simp [islandFitted, hlo, hhi, ho]

theorem islandFitted_hostPort (s : State) {die idx : Nat} (hlo : 24 ≤ die) (hhi : die < 28) (hidx : idx < 2) : islandFitted s 7 die idx = true := by
  simp [islandFitted, hlo, hhi, hidx]

theorem islandFitted_video {s : State} {die idx : Nat} (hlo : 24 ≤ die) (hhi : die < 28) (hidx : idx < 2) (ho : s.order = .full) :
    islandFitted s 8 die idx = true := by
  simp [islandFitted, UnitId.exists_, unitCount, hlo, hhi, hidx, ho]

/-- Control-class flits lost at a router take the compute part. -/
theorem exec_pllLossOfLock_controlFlits (s : State) {die : Nat} (hdie : die < 24) :
    exec (.pllLossOfLock die 5 0 .controlFlits) s = .next (partReset s 2) := by
  have fitted : islandFitted s 5 die 0 = true := islandFitted_compute s hdie (.inr (.inl rfl))
  rw [show exec (.pllLossOfLock die 5 0 .controlFlits) s = execPllLossOfLock die 5 0 .controlFlits s from rfl, execPllLossOfLock, if_pos rfl, fitted]
  rfl

/-! ### The beginning and the end of a reset (R375) -/

/-- A reset that already covers the die is joined. -/
theorem dieReset_of_covered {s : State} {die : Nat} (h : ∃ d ∈ s.resets, resetCovers d die = true) : dieReset s die = s := by
  have hc : (s.resets.any (fun d => resetCovers d die) || decide (24 ≤ die)) = true := by
    rw [List.any_eq_true.mpr h, Bool.true_or]
  rw [dieReset, if_pos hc]

/-- A reset can end: it is in progress, it is not the module's, and the compute part's is not held. -/
theorem reset_can_end {s : State} {d : ResetDomain} (running : d ∈ s.resets) (part : d ≠ .module)
    (free : d = .computePart → s.power.hold = false) :
    (!(s.resets.contains d) || d == .module || (d == .computePart && s.power.hold)) = false := by
  have hheld : (d == .computePart && s.power.hold) = false := by
    rw [Bool.and_eq_false_imp, beq_iff_eq]
    exact free
  rw [List.contains_iff_mem.mpr running, beq_eq_false_iff_ne.mpr part, hheld]
  rfl

/-! ### Restart of an island (R376, R387) -/

/-- What the restart of an island leaves before its outcome is known: its entry in the log, and what it held lost. -/
def restartBegun (s : State) (k : IslandKind) (die idx : Nat) : State :=
  islandLost (s.logRec 0x26 die (if k = .video then 3 else 7) (idx % 16) 0xFF 0 0 2 0xFF 0) k die idx

section
variable {s : State} {k : IslandKind} {die idx : Nat} (present : islandExists s k die idx = true)
include present

theorem exec_islandRestart_ok : exec (.islandRestart k die idx true) s = .next { restartBegun s k die idx with
    islandsDown := (restartBegun s k die idx).islandsDown.filter (· != islKey (islandCode k) die idx) } := by
  rw [show exec (.islandRestart k die idx true) s = execIslandRestart k die idx true s from rfl, execIslandRestart, present]
  rfl

theorem exec_islandRestart_failed :
    let key := islKey (islandCode k) die idx
    let counted := restartFailed (restartBegun s k die idx) key
    exec (.islandRestart k die idx false) s =
      .next (if 2 ≤ NMap.getD counted.restarts key 0 then islandPersistent counted k die idx else counted) := by
  rw [show exec (.islandRestart k die idx false) s = execIslandRestart k die idx false s from rfl, execIslandRestart, present]
  rfl

end

/-! ### The statement -/

/-- Settles O38: each fault by the island it is in, the end of a reset by the condition under which one ends, and a restart by its outcome and the
failed ones counted. -/
theorem unitsDiesAndIslandsAreReset : Obligations.UnitsDiesAndIslandsAreReset := by
  unfold Obligations.UnitsDiesAndIslandsAreReset
  refine ⟨⟨fun s u r run stopping => ⟨fun hk => ?_, fun hk => ?_⟩, fun s die idx f own hdie => ⟨?_, ?_, ?_, fun isl hisl => ?_⟩,
    fun s die idx f own hlo hhi => ⟨fun hidx ho => ?_, fun hidx => ?_, fun isl hisl => ?_⟩, fun s f own => exec_pllLossOfLock_management own s,
    fun s die hdie => exec_pllLossOfLock_controlFlits s hdie, fun s die => dieReset_of_covered, fun s d failed ctrl running part free => ?_⟩,
    fun s k die idx present => ⟨?_, fun few => ?_, fun again => ?_⟩⟩
  · rw [exec_unitStopTimeout run stopping, if_neg hk]
  · rw [exec_unitStopTimeout run stopping, if_pos hk]
  · exact (exec_pllLossOfLock_unit own s hdie).1
  · exact (exec_pllLossOfLock_unit own s hdie).2
  · exact exec_pllLossOfLock_control own s hdie
  · exact exec_pllLossOfLock_stops own (by omega) (by omega) (islandFitted_compute s hdie hisl)
  · rw [exec_pllLossOfLock_island own (by omega) (islandFitted_video hlo hhi hidx ho)]
    rfl
  · exact exec_pllLossOfLock_stops own (by omega) (by omega) (islandFitted_hostPort s hlo hhi hidx)
  · exact exec_pllLossOfLock_stops own (by omega) (by omega) (islandFitted_io s hlo hhi hisl)
  · intro ended tested t
    rw [show exec (.resetComplete d failed ctrl) s = execResetComplete d failed ctrl s from rfl, execResetComplete, reset_can_end running part free]
    rfl
  · exact exec_islandRestart_ok present
  · exact (exec_islandRestart_failed present).trans (congrArg _ (if_neg (Nat.not_le.mpr few)))
  · exact (exec_islandRestart_failed present).trans (congrArg _ (if_pos again))

end Sys2Proof.Machine

/-!
PROOFS. Values the module has after a reset (R26, R58, R288, R375, R414, R415, R420, R440).
-/

namespace Sys2Proof.Machine

theorem nth_replicate_of_lt {α : Type} (d v : α) : ∀ {n k : Nat}, k < n → nth d (List.replicate n v) k = v
  | _ + 1, 0, _ => rfl
  | n + 1, k + 1, h => nth_replicate_of_lt (n := n) (k := k) d v (Nat.lt_of_succ_lt_succ h)

/-- No entry of the tenancy table has been written (R415). -/
theorem tenantBits_reset {k : Nat} (h : k < 16) : tenantBits State.reset k = tenantReset := nth_replicate_of_lt tenantReset tenantReset h

/-- The fields of an entry that has never been written (R415). -/
theorem tenantReset_fields : teValid tenantReset = false ∧ teField tenantReset 534 527 = 1 ∧ teField tenantReset 549 535 = 1024 ∧
    teField tenantReset 557 550 = 16 ∧ teField tenantReset 517 516 = 2 := by
  decide +kernel

/-- The fields of NET (R414). -/
theorem net_reset_fields : State.reset.colyr.net.toNat % 8 = 3 ∧ State.reset.colyr.net.toNat / 2 ^ 4 % 2 ^ 6 = 2 ∧
    State.reset.colyr.net.toNat / 2 ^ 10 % 2 ^ 4 = 1 ∧ State.reset.colyr.net.toNat / 2 ^ 14 % 2 ^ 10 = 30 := by
  decide +kernel

/-- Settles O57: NET and the tenancy table by their fields, the sequence numbers by the entries of a constant list, the rest as `State.reset` gives it. -/
theorem resetValuesOfTheSpec : Obligations.ResetValuesOfTheSpec := by
  unfold Obligations.ResetValuesOfTheSpec
  obtain ⟨llprio, beacon, kaint, hold⟩ := net_reset_fields
  refine ⟨rfl, rfl, rfl, rfl, rfl, rfl, rfl, rfl, llprio, beacon, kaint, hold, rfl, rfl, fun k hk => ?_, fun d hd => nth_replicate_of_lt 1 0 hd⟩
  rw [tenantBits_reset hk]
  exact tenantReset_fields

end Sys2Proof.Machine

/-!
PROOFS. Element-wise operations, reductions, poolings and RAND: what an issue leaves once its descriptors agree and its writes succeed (R38, R45, R198,
R199, R219, R262, R455, R456).
-/

namespace Sys2Proof.Machine

/-! ### Operands found, checks passed, writes done -/

@[simp] theorem tryX_ok {α : Type} (s : State) (a : α) (k : α → Eff) : tryX s (.ok a) k = k a := rfl

theorem check_passed {s : State} {b : Bool} {f : CFault} {k : Unit → Eff} (h : b = true) : check s b f k = k () := by
  rw [check, h, if_pos rfl]

/-- An instruction whose writes succeed goes on, held for the shadow copies they wait for. -/
theorem settle_finishWrites {s' : State} {p : State × Option CFault} (h : p = (s', none)) (u : UnitId) (r r' : Run) (cn : Nat) (ws : List WItem) :
    settle u r (finishWrites p cn ws r') = .next (s'.setRun u (advance (afterWrites (waitPages s' cn ws) r'))) := by
  subst h
  simp [finishWrites, settle, afterWrites, List.isEmpty_iff]

/-- An instruction over an empty source moves on and writes nothing (R89); over any other it ends as its writes do. -/
theorem settle_unless_empty (s s' : State) (u : UnitId) (r r' : Run) (n : Nat) (p : State × Option CFault) (cn : Nat) (ws : List WItem) :
    (n = 0 → settle u r (if n = 0 then .go s r else finishWrites p cn ws r') = .next (s.setRun u (advance r))) ∧
    (n ≠ 0 → p = (s', none) → settle u r (if n = 0 then .go s r else finishWrites p cn ws r') =
      .next (s'.setRun u (advance (afterWrites (waitPages s' cn ws) r')))) := by
  refine ⟨fun h => ?_, fun h written => ?_⟩
  · rw [if_pos h]
    rfl
  · rw [if_neg h, settle_finishWrites written]

theorem itemWrites_append (l m : List (X ((Nat × Bytes) × Flags))) : itemWrites (l ++ m) = itemWrites l ++ itemWrites m := List.map_append

/-- The writes to a destination whose elements have an address each are the ones computed. -/
theorem destItems_of_not_aliased {t : TD} (h : t.aliased = false) (s : State) (ws : List WItem) : destItems s t ws = ws := by
  rw [destItems, h, if_neg Bool.false_ne_true]

/-! ### Element-wise operations (R38, R456) -/

/-- The rows that compute element by element. -/
theorem exec_vecElementwise {i : Instr} {op : Nat} {u : UnitId} (h : (i, op) ∈ [(Instr.vecAdd u, 0), (.vecSub u, 1), (.vecMul u, 2), (.vecFma u, 3),
    (.vecMin u, 4), (.vecMax u, 5), (.vecAbs u, 6), (.vecNeg u, 7)]) (s : State) : exec i s = vecElementwise op u s := by
  simp only [List.mem_cons, Prod.mk.injEq, List.not_mem_nil, or_false] at h
  rcases h with ⟨rfl, rfl⟩ | ⟨rfl, rfl⟩ | ⟨rfl, rfl⟩ | ⟨rfl, rfl⟩ | ⟨rfl, rfl⟩ | ⟨rfl, rfl⟩ | ⟨rfl, rfl⟩ | ⟨rfl, rfl⟩ <;> rfl

/-- An operand that is read only under a condition, and then has the shape of the destination: the second of ADD to MAX unless the scalar stands
in for it, the third of FMA (R456). -/
theorem optional_operand {b : Bool} {x : X TD} {d t : TD} (h : b = true → x = .ok t ∧ sameShape d t = true) :
    (if b then x.map some else .ok none) = .ok (if b then some t else none) ∧ ((if b then some t else none).map (sameShape d)).getD true = true := by
  cases b with
  | false => exact ⟨rfl, rfl⟩
  | true =>
    obtain ⟨hx, hshape⟩ := h rfl
    rw [hx]
    exact ⟨rfl, hshape⟩

/-- What an element-wise operation writes once its operands are found and have the shape of the destination. -/
theorem vecElementwise_of_operands {s : State} {u : UnitId} {r : Run} {c : Ctx} {w : InstrWord} {op : Nat} {d t1 : TD} {o2 o3 : Option TD}
    (issues : Issues s u r c w clVEC op) (hd : vecDest r.T (vTD w) (vRM w) = .ok d) (h1 : vecSource s r.ctx c r.T (vTS1 w) = .ok t1)
    (h2 : (if usesSecond op && !(usesSecond op && vSKEN w) then (vecSource s r.ctx c r.T (vTS2 w)).map some else .ok none) = .ok o2)
    (h3 : (if usesThird op then (vecSource s r.ctx c r.T (vTS3 w)).map some else .ok none) = .ok o3)
    (shape : (sameShape d t1 && (o2.map (sameShape d)).getD true && (o3.map (sameShape d)).getD true) = true) :
    let scalar := if usesSecond op && vSKEN w then some (sreg32 r.S (vSK w)) else none
    let items := (tuples d.exts).map (vecElem s r.ctx c op (vRM w) d t1 o2 scalar o3)
    vecElementwise op u s =
      settle u r (finishWrites (runWrites s r.ctx d false (itemWrites items)) r.ctx (itemWrites items) (r.raise (itemFlags items))) := by
  rw [vecElementwise, issue_executes issues rfl, hd, h1]
  dsimp only [tryX_ok]
  rw [h2, h3]
  dsimp only [tryX_ok]
  rw [check_passed shape]

/-- MIN of two equal numbers; a zero keeps its sign (R38). -/
theorem fmin_self {a : Bits32} (h : isNan32 a = false) : fmin a a = a := by
  have hn : (fp a).isNan = false := h
  simp [fmin, hn]

theorem fmax_self {a : Bits32} (h : isNan32 a = false) : fmax a a = a := by
  have hn : (fp a).isNan = false := h
  simp [fmax, hn]

theorem fmin_nan {a b : Bits32} (h : isNan32 a = true ∨ isNan32 b = true) : fmin a b = nan32 := by
  have hn : ((fp a).isNan || (fp b).isNan) = true := (Bool.or_eq_true _ _).mpr h
  rw [fmin, if_pos hn]

theorem fmax_nan {a b : Bits32} (h : isNan32 a = true ∨ isNan32 b = true) : fmax a b = nan32 := by
  have hn : ((fp a).isNan || (fp b).isNan) = true := (Bool.or_eq_true _ _).mpr h
  rw [fmax, if_pos hn]

/-- Settles O14: the operands that each operation reads, by `optional_operand`, give what it writes; the bit facts come from MIN and MAX as they are
defined and from the masks of the sign. -/
theorem vecElementwiseCompletes : Obligations.VecElementwiseCompletes := by
  unfold Obligations.VecElementwiseCompletes
  refine ⟨?_, fun rm a b c => ⟨fun h => ⟨?_, ?_⟩, fun h => ⟨?_, ?_⟩, fun h => ⟨fmin_self h, fmax_self h⟩, fun h => ⟨fmin_nan h, fmax_nan h⟩⟩⟩
  · intro s s' i u r c w op d t1 t2 t3 row issues hd h1 shape h2 h3 second scalar third items written
    have reads2 : (usesSecond op && !(usesSecond op && vSKEN w)) = true ↔ op ≤ 5 ∧ vSKEN w = false := by
      cases vSKEN w <;> simp [usesSecond]
    have readsScalar : (usesSecond op && vSKEN w) = true ↔ op ≤ 5 ∧ vSKEN w = true := by simp [usesSecond]
    have reads3 : usesThird op = true ↔ op = 3 := by simp [usesThird]
    obtain ⟨e2, shape2⟩ := optional_operand (fun hb => h2 (reads2.mp hb).1 (reads2.mp hb).2)
    obtain ⟨e3, shape3⟩ := optional_operand (fun hb => h3 (reads3.mp hb))
    rw [exec_vecElementwise row, vecElementwise_of_operands issues hd h1 e2 e3 (by rw [shape, shape2, shape3]; rfl)]
    simp only [reads2, readsScalar, reads3]
    exact settle_finishWrites written u r _ r.ctx _
  · exact if_neg (ne_true_of_eq_false h)
  · exact if_neg (ne_true_of_eq_false h)
  · exact if_pos h
  · exact if_pos h

/-! ### Reductions (R45, R199, R219) -/

/-- What a reduction writes once its operands are found and agree. `o3`: the second tensor that STATS writes (R219). -/
theorem vecReduce_of_operands {s : State} {u : UnitId} {r : Run} {c : Ctx} {w : InstrWord} {op : Nat} {d t : TD} {o3 : Option TD}
    (issues : Issues s u r c w clVEC op) (axis : vAXIS w ≤ 5) (hd : vecDest r.T (vTD w) (vRM w) = .ok d)
    (ht : vecSource s r.ctx c r.T (vTS1 w) = .ok t) (h3 : (if op = 0x13 then (vecDest r.T (vTS3 w) (vRM w)).map some else .ok none) = .ok o3)
    (shape : (reducedShape (vAXIS w) d t && (o3.map (fun x => reducedShape (vAXIS w) x t && x.fmt == .fp32)).getD true &&
      (op != 0x13 || d.fmt == .fp32) && (op != 0x14 || d.fmt == .int32)) = true) :
    let one := (tuples d.exts).map (reduceElem s r.ctx c op (vRM w) (vAXIS w) d t false)
    let two := o3.elim [] (fun x => (tuples x.exts).map (reduceElem s r.ctx c op (vRM w) (vAXIS w) x t true))
    let ws := itemWrites one ++ o3.elim [] (fun x => destItems s x (itemWrites two))
    vecReduce op u s = settle u r (if t.count = 0 then .go s r else
      finishWrites (runWrites s r.ctx d false ws) r.ctx ws (r.raise (itemFlags (one ++ two)))) := by
  have fits : axisOk u.kind w = true := decide_eq_true axis
  rw [vecReduce, issue_executes issues fits, hd, ht]
  dsimp only [tryX_ok]
  rw [h3]
  dsimp only [tryX_ok]
  rw [check_passed shape]
  cases o3 <;> rfl

/-- The rows that write one tensor. -/
theorem exec_vecReduce_one {i : Instr} {op : Nat} {u : UnitId}
    (h : (i, op) ∈ [(Instr.rsum u, 0x10), (.rmax u, 0x11), (.rmin u, 0x12), (.vecArgmax u, 0x14)]) (s : State) :
    exec i s = vecReduce op u s ∧ op ≠ 0x13 := by
  simp only [List.mem_cons, Prod.mk.injEq, List.not_mem_nil, or_false] at h
  rcases h with ⟨rfl, rfl⟩ | ⟨rfl, rfl⟩ | ⟨rfl, rfl⟩ | ⟨rfl, rfl⟩ <;> exact ⟨rfl, by decide⟩

section
variable {s : State} {u : UnitId} {r : Run} {c : Ctx} {w : InstrWord} {op : Nat} {d t : TD} (hd : vecDest r.T (vTD w) (vRM w) = .ok d)
  (ht : vecSource s r.ctx c r.T (vTS1 w) = .ok t)
include hd ht

/-- RSUM, RMAX, RMIN and ARGMAX: one tensor is written. -/
theorem vecReduce_one (issues : Issues s u r c w clVEC op) (axis : vAXIS w ≤ 5) (shape : reducedShape (vAXIS w) d t = true) (single : op ≠ 0x13)
    (index : op = 0x14 → d.fmt = .int32) :
    let items := (tuples d.exts).map (reduceElem s r.ctx c op (vRM w) (vAXIS w) d t false)
    vecReduce op u s = settle u r (if t.count = 0 then .go s r else
      finishWrites (runWrites s r.ctx d false (itemWrites items)) r.ctx (itemWrites items) (r.raise (itemFlags items))) := by
  have agrees : (reducedShape (vAXIS w) d t && true && (op != 0x13 || d.fmt == .fp32) && (op != 0x14 || d.fmt == .int32)) = true := by
    simpa [shape, single, or_iff_not_imp_left] using index
  simpa using vecReduce_of_operands (o3 := none) issues axis hd ht (if_neg single) agrees

/-- STATS: two tensors are written (R219). -/
theorem vecReduce_stats {d3 : TD} (issues : Issues s u r c w clVEC 0x13) (axis : vAXIS w ≤ 5) (shape : reducedShape (vAXIS w) d t = true)
    (fmt : d.fmt = .fp32) (h3 : vecDest r.T (vTS3 w) (vRM w) = .ok d3) (shape3 : reducedShape (vAXIS w) d3 t = true) (fmt3 : d3.fmt = .fp32) :
    let one := (tuples d.exts).map (reduceElem s r.ctx c 0x13 (vRM w) (vAXIS w) d t false)
    let two := (tuples d3.exts).map (reduceElem s r.ctx c 0x13 (vRM w) (vAXIS w) d3 t true)
    let ws := itemWrites one ++ destItems s d3 (itemWrites two)
    vecReduce 0x13 u s = settle u r (if t.count = 0 then .go s r else
      finishWrites (runWrites s r.ctx d false ws) r.ctx ws (r.raise (itemFlags (one ++ two)))) := by
  have reads : (if 0x13 = 0x13 then (vecDest r.T (vTS3 w) (vRM w)).map some else .ok none) = .ok (some d3) := by rw [h3]; rfl
  exact vecReduce_of_operands (o3 := some d3) issues axis hd ht reads (by simp [shape, fmt, shape3, fmt3])

end

/-! ### Poolings and RAND (R198, R262) -/

/-- The rows that pool. -/
theorem exec_vecPool {i : Instr} {op : Nat} {u : UnitId} (h : (i, op) ∈ [(Instr.maxpool u, 0x18), (.avgpool u, 0x19)]) (s : State) :
    exec i s = vecPool op u s := by
  simp only [List.mem_cons, Prod.mk.injEq, List.not_mem_nil, or_false] at h
  rcases h with ⟨rfl, rfl⟩ | ⟨rfl, rfl⟩ <;> rfl

/-- What a pooling writes once its operands are found and agree. -/
theorem vecPool_of_operands {s : State} {u : UnitId} {r : Run} {c : Ctx} {w : InstrWord} {op : Nat} {d t : TD}
    (hd : vecDest r.T (vTD w) (vRM w) = .ok d) (ht : vecSource s r.ctx c r.T (vTS1 w) = .ok t) (issues : Issues s u r c w clVEC op)
    (shape : poolShape d t = true) :
    let items := (tuples d.exts).map (poolElem s r.ctx c op w d t)
    vecPool op u s = settle u r (if t.count = 0 then .go s r else
      finishWrites (runWrites s r.ctx d false (itemWrites items)) r.ctx (itemWrites items) (r.raise (itemFlags items))) := by
  rw [vecPool, issue_executes issues rfl, hd, ht]
  dsimp only [tryX_ok]
  rw [check_passed shape]

/-- The write of one element of RAND (R262). -/
def randItem (r : Run) (w : InstrWord) (d : TD) (ix : List Nat) : WItem :=
  .ok (elemWrite d ix ((randBits d.fmt (RM.ofCode (vRM w))
    (randWord (sreg r.S (vSK w)) (BitVec.ofNat 32 (tStep r.desc)) (linearIndex d.exts ix % 2 ^ 64))).getD 0))

/-- What RAND writes into a format that it takes. -/
theorem exec_rand_of_operands {s : State} {u : UnitId} {r : Run} {c : Ctx} {w : InstrWord} {d : TD} (hd : vecDest r.T (vTD w) (vRM w) = .ok d)
    (issues : Issues s u r c w clVEC 0x20) (fmt : (randBits d.fmt .rne 0).isSome = true) :
    let ws := (tuples d.exts).map (randItem r w d)
    exec (.rand u) s = settle u r (finishWrites (runWrites s r.ctx d false ws) r.ctx ws r) := by
  rw [show exec (.rand u) s = execRand u s from rfl, execRand, issue_executes issues rfl, hd]
  dsimp only [tryX_ok]
  rw [check_passed fmt]
  rfl

/-- Settles O15: each kind of row by what it writes once its operands agree; an empty source by `settle_unless_empty`. -/
theorem vecReductionsPoolsAndRandComplete : Obligations.VecReductionsPoolsAndRandComplete := by
  unfold Obligations.VecReductionsPoolsAndRandComplete
  intro s s' u r c w d t ends hd
  refine ⟨fun i op row ht issues axis shape index => ?_, fun d3 ht issues axis shape fmt h3 shape3 fmt3 => ?_,
    fun i op row ht issues shape => ?_, fun issues fmt => ?_⟩
  · obtain ⟨hrow, single⟩ := exec_vecReduce_one row s
    dsimp only [ends]
    rw [hrow, vecReduce_one hd ht issues axis shape single index]
    exact settle_unless_empty ..
  · dsimp only [ends]
    rw [show exec (.vecStats u) s = vecReduce 0x13 u s from rfl, vecReduce_stats hd ht issues axis shape fmt h3 shape3 fmt3, itemWrites_append]
    refine ⟨(settle_unless_empty s s' ..).1, fun ne plain => ?_⟩
    rw [destItems_of_not_aliased plain]
    exact (settle_unless_empty ..).2 ne
  · dsimp only [ends]
    rw [exec_vecPool row, vecPool_of_operands hd ht issues shape]
    exact settle_unless_empty ..
  · intro ws
    rw [exec_rand_of_operands hd issues fmt]
    exact fun written => settle_finishWrites written u r r r.ctx _

end Sys2Proof.Machine

/-!
PROOFS. The completion of a task: its record stays done through the writes and the decrements that follow it (R55, R108, R109, R361).
-/

namespace Sys2Proof.Machine

/-! ### What a store of a task leaves of the units and of the open epoch's tasks -/

/-- The tasks of a context's open epoch. -/
def openTasks (s : State) (cn : Nat) : Option (NMap TaskRec) := (s.ctx? cn).bind (fun c => c.epoch.map (·.tasks))

theorem openTasks_eq_some {s : State} {cn : Nat} {m : NMap TaskRec} : openTasks s cn = some m ↔
    ∃ c e, s.ctx? cn = some c ∧ c.epoch = some e ∧ e.tasks = m := by
  simp [openTasks, Option.bind_eq_some_iff]

theorem openTasks_setCtx (s : State) (cn : Nat) (c : Ctx) : openTasks (s.setCtx cn c) cn = c.epoch.map (·.tasks) := by
  simp [openTasks]

/-- A property that each step of a fold keeps holds where the fold ends. -/
theorem foldE_keeps {ε σ α : Type} {f : σ → α → Except ε σ} {P : σ → Prop} (hf : ∀ s a t, P s → f s a = .ok t → P t) :
    ∀ {l : List α} {s t : σ}, P s → foldE f s l = .ok t → P t
  | [], _, _, hs, h => by
    cases h
    exact hs
  | a :: r, s, t, hs, h => by
    unfold foldE at h
    split at h
    · rename_i s' hstep
      exact foldE_keeps hf (hf s a s' hs hstep) h
    · cases h

/-- Nothing of the units and of the tasks in a context's open epoch has changed. -/
def SameTasks (cn : Nat) (s t : State) : Prop := t.units = s.units ∧ openTasks t cn = openTasks s cn

theorem SameTasks.refl (cn : Nat) (s : State) : SameTasks cn s s := ⟨rfl, rfl⟩

theorem SameTasks.trans {cn : Nat} {s t v : State} (h : SameTasks cn s t) (k : SameTasks cn t v) : SameTasks cn s v :=
  ⟨k.1.trans h.1, k.2.trans h.2⟩

theorem SameTasks.of_ctxs {cn : Nat} {s t : State} (units : t.units = s.units) (ctxs : t.ctxs = s.ctxs) : SameTasks cn s t :=
  ⟨units, by rw [openTasks, openTasks, State.ctx?, State.ctx?, ctxs]⟩

theorem takePage_sameTasks {cn : Nat} {far : Bool} {s t : State} {p : Nat} : ∀ {l : List Nat}, takePage s far l = some (t, p) → SameTasks cn s t
  | [], h => by cases h
  | d :: r, h => by
    unfold takePage at h
    dsimp only at h
    split at h
    · exact takePage_sameTasks h
    · cases h
      cases far <;> exact SameTasks.of_ctxs rfl rfl

theorem makeShadow_sameTasks {s t : State} {cn vp : Nat} (h : makeShadow s cn vp = .ok t) : SameTasks cn s t := by
  unfold makeShadow at h
  split at h
  · cases h
  rename_i c hc
  split at h
  · cases h
  rename_i e he
  split at h
  · cases h
    exact SameTasks.refl cn s
  dsimp only at h
  generalize (if isFar e.phys = true then c.shadowFar else c.shadowNear) = quota at h
  split at h
  · cases h
  split at h
  · cases h
  rename_i s1 p htake
  rw [Except.ok.injEq] at h
  subst h
  refine ⟨(takePage_sameTasks (cn := cn) htake).1, ?_⟩
  rw [openTasks_setCtx, openTasks, hc]
  rfl

theorem prepareWrite_sameTasks {s t : State} {cn va n : Nat} {force : Bool} (h : prepareWrite s cn va n force = .ok t) : SameTasks cn s t := by
  refine foldE_keeps (P := SameTasks cn s) (fun a vp b ha hb => ha.trans ?_) (SameTasks.refl cn s) h
  split at hb
  · cases hb
  split at hb
  · split at hb
    · cases hb
    split at hb
    · cases hb
    · exact makeShadow_sameTasks hb
  · cases hb
    exact SameTasks.refl cn a

theorem putByte_sameTasks {s t : State} {cn va : Nat} {v : Byte} (h : putByte s cn va v = .ok t) : SameTasks cn s t := by
  obtain ⟨c, p, -, -, rfl | ⟨q, -, rfl⟩⟩ := putByte_cases h <;> exact SameTasks.of_ctxs rfl rfl

theorem putBytes_sameTasks : ∀ {bs : Bytes} {s t : State} {cn va : Nat}, putBytes s cn va bs = .ok t → SameTasks cn s t
  | [], s, _, cn, _, h => by
    cases h
    exact SameTasks.refl cn s
  | v :: r, s, t, cn, va, h => by
    unfold putBytes at h
    split at h
    · rename_i s' hbyte
      exact (putByte_sameTasks hbyte).trans (putBytes_sameTasks h)
    · cases h

theorem clearBadLines_sameTasks (s : State) (cn va n : Nat) : SameTasks cn s (clearBadLines s cn va n) := by
  refine ⟨rfl, ?_⟩
  cases hc : s.ctx? cn with
  | none =>
    have hn : NMap.get? s.ctxs cn = none := hc
    simp [clearBadLines, openTasks, State.ctx?, NMap.get?_modify_same, hn]
  | some c =>
    rw [openTasks, openTasks, clearBadLines, State.ctx?_modCtx hc, hc]
    simp only [Option.bind_some, Ctx.modEpoch, Option.map_map]
    rfl

/-- A write of a task touches no unit and no task of the open epoch. -/
theorem taskWrite_sameTasks {s t : State} {cn va : Nat} {bs : Bytes} (h : taskWrite s cn va bs = .ok t) : SameTasks cn s t := by
  unfold taskWrite at h
  split at h
  · cases h
  rename_i s1 hprepare
  split at h
  · cases h
  rename_i s2 hput
  cases h
  exact (prepareWrite_sameTasks hprepare).trans ((putBytes_sameTasks hput).trans (clearBadLines_sameTasks s2 cn va bs.length))

/-! ### A task that is done stays done -/

/-- A task's record as its completion leaves it: done, with the flags of its run (R55, R108). -/
structure DoneAs (r : Run) (x : TaskRec) : Prop where
  status : x.status = .done
  astat : x.astat = r.astat
  user : x.user = r.user
  tbw : x.tbw = r.tbw

theorem TaskRec.finish_doneAs (x : TaskRec) (r : Run) : DoneAs r (x.finish r) := ⟨rfl, rfl, rfl, rfl⟩

theorem TaskRec.ready_of_done {x : TaskRec} (h : x.status = .done) (seq : Nat) : x.ready seq = x := by
  simp [TaskRec.ready, h]

theorem TaskRec.release_of_done {x : TaskRec} (h : x.status = .done) (seq : Nat) : x.release seq = x := by
  simp [TaskRec.release, h]

theorem NMap.get?_map {α : Type} (f : α → α) : ∀ (m : NMap α) (k : Nat), NMap.get? (m.map (fun t => (t.1, f t.2))) k = (NMap.get? m k).map f
  | [], _ => rfl
  | (j, v) :: r, k => by
    have ih := NMap.get?_map f r k
    simp only [List.map_cons, NMap.get?, ih]
    split
    · rfl
    · split <;> rfl

/-- The release of the BND task leaves every record that is done. -/
theorem get?_releaseBnd_of_done {e : Epoch} {k : Nat} {x : TaskRec} (h : NMap.get? e.tasks k = some x) (done : x.status = .done) :
    NMap.get? (releaseBnd e).tasks k = some x := by
  unfold releaseBnd
  split
  · rw [NMap.get?_map (fun t : TaskRec => if tBnd t.desc then t.ready e.readyCount else t), h, Option.map_some, TaskRec.ready_of_done done, ite_self]
  · exact h

/-- The units are the given ones, and the task of the open epoch is done. -/
def TaskIsDone (us : NMap Run) (cn : Nat) (r : Run) (s : State) : Prop :=
  s.units = us ∧ ∃ m x, openTasks s cn = some m ∧ NMap.get? m r.task = some x ∧ DoneAs r x

theorem TaskIsDone.of_sameTasks {us : NMap Run} {cn : Nat} {r : Run} {s t : State} (h : TaskIsDone us cn r s) (same : SameTasks cn s t) :
    TaskIsDone us cn r t := by
  rw [TaskIsDone, same.1, same.2]
  exact h

/-- A decrement changes no task that is done. -/
theorem TaskIsDone.decrement {us : NMap Run} {cn i : Nat} {r : Run} {s t : State} (h : TaskIsDone us cn r s) (hd : decrement s cn i = .ok t) :
    TaskIsDone us cn r t := by
  have before := h
  obtain ⟨units, m, x, htasks, hx, done⟩ := h
  obtain ⟨c, e, hc, he, rfl⟩ := openTasks_eq_some.mp htasks
  rw [Machine.decrement, hc] at hd
  dsimp only at hd
  rw [he] at hd
  dsimp only at hd
  split at hd
  · cases hd
    exact before
  split at hd
  · cases hd
    refine ⟨units, _, x, openTasks_setCtx .., ?_, done⟩
    by_cases hi : r.task = i
    · rw [← hi, NMap.get?_modify_same, hx, Option.map_some, TaskRec.release_of_done done.status]
    · rw [NMap.get?_modify_ne _ _ _ _ hi, hx]
  split at hd
  · cases hd
  · exact before.of_sameTasks (taskWrite_sameTasks hd)

/-! ### The completion -/

theorem takeRequest_epoch (c : Ctx) (e : Epoch) (r : Run) : (takeRequest c e r).epoch = c.epoch := by
  unfold takeRequest
  split <;> rfl

/-- The state in which the record of a completed task is written: its record done, its unit free. -/
def recordedDone (s : State) (u : UnitId) (r : Run) (c : Ctx) (e : Epoch) (x : TaskRec) : State :=
  (s.setCtx r.ctx { c with epoch := some { e with tasks := NMap.set e.tasks r.task (x.finish r) } }).freeUnit u

theorem recordedDone_taskIsDone (s : State) (u : UnitId) (r : Run) (c : Ctx) (e : Epoch) (x : TaskRec) :
    TaskIsDone (NMap.erase s.units u.key) r.ctx r (recordedDone s u r c e x) :=
  ⟨rfl, _, x.finish r, openTasks_setCtx .., NMap.get?_set_same .., x.finish_doneAs r⟩

section
variable {s s2 s3 : State} {u : UnitId} {r : Run} {c : Ctx} {e : Epoch} {x : TaskRec} {succ : List Nat}
  (written : taskWrite (recordedDone s u r c e x) r.ctx (e.carr + 16 * r.task) (toBytes 16 (doneRecord r x.demoted)) = .ok s2)
  (succs : readSucc s2 r.ctx c x.desc = .ok succ) (released : foldE (fun s i => decrement s r.ctx i) s2 succ = .ok s3)
include written succs released

theorem completeTask_of_writes {c3 : Ctx} {e3 : Epoch} (hc : s3.ctx? r.ctx = some c3) (he : c3.epoch = some e3) :
    let e' := releaseBnd { e3 with readyCount := e3.readyCount + 1 }
    (completeTask s u r c e x).units = s3.units ∧
      (completeTask s u r c e x).ctx? r.ctx = some (takeRequest { c3 with epoch := some e' } e' r) := by
  have written' := written
  unfold recordedDone at written'
  rw [completeTask]
  dsimp only
  rw [written']
  dsimp only
  rw [succs]
  dsimp only
  rw [released]
  refine ⟨rfl, (State.ctx?_modCtx hc).trans ?_⟩
  rw [he]

/-- What a completion leaves: the unit free, the task done in the open epoch. -/
theorem completeTask_taskIsDone : TaskIsDone (NMap.erase s.units u.key) r.ctx r (completeTask s u r c e x) := by
  have before : TaskIsDone (NMap.erase s.units u.key) r.ctx r s2 := (recordedDone_taskIsDone s u r c e x).of_sameTasks (taskWrite_sameTasks written)
  have after : TaskIsDone (NMap.erase s.units u.key) r.ctx r s3 := foldE_keeps (fun _ _ _ h hd => h.decrement hd) before released
  obtain ⟨units, m, y, htasks, hy, done⟩ := after
  obtain ⟨c3, e3, hc, he, rfl⟩ := openTasks_eq_some.mp htasks
  obtain ⟨hunits, hctx⟩ := completeTask_of_writes written succs released hc he
  exact ⟨hunits.trans units, _, y, openTasks_eq_some.mpr ⟨_, _, hctx, takeRequest_epoch .., rfl⟩, get?_releaseBnd_of_done hy done.status, done⟩

end

/-- A task that has ended and whose groups have retired can complete. -/
theorem ended_and_retired {r : Run} (ended : r.phase = .halting ∨ r.phase = .handing) (retired : groupsDone r 15 = true) :
    ¬ (!(r.phase == .halting || r.phase == .handing) || !(groupsDone r 15)) = true := by
  rw [retired]
  rcases ended with h | h <;> rw [h] <;> decide

section
variable {s : State} {u : UnitId} {r : Run} {c : Ctx} (run : s.run? u = some r) (hc : s.ctx? r.ctx = some c)
include run hc

/-- A bitstream that the host has not acknowledged keeps its task (R361). -/
theorem exec_taskComplete_unacked (bits : writesBitstream s r c = true) : exec (.taskComplete u false) s = .next s := by
  rw [show exec (.taskComplete u false) s = execTaskComplete u false s from rfl, execTaskComplete, run]
  simp [hc, bits]

/-- Any other task of the attempt completes. -/
theorem exec_taskComplete_completes {acked : Bool} {e : Epoch} {x : TaskRec} (ended : r.phase = .halting ∨ r.phase = .handing)
    (retired : groupsDone r 15 = true) (he : c.epoch = some e) (hx : NMap.get? e.tasks r.task = some x) (att : r.att = e.attempt)
    (opened : e.phase = .open) (acknowledged : (!acked && writesBitstream s r c) = false) :
    exec (.taskComplete u acked) s = .next (completeTask s u r c e x) := by
  rw [show exec (.taskComplete u acked) s = execTaskComplete u acked s from rfl, execTaskComplete, run]
  dsimp only
  rw [if_neg (ended_and_retired ended retired)]
  simp [hc, he, hx, att, opened, acknowledged]

end

/-- Settles O26: a completion by `completeTask_taskIsDone`, and an unacknowledged bitstream by `exec_taskComplete_unacked`. -/
theorem taskCompletionFreesTheUnit : Obligations.TaskCompletionFreesTheUnit := by
  unfold Obligations.TaskCompletionFreesTheUnit
  intro s s2 s3 u r c e x succ run ended retired hc he hx att opened written succs released
  have completes {acked : Bool} := exec_taskComplete_completes (acked := acked) run hc ended retired he hx att opened
  obtain ⟨units, m, y, htasks, hy, done⟩ := completeTask_taskIsDone written succs released
  obtain ⟨c', e', hc', he', rfl⟩ := openTasks_eq_some.mp htasks
  exact ⟨exec_taskComplete_unacked run hc, _, c', e', y, completes rfl, fun plain => completes (by rw [plain, Bool.and_false]),
    units, hc', he', hy, done.status, done.astat, done.user, done.tbw⟩

end Sys2Proof.Machine

/-!
PROOFS. The commit of a boundary, and what closing an epoch leaves (R57, R114, R131, R239, R315, R454).
-/

namespace Sys2Proof.Machine

/-- A ready boundary whose open units commit goes through its steps in their order. -/
theorem commitBoundary_of_ready {s s1 : State} {cn : Nat} {c : Ctx} {e : Epoch} (hc : s.ctx? cn = some c) (he : c.epoch = some e)
    (ready : boundaryReady s cn c e = true) (units : commitUnits (updateSlots s cn) cn e.openUnits = .ok s1) :
    let applied := c.taken.foldl (applyRequest cn) (s1, [])
    let closed := replan (packPool (closeEpoch (commitShadows (evictMarked applied.1 cn) cn) cn e) cn) cn
    let told := applied.2.foldl (fun s r => postOpen s cn 0x04 r.2 r.1) closed
    commitBoundary s cn =
      resumeTaken (selectEvictions (if e.cqe then post told cn (iterationRecord e) else told) cn) cn (c.taken.zip applied.2) := by
  have go : ¬ (!boundaryReady s cn c e) = true := by simp [ready]
  rw [commitBoundary, hc]
  dsimp only
  rw [he]
  dsimp only
  rw [if_neg go, units]

theorem closeEpoch_mem (s : State) (cn : Nat) (e : Epoch) : (closeEpoch s cn e).mem = s.mem := rfl

/-- Settles O27: the commit by `commitBoundary_of_ready`; the closed epoch by the context that `closeEpoch` stores. -/
theorem boundaryCommitsInOrder : Obligations.BoundaryCommitsInOrder := by
  unfold Obligations.BoundaryCommitsInOrder
  refine ⟨fun s s1 cn c e hc he ready units => ?_, fun s cn c e hc => ?_⟩
  · rw [show exec (.boundaryCommit cn) s = execBoundaryCommit cn s from rfl, execBoundaryCommit, commitBoundary_of_ready hc he ready units]
  · exact ⟨_, State.ctx?_modCtx hc, rfl, rfl, rfl, rfl, rfl, rfl, rfl, rfl, rfl, closeEpoch_mem s cn e⟩

end Sys2Proof.Machine

/-!
PROOFS. Issue of the rows of instructions: the checks on the word, the scalar instructions, loops and branches (R65 to R68, R72 to R77).
-/

namespace Sys2Proof.Machine

/-! ### What every row of instructions shares -/

/-- Each row that is the issue of an instruction is an issue event with the unit, class, operation and word-only check of its row (R66). -/
theorem exec_of_issueRow {i : Instr} {u : UnitId} {cl op : Nat} {st : UnitKind → InstrWord → Bool} (h : issueRow i = some (u, cl, op, st)) :
    ∃ body, ∀ s, exec i s = issue s u cl op st body := by
  cases i <;> cases h <;>
    simp only [exec, execCopy, execFill, execHostrd, execHostwr, execGather, issueMove, execVecAdd, execVecSub, execVecMul, execVecFma, execVecMin,
      execVecMax, execVecAbs, execVecNeg, vecElementwise, execRsum, execRmax, execRmin, execVecStats, execVecArgmax, vecReduce, execMaxpool,
      execAvgpool, vecPool] <;>
    exact ⟨_, fun _ => rfl⟩

/-- A unit whose task runs in a context it has is ready to issue. -/
theorem issuing_of_running {s : State} {u : UnitId} {r : Run} {c : Ctx} (run : s.run? u = some r) (running : r.phase = .running)
    (hc : s.ctx? r.ctx = some c) : issuing s u = some (r, c) := by
  simp [issuing, run, running, hc]

/-- The words that no row stands for (R66, R67). -/
theorem reservedWord_of_outside {k : UnitKind} {w : InstrWord}
    (h : 9 < wClass w ∨ classAllowed k (wClass w) = false ∨ opDefined (wClass w) (wOp w) = false ∨ wIver w ≠ 0) : reservedWord k w = true := by
  unfold reservedWord
  rcases h with h | h | h | h
  · simp [clPUSH, Nat.not_le.mpr h]
  all_goals simp [h]

theorem pcInside_of_outside {r : Run} (h : r.pc < tProg r.desc ∨ tProg r.desc + 16 * tPlen r.desc ≤ r.pc) : pcInside r = false := by
  unfold pcInside
  rcases h with h | h <;> simp [Nat.not_le.mpr, Nat.not_lt.mpr, h]

/-- Settles O2: the clauses on the rows by the three ends of an issue event, the other two by what an unready word and a PC out of bounds do. -/
theorem checksComeBeforeThePredicate : Obligations.ChecksComeBeforeThePredicate := by
  unfold Obligations.ChecksComeBeforeThePredicate
  refine ⟨fun s i u cl op st r c w row at' passes off => ?_, fun s i u cl op st r c w row at' fails => ?_,
    fun s u r c w run running hc inside fetched outside => ?_, fun s u r c run running hc outside => ?_⟩
  · obtain ⟨body, hexec⟩ := exec_of_issueRow row
    rw [hexec, issue_predicated_off at' passes off]
  · obtain ⟨body, hexec⟩ := exec_of_issueRow row
    rw [hexec, issue_static_fails at' fails]
  · rw [show exec (.reservedInstruction u) s = execReservedInstruction u s from rfl, execReservedInstruction, issuing_of_running run running hc]
    simp [inside, fetched, reservedWord_of_outside outside]
  · rw [show exec (.programBoundsFetch u) s = execProgramBoundsFetch u s from rfl, execProgramBoundsFetch, issuing_of_running run running hc]
    simp [pcInside_of_outside outside]

/-! ### Registers (R68) -/

@[simp] theorem sreg_zero (S : List Word64) : sreg S 0 = 0 := rfl
@[simp] theorem setS_zero (S : List Word64) (v : Word64) : setS S 0 v = S := rfl
@[simp] theorem preg_zero (P : List Bool) : preg P 0 = true := rfl
@[simp] theorem setP_zero (P : List Bool) (v : Bool) : setP P 0 v = P := rfl

theorem setS_of_ne {i : Nat} (h : i ≠ 0) (S : List Word64) (v : Word64) : setS S i v = setNth S i v := if_neg h
theorem setP_of_ne {i : Nat} (h : i ≠ 0) (P : List Bool) (v : Bool) : setP P i v = setNth P i v := if_neg h
theorem sreg_of_ne {i : Nat} (h : i ≠ 0) (S : List Word64) : sreg S i = nth 0 S i := if_neg h
theorem preg_of_ne {i : Nat} (h : i ≠ 0) (P : List Bool) : preg P i = nth false P i := if_neg h

/-- S[i] reads as written (R68). -/
theorem sreg_setS_same {S : List Word64} {i : Nat} (h : i ≠ 0) (hl : i < S.length) (v : Word64) : sreg (setS S i v) i = v := by
  rw [setS_of_ne h, sreg_of_ne h, nth_setNth_same 0 S i v hl]

/-- Any other register keeps its value. -/
theorem sreg_setS_ne {i j : Nat} (h : i ≠ j) (S : List Word64) (v : Word64) : sreg (setS S i v) j = sreg S j := by
  by_cases hi : i = 0
  · rw [hi, setS_zero]
  · rw [setS_of_ne hi, sreg, sreg, nth_setNth_ne 0 S i j v h]

theorem nth_append_left {α : Type} (d : α) : ∀ {l : List α} (m : List α) {i : Nat}, i < l.length → nth d (l ++ m) i = nth d l i
  | _ :: _, _, 0, _ => rfl
  | _ :: l, m, _ + 1, h => nth_append_left d (l := l) m (Nat.lt_of_succ_lt_succ h)

theorem nth_append_right {α : Type} (d : α) : ∀ (l m : List α) (i : Nat), nth d (l ++ m) (l.length + i) = nth d m i
  | [], _, _ => by rw [List.nil_append, List.length_nil, Nat.zero_add]
  | _ :: l, m, i => by
    rw [List.length_cons, Nat.add_right_comm]
    exact nth_append_right d l m i

/-- A list of one value reads as that value, also past its end when the value is the default. -/
theorem nth_replicate_self {α : Type} (d : α) : ∀ n i : Nat, nth d (List.replicate n d) i = d
  | 0, _ => rfl
  | _ + 1, 0 => rfl
  | n + 1, i + 1 => nth_replicate_self d n i

section
variable {cn task att : Nat} {bind : List Word64} {x : TaskRec} {table : List (Option (BitVec 512))}

/-- S1 to S16 hold the binding record (R68). -/
theorem sreg_startRun_bind (hb : bind.length = 16) {i : Nat} (lo : 1 ≤ i) (hi : i ≤ 16) :
    sreg (startRun cn task att bind x table).S i = nth 0 bind (i - 1) := by
  obtain ⟨k, rfl⟩ : ∃ k, i = k + 1 := ⟨i - 1, by omega⟩
  exact (sreg_of_ne k.succ_ne_zero _).trans (nth_append_left 0 _ (by omega))

/-- The registers above them hold zero. -/
theorem sreg_startRun_rest (hb : bind.length = 16) {i : Nat} (lo : 17 ≤ i) : sreg (startRun cn task att bind x table).S i = 0 := by
  obtain ⟨k, rfl⟩ : ∃ k, i = bind.length + k + 1 := ⟨i - 17, by omega⟩
  exact (sreg_of_ne (Nat.succ_ne_zero _) _).trans ((nth_append_right 0 bind _ k).trans (nth_replicate_self 0 15 k))

theorem areg_startRun_rest {i : Nat} (lo : 1 ≤ i) : areg (startRun cn task att bind x table).A i = 0 := by
  obtain ⟨k, rfl⟩ : ∃ k, i = k + 1 := ⟨i - 1, by omega⟩
  exact nth_replicate_self 0 15 k

theorem preg_startRun_rest {i : Nat} (lo : 1 ≤ i) : preg (startRun cn task att bind x table).P i = false := by
  obtain ⟨k, rfl⟩ : ∃ k, i = k + 1 := ⟨i - 1, by omega⟩
  exact (preg_of_ne k.succ_ne_zero _).trans (nth_replicate_self false 7 k)

end

/-- Settles O6: the hard-wired registers by their cases, the start of a task register by register. -/
theorem registersHardWiredAndAtStart : Obligations.RegistersHardWiredAndAtStart := by
  unfold Obligations.RegistersHardWiredAndAtStart
  refine ⟨⟨fun S v => ⟨setS_zero S v, sreg_zero S⟩, fun P v => ⟨setP_zero P v, preg_zero P⟩, fun S i v h hl => sreg_setS_same h hl v,
    fun S i j v h => sreg_setS_ne h S v⟩, fun cn task att bind x table hb => ?_⟩
  exact ⟨fun i lo hi => sreg_startRun_bind hb lo hi, fun i lo _ => sreg_startRun_rest hb lo, rfl, rfl, fun i lo => areg_startRun_rest lo, rfl,
    fun i lo _ => preg_startRun_rest lo, rfl, fun i _ => nth_replicate_self none 8 i, fun i _ => nth_replicate_self none 4 i, rfl, rfl, rfl⟩

end Sys2Proof.Machine

/-!
PROOFS. The scalar instructions of the CTRL class: what each leaves once it executes (R72 to R76).
-/

namespace Sys2Proof.Machine

/-! ### Addresses and sums of R72 and R73 -/

/-- An immediate, read as two's complement and added modulo 2^48, adds as the number its bits spell. -/
theorem wrap48_add_signed64 (a x k : Nat) : wrap 48 ((a : Int) + k * signed 64 x) = (a + k * x) % 2 ^ 48 := by
  have hs : (k : Int) * signed 64 x % ((2 ^ 48 : Nat) : Int) = (k : Int) * x % ((2 ^ 48 : Nat) : Int) := by
    unfold signed
    split
    · rfl
    · rw [Int.mul_sub, show ((2 ^ 64 : Nat) : Int) = ((2 ^ 48 : Nat) : Int) * 2 ^ 16 by norm_num, Int.mul_left_comm,
        Int.sub_mul_emod_self_left]
  unfold wrap
  rw [Int.add_emod, hs, ← Int.add_emod]
  norm_cast

/-- AX + IMM modulo 2^48 (R73). -/
theorem axImm_eq (r : Run) (w : InstrWord) : axImm r w = (areg r.A (fAX w) + fIMM w) % 2 ^ 48 := by
  simpa [axImm] using wrap48_add_signed64 (areg r.A (fAX w)) (fIMM w) 1

/-- The same with bits [2:0] ignored. -/
theorem axWord_eq (r : Run) (w : InstrWord) :
    axWord r w = (areg r.A (fAX w) + fIMM w) % 2 ^ 48 - (areg r.A (fAX w) + fIMM w) % 2 ^ 48 % 8 := by
  rw [axWord, axImm_eq]

/-! ### Registers alone (R73) -/

section
variable {s : State} {u : UnitId} {r : Run} {c : Ctx} {w : InstrWord}

theorem exec_nop (h : Issues s u r c w clCTRL 0x00) : exec (.nop u) s = .next (s.setRun u (advance r)) := by
  rw [show exec (.nop u) s = execNop u s from rfl, execNop, issue_executes h rfl, settle]

theorem exec_signal (h : Issues s u r c w clCTRL 0x05) :
    exec (.signal u) s = .next (s.setRun u (advance { r with user := sreg32 r.S (fSA w) })) := by
  rw [show exec (.signal u) s = execSignal u s from rfl, execSignal, issue_executes h rfl, settle]

theorem exec_sli (h : Issues s u r c w clCTRL 0x07) :
    exec (.sli u) s = .next (s.setRun u (advance { r with S := setS r.S (fSD w) (BitVec.ofNat 64 (fIMM w)) })) := by
  rw [show exec (.sli u) s = execSli u s from rfl, execSli, issue_executes h rfl, settle]

theorem exec_wrsr (h : Issues s u r c w clCTRL 0x0A) :
    exec (.wrsr u) s = .next (s.setRun u (advance (r.clearFlags (sreg32 r.S (fSA w))))) := by
  rw [show exec (.wrsr u) s = execWrsr u s from rfl, execWrsr, issue_executes h rfl, settle]

theorem exec_aset (h : Issues s u r c w clCTRL 0x0D) :
    let v := ((if fSUB w % 2 = 1 then (sreg r.S (fSA w)).toNat else areg r.A (fAX w)) + fIMM w) % 2 ^ 48
    exec (.aset u) s = .next (s.setRun u (advance { r with A := setNth r.A (fAX w) v })) := by
  have sum := fun base : Nat => wrap48_add_signed64 base (fIMM w) 1
  simp only [Nat.cast_one, one_mul] at sum
  rw [show exec (.aset u) s = execAset u s from rfl, execAset, issue_executes h rfl]
  dsimp only
  rw [settle, sum]

theorem exec_aget (h : Issues s u r c w clCTRL 0x0E) :
    exec (.aget u) s = .next (s.setRun u (advance { r with S := setS r.S (fSD w) (BitVec.ofNat 64 (areg r.A (fAX w))) })) := by
  rw [show exec (.aget u) s = execAget u s from rfl, execAget, issue_executes h rfl, settle]

end

/-- Settles O3: each row by the effect of its body; the bits that WRSR clears by those of the complement. -/
theorem scalarRegisterInstructionsComplete : Obligations.ScalarRegisterInstructionsComplete := by
  unfold Obligations.ScalarRegisterInstructionsComplete
  refine fun s u r c w => ⟨exec_nop, exec_signal, exec_sli, fun h => ⟨_, fun k hk => ?_, exec_wrsr h⟩, exec_aset, exec_aget⟩
  simp [sreg32, hk]

/-! ### SALU and SCMP (R74) -/

section
variable {s : State} {u : UnitId} {r : Run} {c : Ctx} {w : InstrWord}

theorem exec_salu (h : Issues s u r c w clCTRL 0x06) (sub : fSUB w ≤ 0xC) :
    exec (.salu u) s = .next (s.setRun u (advance { r with
      S := setS r.S (fSD w) (saluOp (fSUB w) (sreg r.S (fSA w)) (operand2 r w)) })) := by
  rw [show exec (.salu u) s = execSalu u s from rfl, execSalu, issue_executes h (by simpa using sub), settle]

theorem exec_salu_reserved (h : AtPc s u r c w clCTRL 0x06) (sub : 0xC < fSUB w) :
    exec (.salu u) s = .next (unitFault s u r .illegalInstruction (pcIndex r)) := by
  rw [show exec (.salu u) s = execSalu u s from rfl, execSalu, issue_static_fails h (by simpa using sub)]

theorem exec_scmp (h : Issues s u r c w clCTRL 0x08) (sub : fSUB w ≤ 0x8) (dest : fSD w % 8 ≠ 0) :
    exec (.scmp u) s = .next (s.setRun u (advance { r with P := setNth r.P (fSD w % 8) (scmpOp r w) })) := by
  rw [show exec (.scmp u) s = execScmp u s from rfl, execScmp, issue_executes h (by simp [sub, dest]), settle, setP_of_ne dest]

theorem exec_scmp_reserved (h : AtPc s u r c w clCTRL 0x08) (bad : 0x8 < fSUB w ∨ fSD w % 8 = 0) :
    exec (.scmp u) s = .next (unitFault s u r .illegalInstruction (pcIndex r)) := by
  have fails : (decide (fSUB w ≤ 0x8) && fSD w % 8 != 0) = false := by
    rcases bad with bad | bad
    · simp [Nat.not_le.mpr bad]
    · simp [bad]
  rw [show exec (.scmp u) s = execScmp u s from rfl, execScmp, issue_static_fails h fails]

end

/-- The arithmetic shift right divides, rounding down. -/
theorem toInt_saluOp_sra (a b : Word64) : (saluOp 0x8 a b).toInt = a.toInt / (2 ^ (b.toNat % 64) : Nat) := by
  rw [show saluOp 0x8 a b = a.sshiftRight (b.toNat % 64) from rfl, BitVec.toInt_sshiftRight, Int.shiftRight_eq_div_pow]

/-- The choice of the smaller of two numbers, however they are compared. -/
theorem apply_pick_min {α β : Type} [LinearOrder β] (f : α → β) {a b : α} {p : Prop} [Decidable p] (h : p ↔ f b < f a) :
    f (if p then b else a) = min (f a) (f b) := by
  rw [min_comm, min_def_lt, apply_ite f]
  simp only [h]

/-- The choice of the larger one. -/
theorem apply_pick_max {α β : Type} [LinearOrder β] (f : α → β) {a b : α} {p : Prop} [Decidable p] (h : p ↔ f a < f b) :
    f (if p then b else a) = max (f a) (f b) := by
  rw [max_def_lt, apply_ite f]
  simp only [h]

theorem toNat_saluOp_sub (a b : Word64) : (saluOp 0x1 a b).toNat = (2 ^ 64 + a.toNat - b.toNat) % 2 ^ 64 := by
  rw [show saluOp 0x1 a b = a - b from rfl, BitVec.toNat_sub, Nat.sub_add_comm b.isLt.le]

theorem toNat_saluOp_shl (a b : Word64) : (saluOp 0x6 a b).toNat = a.toNat * 2 ^ (b.toNat % 64) % 2 ^ 64 := by
  rw [show saluOp 0x6 a b = a <<< (b.toNat % 64) from rfl, BitVec.toNat_shiftLeft, Nat.shiftLeft_eq]

theorem toNat_saluOp_shr (a b : Word64) : (saluOp 0x7 a b).toNat = a.toNat / 2 ^ (b.toNat % 64) := by
  rw [show saluOp 0x7 a b = a >>> (b.toNat % 64) from rfl, BitVec.toNat_ushiftRight, Nat.shiftRight_eq_div_pow]

/-- Settles O4: the two executions and the two refusals; each operation by the fact about its bit vectors. -/
theorem saluAndScmpComputeTheListedOperation : Obligations.SaluAndScmpComputeTheListedOperation := by
  unfold Obligations.SaluAndScmpComputeTheListedOperation
  refine ⟨fun s u r c w => ⟨fun h sub => ⟨_, exec_salu h sub, ?_⟩, exec_salu_reserved⟩,
    fun s u r c w => ⟨fun h sub dest => ⟨_, exec_scmp h sub dest, ?_⟩, exec_scmp_reserved⟩⟩
  · intro a b
    rw [show operand2 r w = b from rfl]
    refine ⟨?_, ?_, ?_, ?_, ?_, ?_, ?_, ?_, ?_, ?_, ?_, ?_, ?_⟩ <;> intro sub <;> rw [sub]
    case refine_1 => exact BitVec.toNat_add a b
    case refine_2 => exact toNat_saluOp_sub a b
    case refine_3 => exact BitVec.toNat_mul a b
    case refine_4 => exact fun k _ => BitVec.getLsbD_and
    case refine_5 => exact fun k _ => BitVec.getLsbD_or
    case refine_6 => exact fun k _ => BitVec.getLsbD_xor
    case refine_7 => exact toNat_saluOp_shl a b
    case refine_8 => exact toNat_saluOp_shr a b
    case refine_9 => exact toInt_saluOp_sra a b
    case refine_10 => exact apply_pick_min BitVec.toInt BitVec.slt_iff_toInt_lt
    case refine_11 => exact apply_pick_max BitVec.toInt BitVec.slt_iff_toInt_lt
    case refine_12 => exact apply_pick_min BitVec.toNat BitVec.lt_def
    case refine_13 => exact apply_pick_max BitVec.toNat BitVec.lt_def
  · refine ⟨?_, ?_, ?_, ?_, ?_, ?_, ?_, ?_, ?_⟩ <;> intro sub <;> rw [scmpOp, sub]
    case refine_1 => exact beq_iff_eq
    case refine_2 => exact bne_iff_ne
    case refine_3 => exact BitVec.slt_iff_toInt_lt
    case refine_4 => exact BitVec.sle_iff_toInt_le
    case refine_5 => exact decide_eq_true_iff.trans BitVec.lt_def
    case refine_6 => exact decide_eq_true_iff.trans BitVec.le_def
    all_goals rfl

/-! ### RDSR (R76) -/

section
variable {s : State} {u : UnitId} {r : Run} {c : Ctx} {w : InstrWord}

theorem exec_rdsr (h : Issues s u r c w clCTRL 0x09) (sel : fIMM w % 256 ≤ 7) :
    exec (.rdsr u) s = .next (s.setRun u (advance { r with S := setS r.S (fSD w) (specialReg r (fIMM w % 256)) })) := by
  rw [show exec (.rdsr u) s = execRdsr u s from rfl, execRdsr, issue_executes h (by simpa using sel), settle]

theorem exec_rdsr_reserved (h : AtPc s u r c w clCTRL 0x09) (sel : 7 < fIMM w % 256) :
    exec (.rdsr u) s = .next (unitFault s u r .illegalInstruction (pcIndex r)) := by
  rw [show exec (.rdsr u) s = execRdsr u s from rfl, execRdsr, issue_static_fails h (by simpa using sel)]

end

/-- The iteration of the loop at a depth; zero where no loop is. -/
theorem specialReg_loop (r : Run) (d : Nat) : specialReg r (4 + d) = ((r.loops.reverse[d]?).map (fun l => BitVec.ofNat 64 l.iter)).getD 0 := by
  have h : specialReg r (d + 4) = match r.loops.reverse[d + 4 - 4]? with
    | some l => BitVec.ofNat 64 l.iter
    | none => 0 := rfl
  rw [Nat.add_comm, h, Nat.add_sub_cancel]
  cases r.loops.reverse[d]? <;> rfl

/-- Settles O5: the execution and the refusal; the loop registers by `specialReg_loop`. -/
theorem rdsrReadsTheSpecialRegisters : Obligations.RdsrReadsTheSpecialRegisters := by
  unfold Obligations.RdsrReadsTheSpecialRegisters
  refine fun s u r c w => ⟨fun h sel => ⟨_, exec_rdsr h sel, ?_, ?_, ?_, ?_, ?_, ?_⟩, exec_rdsr_reserved⟩
  case refine_1 => intro h0; rw [h0]; exact BitVec.toNat_setWidth_of_le (by decide)
  case refine_2 => intro h1; rw [h1, specialReg]
  case refine_3 => intro h2; rw [h2, specialReg]
  case refine_4 => intro h3; rw [h3, specialReg]
  case refine_5 =>
    intro d l hd hl
    rw [hd, specialReg_loop, hl]
    rfl
  case refine_6 =>
    intro d hd hl
    rw [hd, specialReg_loop, List.getElem?_eq_none (by simpa using hl)]
    rfl

end Sys2Proof.Machine

/-!
PROOFS. Branches and loops, loads, waits and the ends of programs, and held units that go on (R69, R73, R75, R77, R114, R123, R174).
-/

namespace Sys2Proof.Machine

/-! ### Branches and loops (R73, R75) -/

/-- A branch target lies in the body of a loop. -/
def LoopEntry.covers (l : LoopEntry) (pc : Nat) : Bool := decide (l.start ≤ pc) && decide (pc < l.start + 16 * l.len)

theorem LoopEntry.covers_iff {l : LoopEntry} {pc : Nat} : l.covers pc = true ↔ l.start ≤ pc ∧ pc < l.start + 16 * l.len := by
  rw [covers, Bool.and_eq_true, decide_eq_true_iff, decide_eq_true_iff]

/-- A branch splits the loops in those it leaves, up to the outermost one whose body does not hold the target, and those it stays in (R75). -/
theorem leaveLoops_splits (pc : Nat) (l : List LoopEntry) : ∃ inner, l = inner ++ leaveLoops pc l ∧
    (∀ x ∈ leaveLoops pc l, x.covers pc = true) ∧ ∀ x, inner.getLast? = some x → x.covers pc = false := by
  have hl : leaveLoops pc l = (l.reverse.takeWhile (fun x => x.covers pc)).reverse := rfl
  refine ⟨(l.reverse.dropWhile (fun x => x.covers pc)).reverse, ?_, fun x hx => ?_, fun x hx => ?_⟩
  · rw [hl, ← List.reverse_append, List.takeWhile_append_dropWhile, List.reverse_reverse]
  · rw [hl, List.mem_reverse] at hx
    exact List.mem_takeWhile_imp (p := fun x : LoopEntry => x.covers pc) hx
  · rw [List.getLast?_reverse] at hx
    have := List.head?_dropWhile_not (fun x => x.covers pc) l.reverse
    rw [hx] at this
    simpa using this

/-- A LOOP may push: it has a body, the stack has room, and the body ends inside the one around it (R75). -/
def LoopAllowed (r : Run) (w : InstrWord) : Prop :=
  fLEN w ≠ 0 ∧ r.loops.length < 4 ∧ ∀ l, r.loops.head? = some l → r.pc + 16 + 16 * fLEN w ≤ l.start + 16 * l.len

theorem loopChecks_iff {r : Run} {len : Nat} : (decide (r.loops.length < 4) && loopFits r len) = true ↔
    r.loops.length < 4 ∧ ∀ l, r.loops.head? = some l → r.pc + 16 + 16 * len ≤ l.start + 16 * l.len := by
  rw [Bool.and_eq_true, decide_eq_true_iff, loopFits]
  cases r.loops <;> simp

theorem loopChecks_of_allowed {r : Run} {w : InstrWord} (h : LoopAllowed r w) : (decide (r.loops.length < 4) && loopFits r (fLEN w)) = true :=
  loopChecks_iff.mpr h.2

section
variable {s : State} {u : UnitId} {r : Run} {c : Ctx} {w : InstrWord}

theorem exec_br (h : Issues s u r c w clCTRL 0x02) :
    let pc := (r.pc + 16 * fIMM w) % 2 ^ 48
    exec (.br u) s = .next (s.setRun u { r with pc := pc, loops := leaveLoops pc r.loops }) := by
  rw [show exec (.br u) s = execBr u s from rfl, execBr, issue_executes h rfl]
  dsimp only
  rw [settle, show (16 : Int) = ((16 : Nat) : Int) from rfl, wrap48_add_signed64]

theorem exec_loop (h : Issues s u r c w clCTRL 0x03) (len : fLEN w ≠ 0) : exec (.loop u) s = settle u r
    (check s (decide (r.loops.length < 4) && loopFits r (fLEN w)) .illegalInstruction fun _ =>
      if loopCount r w = 0 then .go s { r with pc := r.pc + 16 * fLEN w }
      else .jump s { r with
        pc := r.pc + 16, loops := { start := r.pc + 16, len := fLEN w, remaining := loopCount r w - 1, iter := 0 } :: r.loops }) := by
  rw [show exec (.loop u) s = execLoop u s from rfl, execLoop, issue_executes h (by simpa using len)]

/-- A LOOP that may push and has a count of zero moves on past its body. -/
theorem exec_loop_skips (h : Issues s u r c w clCTRL 0x03) (ok : LoopAllowed r w) (zero : loopCount r w = 0) :
    exec (.loop u) s = .next (s.setRun u (advance { r with pc := r.pc + 16 * fLEN w })) := by
  rw [exec_loop h ok.1, check_passed (loopChecks_of_allowed ok), if_pos zero, settle]

/-- With another count it enters its body. -/
theorem exec_loop_enters (h : Issues s u r c w clCTRL 0x03) (ok : LoopAllowed r w) (some : loopCount r w ≠ 0) :
    exec (.loop u) s = .next (s.setRun u { r with
      pc := r.pc + 16, loops := { start := r.pc + 16, len := fLEN w, remaining := loopCount r w - 1, iter := 0 } :: r.loops }) := by
  rw [exec_loop h ok.1, check_passed (loopChecks_of_allowed ok), if_neg some, settle]

/-- A LOOP that may not push faults. -/
theorem exec_loop_refused (h : Issues s u r c w clCTRL 0x03) (bad : ¬ LoopAllowed r w) :
    exec (.loop u) s = .next (unitFault s u r .illegalInstruction (pcIndex r)) := by
  by_cases len : fLEN w = 0
  · rw [show exec (.loop u) s = execLoop u s from rfl, execLoop, issue_static_fails h.toAtPc (by simpa using len)]
  · rw [exec_loop h len, check, if_neg fun ok => bad ⟨len, loopChecks_iff.mp ok⟩, settle]

end

theorem advance_of_loopEnd {r : Run} {pc : Nat} {loops : List LoopEntry} (h : loopEnd (r.pc + 16) r.loops = (pc, loops)) :
    advance r = { r with pc := pc, loops := loops } := by
  rw [advance, h]

/-- Settles O7: BR by the split of the loops, LOOP by what its body leaves, the moves of the PC by the equations of `loopEnd`. -/
theorem loopsAndBranches : Obligations.LoopsAndBranches := by
  unfold Obligations.LoopsAndBranches
  refine ⟨fun s u r c w h => ?_, fun s u r c w h => ⟨exec_loop_skips h, exec_loop_enters h, exec_loop_refused h⟩,
    fun r => ⟨fun hl => ?_, fun l rest hl inside => ?_, fun l rest hl ends again => ?_, fun l rest hl ends last => ?_⟩⟩
  · obtain ⟨inner, split, outside, inside⟩ := leaveLoops_splits ((r.pc + 16 * fIMM w) % 2 ^ 48) r.loops
    refine ⟨inner, _, split, fun l hl => LoopEntry.covers_iff.mp (outside l hl), fun l hl => ?_, exec_br h⟩
    rw [← LoopEntry.covers_iff, inside l hl]
    exact Bool.false_ne_true
  · exact advance_of_loopEnd (by rw [hl, loopEnd])
  · exact advance_of_loopEnd (by rw [hl, loopEnd, if_neg inside])
  · exact advance_of_loopEnd (by rw [hl, loopEnd, if_pos ends, if_pos again])
  · have same : loopEnd (r.pc + 16) r.loops = loopEnd (r.pc + 16) rest := by rw [hl, loopEnd, if_pos ends, if_neg (by omega)]
    rw [advance, same, advance]

/-! ### Loads of registers and slots (R69, R73) -/

section
variable {s : State} {u : UnitId} {r : Run} {c : Ctx} {w : InstrWord}

theorem exec_lds {v : Nat} (h : Issues s u r c w clCTRL 0x0B) (read : readNat s r.ctx c (axWord r w) 8 = .ok v) :
    exec (.lds u) s = .next (s.setRun u (advance { r with S := setS r.S (fSD w) (BitVec.ofNat 64 v) })) := by
  rw [show exec (.lds u) s = execLds u s from rfl, execLds, issue_executes h rfl, read, tryX_ok, settle]

theorem exec_chload {v : Nat} (h : Issues s u r c w clCTRL 0x10) (read : readNat s r.ctx c (axImm r w) 64 = .ok v) :
    exec (.chload u) s = .next (s.setRun u (advance (if fSUB w % 2 = 0
      then { r with E := setNth r.E (fSD w % 8) (some (BitVec.ofNat 512 v)) }
      else { r with Q := setNth r.Q (fSD w % 4) (some (BitVec.ofNat 512 v)) }))) := by
  rw [show exec (.chload u) s = execChload u s from rfl, execChload, issue_executes h rfl, read, tryX_ok]
  split <;> rfl

theorem exec_tbase {b : BitVec 512} (h : Issues s u r c w clCTRL 0x0F) (hb : nth none r.T (fTX w) = some b) :
    exec (.tbase u) s = .next (s.setRun u (advance { r with
      T := setNth r.T (fTX w) (some (BitVec.ofNat 512 (setField b.toNat 47 0 (areg r.A (fAX w))))) })) := by
  rw [show exec (.tbase u) s = execTbase u s from rfl, execTbase, issue_executes h rfl, chainSlot, hb, orErr, tryX_ok, settle]

end

/-- A descriptor with its base replaced: the new base below, the other fields above as they were. -/
theorem toNat_setBase (b : BitVec 512) (a : Nat) :
    (BitVec.ofNat 512 (setField b.toNat 47 0 a)).toNat = 2 ^ 48 * (b.toNat / 2 ^ 48) + a % 2 ^ 48 := by
  have parts : setField b.toNat 47 0 a = 2 ^ 48 * (b.toNat / 2 ^ 48) + a % 2 ^ 48 := by
    simpa [Nat.mod_one] using setField_eq_parts b.toNat 47 0 a
  have := b.isLt
  rw [BitVec.toNat_ofNat, parts, Nat.mod_eq_of_lt (by omega)]

/-- Settles O8: each load by what is read at its address, TBASE by the two parts of the descriptor it stores. -/
theorem loadsOfRegistersAndSlotsComplete : Obligations.LoadsOfRegistersAndSlotsComplete := by
  unfold Obligations.LoadsOfRegistersAndSlotsComplete
  refine fun s u r c w => ⟨fun v h read => exec_lds h (by rwa [axWord_eq]), fun v h read => exec_chload h (by rwa [axImm_eq]),
    fun b h hb => ⟨_, ?_, ?_, exec_tbase h hb⟩⟩
  · rw [toNat_setBase, Nat.mul_add_mod, Nat.mod_mod]
  · rw [toNat_setBase, Nat.mul_add_div (by decide), Nat.div_eq_of_lt (Nat.mod_lt _ (by decide)), Nat.add_zero]

/-! ### Waits and ends of programs (R73, R77, R114) -/

/-- The asynchronous groups that a mask names have completed (R73). -/
def GroupsEmpty (r : Run) (m : Nat) : Prop :=
  (m % 2 = 1 → r.moves = []) ∧ (m / 2 % 2 = 1 → r.pushes = 0) ∧ (m / 4 % 2 = 1 → r.drains = [] ∧ r.stagePushes = 0) ∧
    (m / 8 % 2 = 1 → r.attns = [])

theorem bitAt_eq_div_mod (x i : Nat) : bitAt x i = (x / 2 ^ i % 2 == 1) := by rw [bitAt, Nat.shiftRight_eq_div_pow]

theorem groupsDone_iff {r : Run} {m : Nat} : groupsDone r m = true ↔ GroupsEmpty r m := by
  simp only [groupsDone, GroupsEmpty, bitAt_eq_div_mod, Bool.and_eq_true, Bool.or_eq_true, Bool.not_eq_true', beq_eq_false_iff_ne,
    List.isEmpty_iff, beq_iff_eq, ← imp_iff_not_or, pow_zero, Nat.div_one, Nat.reducePow, and_assoc]

/-- A WAIT looks at the low four bits of its immediate. -/
theorem groupsDone_mod16 {r : Run} {m : Nat} : groupsDone r (m % 16) = true ↔ GroupsEmpty r m := by
  rw [groupsDone_iff, GroupsEmpty, GroupsEmpty, show m % 16 % 2 = m % 2 by omega, show m % 16 / 2 % 2 = m / 2 % 2 by omega,
    show m % 16 / 4 % 2 = m / 4 % 2 by omega, show m % 16 / 8 % 2 = m / 8 % 2 by omega]

theorem tokenReached_iff {v : Nat} {t : Word64} : tokenReached v t = true ↔ (BitVec.ofNat 64 v).toInt ≤ t.toInt := BitVec.sle_iff_toInt_le

section
variable {s : State} {u : UnitId} {r : Run} {c : Ctx} {w : InstrWord}

theorem exec_halt (h : Issues s u r c w clCTRL 0x01) : exec (.halt u) s = .next (s.setRun u { r with phase := .halting }) := by
  rw [show exec (.halt u) s = execHalt u s from rfl, execHalt, issue_executes h rfl, settle]

theorem exec_bnd (h : Issues s u r c w clSYNC 0x03) (boundary : tBnd r.desc = true) :
    exec (.bnd u) s = .next ((s.modCtx r.ctx Ctx.takeStaged).setRun u { r with phase := .handing }) := by
  rw [show exec (.bnd u) s = execBnd u s from rfl, execBnd, issue_executes h rfl, check_passed boundary, settle]

theorem exec_bnd_elsewhere (h : Issues s u r c w clSYNC 0x03) (boundary : tBnd r.desc = false) :
    exec (.bnd u) s = .next (unitFault s u r .illegalInstruction (pcIndex r)) := by
  rw [show exec (.bnd u) s = execBnd u s from rfl, execBnd, issue_executes h rfl, check, boundary, if_neg Bool.false_ne_true, settle]

theorem exec_wait_passes (h : Issues s u r c w clCTRL 0x04) (done : GroupsEmpty r (fIMM w)) :
    exec (.wait u) s = .next (s.setRun u (advance r)) := by
  rw [show exec (.wait u) s = execWait u s from rfl, execWait, issue_executes h rfl]
  dsimp only
  rw [if_pos (groupsDone_mod16.mpr done), settle]

theorem exec_wait_holds (h : Issues s u r c w clCTRL 0x04) (busy : ¬ GroupsEmpty r (fIMM w)) :
    exec (.wait u) s = .next (s.setRun u { r with phase := .waitGroups (fIMM w % 16) }) := by
  rw [show exec (.wait u) s = execWait u s from rfl, execWait, issue_executes h rfl]
  dsimp only
  rw [if_neg (busy ∘ groupsDone_mod16.mp), settle]

theorem exec_tokwait_passes {v : Nat} (h : Issues s u r c w clSYNC 0x02) (read : readNat s r.ctx c (axWord r w) 8 = .ok v)
    (down : (BitVec.ofNat 64 v).toInt ≤ (sreg r.S (fSA w)).toInt) : exec (.tokwait u) s = .next (s.setRun u (advance r)) := by
  rw [show exec (.tokwait u) s = execTokwait u s from rfl, execTokwait, issue_executes h rfl]
  dsimp only
  rw [read, tryX_ok, if_pos (tokenReached_iff.mpr down), settle]

theorem exec_tokwait_holds {v : Nat} (h : Issues s u r c w clSYNC 0x02) (read : readNat s r.ctx c (axWord r w) 8 = .ok v)
    (up : (sreg r.S (fSA w)).toInt < (BitVec.ofNat 64 v).toInt) :
    exec (.tokwait u) s = .next (s.setRun u { r with phase := .waitToken (axWord r w) (sreg r.S (fSA w)) }) := by
  rw [show exec (.tokwait u) s = execTokwait u s from rfl, execTokwait, issue_executes h rfl]
  dsimp only
  rw [read, tryX_ok, if_neg (up.not_ge ∘ tokenReached_iff.mp), settle]

end

/-- Settles O9: each row by whether what it waits for has happened. -/
theorem waitsAndEndsOfProgramsComplete : Obligations.WaitsAndEndsOfProgramsComplete := by
  unfold Obligations.WaitsAndEndsOfProgramsComplete
  refine fun s u r c w => ⟨exec_halt, fun h boundary => ⟨State.ctx?_modCtx h.ctx, exec_bnd h boundary⟩, exec_bnd_elsewhere, exec_wait_passes,
    exec_wait_holds, fun v h read down => exec_tokwait_passes h (by rwa [axWord_eq]) down, fun v h read up => ?_⟩
  rw [← axWord_eq] at read ⊢
  exact exec_tokwait_holds h read up

/-! ### Held units go on (R73, R77, R123, R174) -/

theorem exec_waitResume {s : State} {u : UnitId} {r : Run} {m : Nat} (run : s.run? u = some r) (waits : r.phase = .waitGroups m)
    (done : GroupsEmpty r m) : exec (.waitResume u) s = .next (s.setRun u (advance { r with phase := .running })) := by
  rw [show exec (.waitResume u) s = execWaitResume u s from rfl, execWaitResume, run]
  dsimp only
  rw [waits]
  dsimp only
  rw [if_pos (groupsDone_iff.mpr done)]

theorem exec_tokwaitResume {s : State} {u : UnitId} {r : Run} {c : Ctx} {va v : Nat} {t : Word64} (run : s.run? u = some r)
    (waits : r.phase = .waitToken va t) (hc : s.ctx? r.ctx = some c) (read : readNat s r.ctx c va 8 = .ok v)
    (down : (BitVec.ofNat 64 v).toInt ≤ t.toInt) :
    exec (.tokwaitResume u) s = .next (s.setRun u (advance { r with phase := .running })) := by
  rw [show exec (.tokwaitResume u) s = execTokwaitResume u s from rfl, execTokwaitResume, run]
  dsimp only
  rw [waits, hc]
  dsimp only
  rw [read]
  dsimp only
  rw [if_pos (tokenReached_iff.mpr down)]

theorem mapE_eq_ok {ε α β : Type} {f : α → Except ε β} {g : α → β} : ∀ {l : List α}, (∀ a ∈ l, f a = .ok (g a)) → mapE f l = .ok (l.map g)
  | [], _ => rfl
  | a :: l, h => by rw [mapE, h a List.mem_cons_self, mapE_eq_ok fun b hb => h b (List.mem_cons_of_mem a hb), List.map_cons]

/-- Every counter of a list is at or below its threshold when each is. -/
theorem tokensReached_of_all {s : State} {cn : Nat} {c : Ctx} {toks : List (Nat × Word64)}
    (h : ∀ p ∈ toks, ∃ v, readNat s cn c p.1 8 = .ok v ∧ (BitVec.ofNat 64 v).toInt ≤ p.2.toInt) : tokensReached s cn c toks = .ok true := by
  rw [tokensReached, mapE_eq_ok (g := fun _ => true)]
  · simp
  · intro p hp
    obtain ⟨v, read, down⟩ := h p hp
    rw [read]
    exact congrArg Except.ok (BitVec.sle_iff_toInt_le.mpr down)

theorem exec_prologueTokenResume {s : State} {u : UnitId} {r : Run} {c : Ctx} {toks : List (Nat × Word64)} (run : s.run? u = some r)
    (waits : r.phase = .waitPrologue toks) (hc : s.ctx? r.ctx = some c) (down : tokensReached s r.ctx c toks = .ok true) :
    exec (.prologueTokenResume u) s = .next (s.setRun u { r with phase := .running }) := by
  rw [show exec (.prologueTokenResume u) s = execPrologueTokenResume u s from rfl, execPrologueTokenResume, run]
  dsimp only
  rw [waits, hc]
  dsimp only
  rw [down]

/-- A unit that waits for no other page than the one that has come runs again (R123). -/
theorem shadowArrived_last {cn vp : Nat} {r : Run} {l : List Nat} (hr : r.ctx = cn) (waits : r.phase = .waitShadow l) (only : ∀ x ∈ l, x = vp) :
    shadowArrived cn vp r = { r with phase := .running } := by
  have none : l.filter (· != vp) = [] := by simpa using only
  rw [shadowArrived, if_pos hr, waits]
  dsimp only
  rw [none]
  rfl

/-- The state once the copy of a shadow page is complete. -/
def shadowCopied (s : State) (cn vp : Nat) (c : Ctx) (sh : ShadowEnt) : State :=
  { s.setCtx cn { c with shadows := NMap.set c.shadows vp { sh with copying := false } } with
    units := s.units.map (fun p => (p.1, shadowArrived cn vp p.2)) }

theorem exec_shadowCopyDone {s : State} {cn vp : Nat} {c : Ctx} {sh : ShadowEnt} (hc : s.ctx? cn = some c)
    (hsh : NMap.get? c.shadows vp = some sh) (copying : sh.copying = true) :
    exec (.shadowCopyDone cn vp) s = .next (shadowCopied s cn vp c sh) := by
  rw [show exec (.shadowCopyDone cn vp) s = execShadowCopyDone cn vp s from rfl, execShadowCopyDone, hc]
  dsimp only
  rw [hsh]
  dsimp only
  rw [if_pos copying]
  rfl

theorem run?_shadowCopied (s : State) (cn vp : Nat) (c : Ctx) (sh : ShadowEnt) (u : UnitId) :
    (shadowCopied s cn vp c sh).run? u = (s.run? u).map (shadowArrived cn vp) := NMap.get?_map (shadowArrived cn vp) s.units u.key

/-- Settles O10: the groups, the counter and the tokens by their conditions; the units that a finished copy lets go by `shadowArrived_last`. -/
theorem heldUnitsResume : Obligations.HeldUnitsResume := by
  unfold Obligations.HeldUnitsResume
  refine ⟨fun s u r m run waits moves pushes drains attns => exec_waitResume run waits ⟨moves, pushes, drains, attns⟩,
    fun s u r c va v t run waits hc read down => exec_tokwaitResume run waits hc read down,
    fun s u r c toks run waits hc down => exec_prologueTokenResume run waits hc (tokensReached_of_all down), fun s cn vp c sh hc hsh copying => ?_⟩
  refine ⟨_, exec_shadowCopyDone hc hsh copying, State.ctx?_setCtx s cn _, rfl, fun u r l run hr waits only => ?_⟩
  rw [run?_shadowCopied, run, Option.map_some, shadowArrived_last hr waits only]

end Sys2Proof.Machine

/-!
PROOFS. Writes of instructions and what they leave unchanged (R71, R73, R77, R96, R97, R123).
-/

namespace Sys2Proof.Machine

/-! ### Writes of an instruction to plain memory (R96, R97) -/

/-- A tensor that is stored plain is written as its bytes are. -/
theorem storeAll_plain {d : TD} (plain : d.cmp = 0) (s : State) (cn : Nat) (key : Bool) (ws : List WItem) :
    storeAll s cn d key ws = runBytes s cn ws := by
  rw [storeAll, if_pos plain, runBytes]

theorem runWrites_plain {d : TD} (plain : d.cmp = 0) (distinct : d.aliased = false) (s : State) (cn : Nat) (key : Bool) (ws : List WItem) :
    runWrites s cn d key ws = runBytes s cn ws := by
  rw [runWrites, storeAll_plain plain, destItems_of_not_aliased distinct, distinct, if_neg Bool.false_ne_true]

/-- A destination whose elements share addresses takes free values (R97). -/
theorem runWrites_aliased {d : TD} (plain : d.cmp = 0) (shared : d.aliased = true) (s : State) (cn : Nat) (key : Bool) (ws : List WItem) :
    runWrites s cn d key ws = ((runBytes s cn (freeItems s.freeIx ws)).1.tick, (runBytes s cn (freeItems s.freeIx ws)).2) := by
  rw [runWrites, storeAll_plain plain, destItems, shared, if_pos rfl, if_pos rfl]

theorem doWrites_of_runBytes {s s' : State} {cn : Nat} {ws : List WItem} (h : runBytes s cn ws = (s', none)) : doWrites s cn ws = .ok s' := by
  rw [runBytes] at h
  cases written : doWrites s cn ws with
  | ok t => rw [written] at h; exact congrArg Except.ok (Prod.mk.inj h).1
  | error e => rw [written] at h; cases h

/-- Settles O12: the writes to a tensor by `storeAll_plain`, the frame by the one of `doWrites`. -/
theorem writesKeepEveryOtherByte : Obligations.WritesKeepEveryOtherByte := by
  unfold Obligations.WritesKeepEveryOtherByte
  refine fun s s' cn c ws hm hc shadowed => ⟨fun d key plain distinct => runWrites_plain plain distinct s cn key ws,
    fun d key plain shared => runWrites_aliased plain shared s cn key ws, fun written => ?_⟩
  obtain ⟨only, kept⟩ := doWrites_frame (doWrites_of_runBytes written) hc shadowed
  exact ⟨only.inv hm, only.rest, fun a ha => kept a hm ha, only.other, only.own⟩

/-! ### Eight bytes at a place (R73, R77) -/

theorem nth_eq_getD {α : Type} (d : α) : ∀ (l : List α) (i : Nat), nth d l i = l.getD i d
  | [], _ => rfl
  | _ :: _, 0 => rfl
  | _ :: l, i + 1 => (nth_eq_getD d l i).trans (by simp)

/-- A byte of a writable place can be stored. -/
theorem putByte_ok {s : State} {cn va p : Nat} {c : Ctx} (hc : s.ctx? cn = some c) (place : translate cn c va true = .ok p) (v : Byte) :
    ∃ t, putByte s cn va v = .ok t := by
  simp only [putByte, hc, place]
  split
  · split <;> exact ⟨_, rfl⟩
  · exact ⟨_, rfl⟩

theorem putBytes_ok {cn : Nat} {c : Ctx} : ∀ {bs : Bytes} {s : State} {va : Nat}, s.ctx? cn = some c →
    (∀ i < bs.length, ∃ p, translate cn c (va + i) true = .ok p) → ∃ t, putBytes s cn va bs = .ok t
  | [], s, _, _, _ => ⟨s, rfl⟩
  | v :: bs, s, va, hc, places => by
    obtain ⟨p, place⟩ := places 0 (Nat.succ_pos _)
    obtain ⟨s1, h1⟩ := putByte_ok hc place v
    have hc1 : s1.ctx? cn = some c := by rw [(putByte_frame h1 hc).1]; exact hc
    rw [putBytes, show putByte s cn va v = .ok s1 from h1]
    exact putBytes_ok hc1 fun i hi => by
      rw [Nat.add_assoc, Nat.add_comm 1 i]
      exact places (i + 1) (Nat.succ_lt_succ hi)

/-- The page of a byte does not move. -/
def Still (c : Ctx) (va : Nat) : Prop := (NMap.get? c.pages (vpageOf (va % 2 ^ 48))).bind (fun e => e.moveTo) = none

theorem putByte_still {s t : State} {cn va p : Nat} {c : Ctx} {v : Byte} (h : putByte s cn va v = .ok t) (hc : s.ctx? cn = some c)
    (place : translate cn c va true = .ok p) (still : Still c va) :
    t = { s with mem := Memory.set s.mem p (storedByte va (Memory.get s.mem p) v) } := by
  obtain ⟨c', p', hc', place', stored | ⟨q, moves, -⟩⟩ := putByte_cases h
  · obtain rfl : c = c' := Option.some.inj (hc.symm.trans hc')
    obtain rfl : p = p' := Except.ok.inj (place.symm.trans place')
    exact stored
  · obtain rfl : c = c' := Option.some.inj (hc.symm.trans hc')
    rw [still] at moves
    cases moves

/-- Bytes stored one after another in pages that do not move: each place takes its byte, every other keeps its own. -/
theorem get_putBytes_still {cn : Nat} {c : Ctx} : ∀ {bs : Bytes} {s t : State} {va p : Nat}, putBytes s cn va bs = .ok t → s.ctx? cn = some c →
    MemInv s → (∀ i < bs.length, translate cn c (va + i) true = .ok (p + i) ∧ Still c (va + i)) → ∀ a, Memory.get t.mem a =
      if p ≤ a ∧ a < p + bs.length then storedByte (va + (a - p)) (Memory.get s.mem a) (nth 0 bs (a - p)) else Memory.get s.mem a
  | [], s, t, va, p, h, _, _, _, a => by
    cases h
    rw [if_neg (by simp)]
  | v :: bs, s, t, va, p, h, hc, hm, places, a => by
    obtain ⟨place, still⟩ := places 0 (Nat.succ_pos _)
    obtain ⟨s1, h1⟩ := putByte_ok hc place v
    rw [putBytes, show putByte s cn va v = .ok s1 from h1] at h
    obtain rfl := putByte_still h1 hc place still
    have rest := get_putBytes_still (va := va + 1) (p := p + 1) h hc (Memory.wf_set hm _ _) (fun i hi => by
      rw [Nat.add_right_comm va, Nat.add_right_comm p]
      exact places (i + 1) (Nat.succ_lt_succ hi)) a
    rw [rest]
    dsimp only
    rw [Memory.get_set hm, List.length_cons]
    rcases Nat.lt_trichotomy a p with below | rfl | above
    · rw [if_neg (by omega), if_neg (by omega), if_neg (by omega)]
    · rw [if_neg (by omega), if_pos (Nat.add_zero a).symm, if_pos (by omega), Nat.sub_self]
      rfl
    · obtain ⟨k, rfl⟩ : ∃ k, a = p + 1 + k := ⟨a - (p + 1), by omega⟩
      rw [if_neg (by omega : ¬ p + 1 + k = p + 0), Nat.add_sub_cancel_left, show p + 1 + k - p = k + 1 by omega, Nat.add_assoc va, Nat.add_comm 1 k]
      exact if_congr (by omega) rfl rfl

/-! ### What a store of eight bytes leaves (R73, R77) -/

theorem clearBadLines_only {s : State} {cn va n : Nat} {c : Ctx} (hc : s.ctx? cn = some c) :
    OnlyStored cn c s (clearBadLines s cn va n) ∧ (clearBadLines s cn va n).mem = s.mem :=
  ⟨⟨rfl, fun k hk => NMap.get?_modify_ne s.ctxs cn k _ hk, ⟨_, State.ctx?_modCtx hc, rfl⟩, id⟩, rfl⟩

theorem putBytes_only {s t : State} {cn va : Nat} {bs : Bytes} {c : Ctx} (h : putBytes s cn va bs = .ok t) (hc : s.ctx? cn = some c) :
    OnlyStored cn c s t := by
  obtain ⟨mem, inv, -⟩ := putBytes_frame h hc
  refine ⟨by rw [mem], fun k _ => by rw [mem]; rfl, ⟨c, by rw [mem]; exact hc, rfl⟩, inv⟩

/-- The state after a store: the lines made good, and what it has disturbed noted (R97, R213, R240, R312, R366). -/
def noteStore (s : State) (cn va n : Nat) : State := foulBytes (clearBadLines s cn va n) cn va n

theorem noteStore_only {s t : State} {cn va n : Nat} {bs : Bytes} {c : Ctx} (h : putBytes s cn va bs = .ok t) (hc : s.ctx? cn = some c) :
    OnlyStored cn c s (noteStore t cn va n) := by
  have stored := putBytes_only h hc
  have ht : t.ctx? cn = some c := by rw [(putBytes_frame h hc).1]; exact hc
  have good := stored.trans ht (clearBadLines_only (va := va) (n := n) ht).1
  obtain ⟨d, hd, -⟩ := good.own
  exact good.trans hd (foulBytes_only hd).1

/-- What stands of `s1` after the eight bytes of `v` have gone to `va`, whose place is `p`, and the unit has moved on. -/
structure WordStored (s1 : State) (u : UnitId) (cn : Nat) (c1 : Ctx) (va p : Nat) (t : State) (v : Word64) : Prop where
  kept : ∀ a, a ∉ storedAt cn c1 va 8 → Memory.get t.mem a = Memory.get s1.mem a
  bytes : (NMap.get? c1.pages (vpageOf va)).bind (fun e => e.moveTo) = none →
    (scaleTableSize ≤ va → Memory.getBytes t.mem p 8 = toBytes 8 v.toNat) ∧
    (∀ i < 8, Memory.get t.mem (p + i) = storedByte (va + i) (Memory.get s1.mem (p + i)) (nth 0 (toBytes 8 v.toNat) i))
  rest : { t with mem := s1.mem, units := s1.units, ctxs := s1.ctxs } = s1
  units : ∀ x : UnitId, x.key ≠ u.key → t.run? x = s1.run? x
  others : ∀ k, k ≠ cn → t.ctx? k = s1.ctx? k
  own : ∃ c', t.ctx? cn = some c' ∧ { c' with epoch := c1.epoch, comp := c1.comp, tabs := c1.tabs, seqs := c1.seqs } = c1

theorem toBytes_size : ∀ n x, (toBytes n x).length = n
  | 0, _ => rfl
  | n + 1, x => by rw [toBytes, List.length_cons, toBytes_size n]

/-- Outside the scale table a byte is stored as it comes (R58). -/
theorem storedByte_above {va : Nat} (h : scaleTableSize ≤ va) (small : va < 2 ^ 48) (old new : Byte) : storedByte va old new = new := by
  rw [storedByte, Nat.mod_eq_of_lt small, if_pos h]

section
variable {va : Nat} (aligned : va % 8 = 0) (small : va < 2 ^ 48)
include aligned small

theorem word_lt {i : Nat} (hi : i < 8) : va + i < 2 ^ 48 := by omega

/-- The eight bytes of an aligned word lie in one page. -/
theorem vpageOf_word {i : Nat} (hi : i < 8) : vpageOf ((va + i) % 2 ^ 48) = vpageOf va := by
  rw [Nat.mod_eq_of_lt (word_lt aligned small hi), vpageOf, vpageOf, pageSize]
  omega

theorem pagesTouched_word : pagesTouched va 8 = [vpageOf va] := by
  have last := vpageOf_word aligned small (show 7 < 8 by decide)
  rw [Nat.mod_eq_of_lt (word_lt aligned small (by decide))] at last
  rw [pagesTouched, if_neg (by decide), Nat.mod_eq_of_lt small, show va + 8 - 1 = va + 7 from rfl, last, Nat.add_sub_cancel_left]
  rfl

/-- A store of one word waits for the copy of its page, when that is under way (R123). -/
theorem waitPages_word {t : State} {cn : Nat} {c : Ctx} (hc : t.ctx? cn = some c) {bs : Bytes} (eight : bs.length = 8) :
    waitPages t cn [.ok (va, bs)] = if vpageOf va ∈ copyingPages c then [vpageOf va] else [] := by
  simp only [waitPages, hc, List.flatMap_cons, List.flatMap_nil, List.append_nil, eight, pagesTouched_word aligned small, List.filter_cons,
    List.filter_nil, List.contains_iff_mem, List.isEmpty_iff]
  by_cases copying : vpageOf va ∈ copyingPages c
  · rw [if_pos copying, if_neg (List.ne_nil_of_mem copying)]
    rfl
  · rw [if_neg copying]
    exact ite_self _

end

section
variable {s1 s2 : State} {cn va p : Nat} {c1 : Ctx} {bs : Bytes} (hm : MemInv s1) (hc : s1.ctx? cn = some c1)
  (aligned : va % 8 = 0) (small : va < 2 ^ 48) (eight : bs.length = 8) (places : ∀ i < 8, translate cn c1 (va + i) true = .ok (p + i))
include hm hc aligned small eight places

/-- A word stored in a page that does not move takes its eight places. -/
theorem get_word_still (h : putBytes s1 cn va bs = .ok s2) (still : Still c1 va) {i : Nat} (hi : i < 8) :
    Memory.get s2.mem (p + i) = storedByte (va + i) (Memory.get s1.mem (p + i)) (nth 0 bs i) := by
  have stays : ∀ k < 8, Still c1 (va + k) := fun k hk => by
    rw [Still, vpageOf_word aligned small hk, ← vpageOf_word aligned small (show 0 < 8 by decide)]
    exact still
  rw [get_putBytes_still h hc hm (fun k hk => ⟨places k (eight ▸ hk), stays k (eight ▸ hk)⟩), if_pos (by omega), Nat.add_sub_cancel_left]

theorem getBytes_word_still (h : putBytes s1 cn va bs = .ok s2) (still : Still c1 va) (above : scaleTableSize ≤ va) :
    Memory.getBytes s2.mem p 8 = bs := by
  rw [Memory.getBytes, ← eight]
  refine map_rangeFrom_getD bs _ p fun k hk => ?_
  have hk8 : k < 8 := eight ▸ hk
  rw [get_word_still hm hc aligned small eight places h still hk8, storedByte_above (by omega) (word_lt aligned small hk8), nth_eq_getD]

end

section
variable {s1 s2 : State} {u : UnitId} {cn va p : Nat} {c1 : Ctx} {v : Word64} (hm : MemInv s1) (hc : s1.ctx? cn = some c1)
  (aligned : va % 8 = 0) (small : va < 2 ^ 48) (places : ∀ i < 8, translate cn c1 (va + i) true = .ok (p + i))
include hm hc aligned small places

theorem wordStored (h : putBytes s1 cn va (toBytes 8 v.toNat) = .ok s2) (r : Run) :
    WordStored s1 u cn c1 va p ((noteStore s2 cn va 8).setRun u r) v := by
  have eight := toBytes_size 8 v.toNat
  have only := noteStore_only (n := 8) h hc
  refine ⟨fun a ha => (putBytes_frame h hc).2.2 a hm (eight.symm ▸ ha), fun unmoved => ?_, ?_, fun x hx => ?_, only.other, only.own⟩
  · have still : Still c1 va := by rw [Still, Nat.mod_eq_of_lt small]; exact unmoved
    exact ⟨getBytes_word_still (s2 := s2) hm hc aligned small eight places h still,
      fun i hi => get_word_still hm hc aligned small eight places h still hi⟩
  · rw [← only.rest]
    rfl
  · rw [State.run?_setRun_ne _ _ _ _ hx, ← only.rest]
    rfl

/-- The unit after the store: it moves on, held while its page is being copied. -/
theorem settle_word (h : putBytes s1 cn va (toBytes 8 v.toNat) = .ok s2) {res : State × Option CFault} (hres : res = (noteStore s2 cn va 8, none))
    (r r' : Run) : ∃ t, settle u r (finishWrites res cn [.ok (va, toBytes 8 v.toNat)] r') = .next t ∧ WordStored s1 u cn c1 va p t v ∧
      t.run? u = some (advance (afterWrites (if vpageOf va ∈ copyingPages c1 then [vpageOf va] else []) r')) := by
  obtain ⟨c', hc', same⟩ := (noteStore_only (n := 8) h hc).own
  refine ⟨_, settle_finishWrites hres u r r' cn _, wordStored hm hc aligned small places h _, ?_⟩
  rw [waitPages_word aligned small hc' (toBytes_size 8 _), State.run?_setRun, copyingPages, copyingPages, (sameWhereStores same).2.1]

end

/-! ### STS, TOKSET and WCFA (R73, R77) -/

/-- A task's single write, given the shadow it needs. -/
theorem runBytes_prepared {s s1 s2 : State} {cn va : Nat} {bs : Bytes} (prepared : prepareWrite s cn va bs.length false = .ok s1)
    (put : putBytes s1 cn va bs = .ok s2) : runBytes s cn [.ok (va, bs)] = (noteStore s2 cn va bs.length, none) := by
  simp only [runBytes, doWrites, plainWrites, foldE, taskWrite, prepared, put]
  rfl

theorem countedWrite_prepared {s s1 s2 : State} {cn va : Nat} {bs : Bytes} (prepared : prepareWrite s cn va bs.length true = .ok s1)
    (put : putBytes s1 cn va bs = .ok s2) : countedWrite s cn va bs = .ok (clearBadLines s2 cn va bs.length) := by
  simp only [countedWrite, prepared, put]

theorem exec_sts {s : State} {u : UnitId} {r : Run} {c : Ctx} {w : InstrWord} (h : Issues s u r c w clCTRL 0x0C) :
    exec (.sts u) s = settle u r (finishWrites (runBytes s r.ctx [.ok (axWord r w, toBytes 8 (sreg r.S (fSD w)).toNat)]) r.ctx
      [.ok (axWord r w, toBytes 8 (sreg r.S (fSD w)).toNat)] r) := by
  rw [show exec (.sts u) s = execSts u s from rfl, execSts, issue_executes h rfl]

theorem exec_tokset {s : State} {u : UnitId} {r : Run} {c : Ctx} {w : InstrWord} (h : Issues s u r c w clSYNC 0x01) :
    exec (.tokset u) s = settle u r (finishWrites (runBytes s r.ctx [.ok (axWord r w, toBytes 8 (sreg r.S (fSA w)).toNat)]) r.ctx
      [.ok (axWord r w, toBytes 8 (sreg r.S (fSA w)).toNat)] r) := by
  rw [show exec (.tokset u) s = execTokset u s from rfl, execTokset, issue_executes h rfl]

/-- Settles O11: the word at the place of AX + IMM by `settle_word`, for each of the three rows. -/
theorem scalarStoresCompleteAndKeepOtherBytes : Obligations.ScalarStoresCompleteAndKeepOtherBytes := by
  unfold Obligations.ScalarStoresCompleteAndKeepOtherBytes
  intro s s1 u r c c1 w p hm hc va at8 pages stored places
  have aligned : at8 % 8 = 0 := by omega
  have small : at8 < 2 ^ 48 := by omega
  have addr : axWord r w = at8 := axWord_eq r w
  have put (v : Word64) : ∃ t, putBytes s1 r.ctx at8 (toBytes 8 v.toNat) = .ok t :=
    putBytes_ok hc fun i hi => ⟨_, places i (toBytes_size 8 v.toNat ▸ hi)⟩
  have plain (v : Word64) (prepared : prepareWrite s r.ctx at8 8 false = .ok s1) : ∃ t,
      settle u r (finishWrites (runBytes s r.ctx [.ok (at8, toBytes 8 v.toNat)]) r.ctx [.ok (at8, toBytes 8 v.toNat)] r) = .next t ∧
        stored t v ∧ t.run? u = some (advance (afterWrites pages r)) := by
    obtain ⟨s2, h2⟩ := put v
    have written := runBytes_prepared (by rw [toBytes_size]; exact prepared) h2
    rw [toBytes_size] at written
    obtain ⟨t, ht, ⟨kept, bytes, rest, units, others, own⟩, run⟩ := settle_word hm hc aligned small places h2 written r r
    exact ⟨t, ht, ⟨kept, bytes, rest, units, others, own⟩, run⟩
  refine ⟨fun h prepared => ?_, fun h prepared => ?_, fun v h read prepared => ?_⟩
  · rw [exec_sts h, addr]
    exact plain _ prepared
  · rw [exec_tokset h, addr]
    exact plain _ prepared
  · obtain ⟨s2, h2⟩ := put (BitVec.ofNat 64 v + sreg r.S (fSA w))
    obtain ⟨t, ht, ⟨kept, bytes, rest, units, others, own⟩, run⟩ := settle_word hm hc aligned small places h2 rfl r
      { r with S := setS r.S (fSD w) (BitVec.ofNat 64 v) }
    refine ⟨t, ?_, ⟨kept, bytes, rest, units, others, own⟩, run⟩
    rw [show exec (.wcfa u) s = execWcfa u s from rfl, execWcfa, issue_executes h rfl]
    dsimp only
    rw [addr, read, tryX_ok, countedWrite_prepared (by rw [toBytes_size]; exact prepared) h2, tryX_ok, toBytes_size]
    exact ht

end Sys2Proof.Machine

/-!
PROOFS. Context faults and watches (R95, R369 to R373).
-/

namespace Sys2Proof.Machine

/-- The state in which the record of a context fault is posted: the context is marked, the fault logged and its Squall sent (R369, R370). -/
def faultTold (s : State) (cn die : Nat) (c : Ctx) (e : Epoch) (f : CFault) (user astat step : Bits32) : State :=
  ((s.setCtx cn { c with faulted := true }).logRec 0x25 die 7 0 cn e.attempt step.toNat f.code 0xFF
    (user.toNat % 2 ^ 24 + astat.toNat % 2 ^ 24 * 2 ^ 24)).sendSquall
    { kind := 3, src := die, ctx := cn, att := e.attempt % 16, cause := f.code, epoch := c.epochNo }

section
variable {s : State} {cn die : Nat} {c : Ctx} {e : Epoch} {f : CFault}

theorem contextFault_of_faulted (hc : s.ctx? cn = some c) (faulted : c.faulted = true) (user astat tag step : Bits32) :
    contextFault s cn die f user astat tag step = s := by
  simp only [contextFault, hc, if_pos faulted]

theorem contextFault_first (hc : s.ctx? cn = some c) (he : c.epoch = some e) (first : c.faulted = false) (user astat tag step : Bits32) :
    contextFault s cn die f user astat tag step =
      post (faultTold s cn die c e f user astat step) cn (mkRec 0x10 f.code tag step astat user false false) := by
  have attempt : (c.epoch.map (fun e => e.attempt)).getD 0 = e.attempt := by rw [he]; rfl
  simp only [contextFault, hc, first, attempt, Bool.false_eq_true, if_false]
  rfl

theorem taskFault_eq (hc : s.ctx? cn = some c) (he : c.epoch = some e) (task : Nat) (ix : Bits32) :
    taskFault s cn die f task ix = contextFault s cn die f (BitVec.ofNat 32 task) ix e.tag e.step := by
  simp only [taskFault, hc, Option.bind_some, he]

end

/-- A fault of a task is reported once (R369, R370). -/
theorem unitFault_reports (s : State) (u : UnitId) (r : Run) (c : Ctx) (e : Epoch) (f : CFault) (ix : Nat) (hc : s.ctx? r.ctx = some c)
    (he : c.epoch = some e) (first : c.faulted = false) : ∃ told : State,
      unitFault s u r f ix =
        (post told r.ctx (mkRec 0x10 f.code e.tag e.step (BitVec.ofNat 32 ix) (BitVec.ofNat 32 r.task) false false)).freeUnit u ∧
      told.ctx? r.ctx = some { c with faulted := true } ∧ told.units = s.units ∧ told.mem = s.mem ∧ told.out = s.out ∧
      told.squalls = s.squalls ++
        [{ kind := 3, src := u.die, ctx := r.ctx, att := e.attempt % 16, cause := f.code, epoch := c.epochNo, seq := nth 0 s.squallSeq u.die }] := by
  refine ⟨faultTold s r.ctx u.die c e f (BitVec.ofNat 32 r.task) (BitVec.ofNat 32 ix) e.step, ?_, ?_, rfl, rfl, rfl, rfl⟩
  · rw [unitFault, taskFault_eq hc he, contextFault_first hc he first]
  · rw [faultTold, State.ctx?_sendSquall, State.ctx?_logRec, State.ctx?_setCtx]

/-- The unit watch finds a task that runs for the current attempt and waits for nothing (R373). -/
theorem execUnitWatchExpiry_eq {s : State} {u : UnitId} {r : Run} {c : Ctx} {e : Epoch} (hr : s.run? u = some r) (hc : s.ctx? r.ctx = some c)
    (he : c.epoch = some e) (runs : r.phase ≠ .stopping) (current : r.att = e.attempt) (free : s.power.hold = false) (idle : kvWaits s c u r = false) :
    let logged := s.logRec 0x20 u.die u.kind.ix u.idx r.ctx r.att e.step.toNat 3 0xFF (detailOf r.task (pcIndex r))
    let told := (if u.kind = .cluster then captureCluster logged u else logged).modRun u stopRun
    exec (.unitWatchExpiry u) s =
      if e.expired.any (fun p => p.1 == r.task) then .next (taskFault told r.ctx u.die .hang r.task (BitVec.ofNat 32 (pcIndex r)))
      else .next ((told.modCtx r.ctx (fun c => c.modEpoch (fun e => { e with expired := e.expired ++ [(r.task, u)] }))).sendSquall
        { kind := 1, src := u.die, ctx := r.ctx, att := e.attempt % 16, cause := 3, epoch := c.epochNo }) := by
  have goesOn : (r.phase == .stopping || r.att != e.attempt || s.power.hold || kvWaits s c u r) = false := by
    simp [runs, current, free, idle]
  simp only [show exec (.unitWatchExpiry u) s = execUnitWatchExpiry u s from rfl, execUnitWatchExpiry, hr, hc, he, goesOn, Bool.false_eq_true, if_false]

theorem execContextWatchExpiry_eq {s : State} {cn : Nat} {c : Ctx} {e : Epoch} (hc : s.ctx? cn = some c) (he : c.epoch = some e)
    (stuck : contextStuck s cn c e = true) :
    let told := s.logRec 0x21 (coordDie c) 4 0 cn e.attempt e.step.toNat 3 0xFF 0
    exec (.contextWatchExpiry cn) s =
      if e.ctxExpired then .next (contextFault told cn (coordDie c) .noProgress 0xFFFFFFFF 0xFFFFFFFF e.tag e.step)
      else .next ((told.setCtx cn { c with epoch := some { e with ctxExpired := true } }).sendSquall
        { kind := 1, src := coordDie c, ctx := cn, att := e.attempt % 16, cause := 3, epoch := c.epochNo }) := by
  simp only [show exec (.contextWatchExpiry cn) s = execContextWatchExpiry cn s from rfl, execContextWatchExpiry, hc, he, stuck, Bool.not_true,
    Bool.false_eq_true, if_false]

/-- Settles O37: a fault by the mark of its context, a watch by the note of its first expiry. -/
theorem faultsReportAndWatchesReplayOnce : Obligations.FaultsReportAndWatchesReplayOnce := by
  unfold Obligations.FaultsReportAndWatchesReplayOnce
  refine ⟨fun s u r c e f ix hc he => ⟨fun faulted => ?_, unitFault_reports s u r c e f ix hc he⟩,
    fun s u r c e hr hc he runs current free idle => ?_, fun s cn c e hc he stuck => ?_⟩
  · rw [unitFault, taskFault_eq hc he, contextFault_of_faulted hc faulted]
  · have expiry := execUnitWatchExpiry_eq hr hc he runs current free idle
    refine ⟨fun fresh => expiry.trans (if_neg ?_), fun ⟨p, hp, again⟩ => expiry.trans (if_pos ?_)⟩
    · rw [List.any_eq_true]
      exact fun ⟨p, hp, again⟩ => fresh p hp (beq_iff_eq.mp again)
    · exact List.any_eq_true.mpr ⟨p, hp, beq_iff_eq.mpr again⟩
  · have expiry := execContextWatchExpiry_eq hc he stuck
    exact ⟨fun first => expiry.trans (if_neg (by rw [first]; exact Bool.false_ne_true)), fun again => expiry.trans (if_pos again)⟩

end Sys2Proof.Machine

/-!
PROOFS. LOOKUP, LOAD and CVT (R84, R85, R89, R201, R206, R214).
-/

namespace Sys2Proof.Machine

/-! ### LOOKUP (R84, R89) -/

/-- The second source that LOOKUP names passes its checks: none without MULEN (R84). -/
def LookupSecond (s : State) (r : Run) (c : Ctx) (w : InstrWord) : Option TD → Prop
  | none => tbMULEN w = false
  | some m => tbMULEN w = true ∧ tslot r.T (tbTS2 w) = .ok m ∧ useSource s r.ctx c m = .ok ()

theorem LookupSecond.of_cases {s : State} {r : Run} {c : Ctx} {w : InstrWord} {t2 : Option TD} (plain : tbMULEN w = false → t2 = none)
    (scaled : tbMULEN w = true → ∃ m, t2 = some m ∧ tslot r.T (tbTS2 w) = .ok m ∧ useSource s r.ctx c m = .ok ()) : LookupSecond s r c w t2 := by
  cases mulen : tbMULEN w with
  | false => rw [plain mulen]; exact mulen
  | true =>
    obtain ⟨m, rfl, slot, used⟩ := scaled mulen
    exact ⟨mulen, slot, used⟩

/-- LOOKUP with sources that pass their checks writes its elements, and nothing when one of them is empty. -/
theorem exec_lookup {s : State} {u : UnitId} {r : Run} {c : Ctx} {w : InstrWord} {d t : TD} {t2 : Option TD} (h : Issues s u r c w clTAB 0x00)
    (hd : tslot r.T (tbTD w) = .ok d) (ht : tslot r.T (tbTS w) = .ok t) (second : LookupSecond s r c w t2) (round : rmOk (tbRM w) d.fmt = true)
    (plain : d.cmp = 0) (used : useSource s r.ctx c t = .ok ()) :
    exec (.lookup u) s = settle u r (
      let items := (tuples d.exts).map (lookupElem s r.ctx c r w d t t2)
      if t.count = 0 || (t2.map (fun x => x.count == 0)).getD false then .go s r
      else finishWrites (runWrites s r.ctx d false (itemWrites items)) r.ctx (itemWrites items) (r.raise (itemFlags items))) := by
  have checked : (rmOk (tbRM w) d.fmt && d.cmp == 0) = true := by rw [round, plain]; rfl
  rw [show exec (.lookup u) s = execLookup u s from rfl, execLookup, issue_executes h rfl]
  simp only [hd, ht, tryX_ok, check_passed checked, used]
  cases t2 with
  | none => rw [if_neg (ne_true_of_eq_false second), tryX_ok, tryX_ok]
  | some m =>
    obtain ⟨mulen, slot, usedM⟩ := second
    simp only [if_pos mulen, slot, Except.map, tryX_ok, usedM]

/-! ### LOAD (R84, R206, R210, R214) -/

section
variable {s : State} {u : UnitId} {r : Run} {c : Ctx} {w : InstrWord} {t : TD} (h : Issues s u r c w clTAB 0x01)
  (ht : tslot r.T (tbTS w) = .ok t) (source : loadSourceOk t = true)
include h ht source

/-- A LOAD that names the active bank writes nothing and sets the warning (R210). -/
theorem exec_load_active (active : nth 0 r.banks (tbSLOT w) = tbBANK w) :
    exec (.load u) s = .next (s.setRun u (advance { r with tbw := true })) := by
  rw [show exec (.load u) s = execLoad u s from rfl, execLoad, issue_executes h rfl]
  dsimp only
  rw [ht, tryX_ok, check_passed source, if_pos active, settle]

variable {bs : Bytes} (inactive : nth 0 r.banks (tbSLOT w) ≠ tbBANK w) (read : readBytes s r.ctx c t.addr 7232 = .ok bs)
  (image : imageOk (fun o => nth 0 bs o) = true ∨ (builtinOf t.addr bs).isSome = true)
  (alone : loadRaces s c r ((nth .dflt c.tabs (tbSLOT w)).bank (tbBANK w)) = false) {s1 : State}
  (prepared : prepareAll (setBankState s r.ctx (tbSLOT w) (tbBANK w) { (nth .dflt c.tabs (tbSLOT w)).bank (tbBANK w) with state := .loading }) r.ctx
    [.ok (bankVa (tbSLOT w) (tbBANK w), bs)] = .ok s1)
include inactive read image alone prepared

/-- The LOAD stands at its word while the shadow copy of its page is under way (R214). -/
theorem exec_load_waits (waits : waitPages s1 r.ctx [.ok (bankVa (tbSLOT w) (tbBANK w), bs)] ≠ []) : exec (.load u) s = .next (s1.setRun u r) := by
  have valid : (imageOk (fun o => nth 0 bs o) || (builtinOf t.addr bs).isSome) = true := by rwa [Bool.or_eq_true]
  have held : (!(waitPages s1 r.ctx [.ok (bankVa (tbSLOT w) (tbBANK w), bs)]).isEmpty) = true := by simpa [List.isEmpty_iff] using waits
  rw [show exec (.load u) s = execLoad u s from rfl, execLoad, issue_executes h rfl]
  dsimp only
  rw [ht, tryX_ok, check_passed source, if_neg inactive, read, tryX_ok, check_passed valid, alone]
  simp only [Bool.false_eq_true, if_false, prepared, held, if_true, settle]

theorem exec_load_fills {s' : State} (copied : waitPages s1 r.ctx [.ok (bankVa (tbSLOT w) (tbBANK w), bs)] = [])
    (written : runBytes s1 r.ctx [.ok (bankVa (tbSLOT w) (tbBANK w), bs)] = (s', none)) :
    exec (.load u) s = .next ((setBankState s' r.ctx (tbSLOT w) (tbBANK w)
      (Bank.loaded (builtinOf t.addr bs) (some (c.epochNo, r.att, r.task)))).setRun u (advance r)) := by
  have valid : (imageOk (fun o => nth 0 bs o) || (builtinOf t.addr bs).isSome) = true := by rwa [Bool.or_eq_true]
  rw [show exec (.load u) s = execLoad u s from rfl, execLoad, issue_executes h rfl]
  dsimp only
  rw [ht, tryX_ok, check_passed source, if_neg inactive, read, tryX_ok, check_passed valid, alone]
  simp only [Bool.false_eq_true, if_false, prepared, copied, List.isEmpty_nil, Bool.not_true, written, settle]

end

/-! ### CVT (R85, R89) -/

/-- The elements that CVT writes, from those read and the exponent of the scale (R85). -/
def cvtResults (w : InstrWord) (d : TD) (l : List CvtIn) (e : Nat) : List ((Nat × Bytes) × Flags) :=
  if cSCL w = 2 then l.flatMap (cvtBlock d (RM.ofCode (cRM w)) (cMARG w) l) else l.map (cvtOut d (RM.ofCode (cRM w)) (127 - (e : Int)))

section
variable {s s' : State} {u : UnitId} {r : Run} {c : Ctx} {w : InstrWord} {d t : TD} {l : List CvtIn} {e : Nat} (h : Issues s u r c w clCVT 0x00)
  (defined : cSCL w ≠ 3) (hd : tslot r.T (cTD w) = .ok d) (ht : vecSource s r.ctx c r.T (cTS w) = .ok t) (round : rmOk (cRM w) d.fmt = true)
  (plain : d.cmp = 0) (blocks : cSCL w = 2 → d.sblk = 1) (dest : d.count ≠ 0) (src : t.count ≠ 0)
  (read : mapE (cvtIn s r.ctx c t) (tuples d.exts) = .ok l) (scale : cSCL w = 1 → readScode s r.ctx c (cSLOT w) = .ok e) (unscaled : cSCL w ≠ 1 → e = 127)
  (written : runWrites s r.ctx d false ((cvtResults w d l e).map (fun p => .ok p.1)) = (s', none))
include h defined hd ht round plain blocks dest src read scale unscaled written

theorem exec_cvt :
    let a := amaxOf (l.map (·.wide))
    let ws : List WItem := (cvtResults w d l e).map (fun p => .ok p.1)
    let fl := orFlags ((cvtResults w d l e).map (·.2)) ||| (if cAMAX w then amaxFlag a else 0)
    exec (.cvt u) s = settle u r (
      if cAMAX w then
        tryX s' (gatherAmax s' r.ctx (cSLOT w) a d.fmt) fun s'' =>
        finishWrites (s'', none) r.ctx (ws ++ [.ok (scaleSlotVa (cSLOT w), toBytes 4 0)]) (r.raise fl)
      else finishWrites (s', none) r.ctx ws (r.raise fl)) := by
  have checked : (rmOk (cRM w) d.fmt && d.cmp == 0 && (cSCL w != 2 || d.sblk == 1)) = true := by
    rw [round, plain]
    simpa [imp_iff_not_or] using blocks
  have exponent : (if cSCL w = 1 then readScode s r.ctx c (cSLOT w) else .ok 127) = .ok e := by
    split
    · exact scale ‹_›
    · rw [unscaled ‹_›]
  rw [show exec (.cvt u) s = execCvt u s from rfl, execCvt, issue_executes h (bne_iff_ne.mpr defined)]
  dsimp only
  rw [hd, tryX_ok, ht, tryX_ok, check_passed checked, if_neg (not_or.mpr ⟨dest, src⟩), read, tryX_ok, exponent, tryX_ok]
  rw [cvtResults] at written ⊢
  simp only [written]

end

/-- Settles O16: each row by its equation above. -/
theorem tableAndConversionInstructionsComplete : Obligations.TableAndConversionInstructionsComplete := by
  unfold Obligations.TableAndConversionInstructionsComplete
  refine fun s s' u r c w d t => ⟨fun t2 h hd ht single scaled round plain used => ?_, fun h ht source active => exec_load_active h ht source active,
    fun bs h ht source inactive read image alone s1 prepared => ⟨fun waits => ?_, fun copied written => ?_⟩,
    fun l e h defined hd ht round plain blocks dest src read scale unscaled written => ?_⟩
  · have effect := exec_lookup h hd ht (.of_cases single scaled) round plain used
    refine ⟨fun empty => ?_, fun full fullM written => ?_⟩
    · rw [effect, empty]
      rfl
    · have fullBoth : (decide (t.count = 0) || (t2.map (fun x => x.count == 0)).getD false) = false := by
        cases t2 with
        | none => simpa using full
        | some m => simpa using ⟨full, fullM m rfl⟩
      rw [effect]
      dsimp only
      rw [fullBoth, if_neg Bool.false_ne_true, settle_finishWrites written]
      rfl
  · exact exec_load_waits h ht source inactive read image alone prepared waits
  · exact exec_load_fills h ht source inactive read image alone prepared copied written
  · have effect := exec_cvt h defined hd ht round plain blocks dest src read scale unscaled written
    refine ⟨fun no => ?_, fun s'' yes gathered => ?_⟩
    · rw [effect, no, if_neg Bool.false_ne_true, if_neg Bool.false_ne_true, settle_finishWrites rfl]
      rfl
    · rw [effect, yes, if_pos rfl, if_pos rfl, gathered, tryX_ok, settle_finishWrites rfl]
      rfl

end Sys2Proof.Machine

/-!
PROOFS. MM, CONV, ATTEND, KVAPPEND and PUSH at issue (R79 to R82, R86, R87, R153, R174).
-/

namespace Sys2Proof.Machine

/-- What settles of an instruction whose check column may signal (R153). -/
theorem settle_detect {s : State} {u : UnitId} {r : Run} {detect seen : Bool} {e : Eff} :
    (detect = true → seen = true →
      settle u r (if detect && seen then .jump (stopChecked s u r) { r with phase := .held } else e) =
        .next ((stopChecked s u r).setRun u { r with phase := .held })) ∧
    (detect = false ∨ seen = false →
      settle u r (if detect && seen then .jump (stopChecked s u r) { r with phase := .held } else e) = settle u r e) := by
  refine ⟨fun hd hs => ?_, fun h => ?_⟩
  · rw [if_pos (by rw [hd, hs]; rfl), settle]
  · rw [Bool.and_eq_false_iff.mpr h, if_neg Bool.false_ne_true]

section
variable {s : State} {u : UnitId} {r : Run} {c : Ctx} {w : InstrWord} {det : Bool}

/-! ### MM and CONV (R79 to R82) -/

/-- An MM whose tokens have come issues as planned. -/
theorem exec_mm {qx qw : Option (BitVec 512)} {p : MmPlan} {st : MmState} (h : Issues s u r c w clMMA 0x00) (fits : mmStatic u.kind w = true)
    (hx : prologueSlot r.Q (xQXEN w) (xQX w) = .ok qx) (hw : prologueSlot r.Q (xQWEN w) (xQW w) = .ok qw)
    (free : heldByToken s r.ctx c r [qx, qw] = .ok none) (plan : mmPlan s r.ctx c u.kind r w = .ok p)
    (run : mmRun s r.ctx c r w p (mmGroups r w) = .ok st) :
    exec (.mm u det) s = settle u r (
      if det && checkable (fun a => mmPasses s r.ctx c r w p a (mmGroups r w)) then .jump (stopChecked s u r) { r with phase := .held }
      else .go (if (mmGroups r w).any (clobbered r w p) then s.tick else s) ({ r with
        planes := st.planes, drains := r.drains ++ st.drains,
        arrays := arraysAfter s u c r (fun a => mmPasses s r.ctx c r w p a (lastTwo (mmGroups r w))) }.raise st.flags)) := by
  rw [show exec (.mm u det) s = execMm u det s from rfl, execMm, issue_executes h fits]
  dsimp only
  rw [hx, tryX_ok, hw, tryX_ok, free, tryX_ok, plan, tryX_ok, run, tryX_ok]

/-- An MM waits for the tokens of its prologues (R174). -/
theorem exec_mm_waits {qx qw : Option (BitVec 512)} {toks : List (Nat × Word64)} (h : Issues s u r c w clMMA 0x00) (fits : mmStatic u.kind w = true)
    (hx : prologueSlot r.Q (xQXEN w) (xQX w) = .ok qx) (hw : prologueSlot r.Q (xQWEN w) (xQW w) = .ok qw)
    (held : heldByToken s r.ctx c r [qx, qw] = .ok (some toks)) : exec (.mm u det) s = .next (s.setRun u { r with phase := .waitPrologue toks }) := by
  rw [show exec (.mm u det) s = execMm u det s from rfl, execMm, issue_executes h fits]
  dsimp only
  rw [hx, tryX_ok, hw, tryX_ok, held, tryX_ok, settle]

theorem exec_conv {qx : Option (BitVec 512)} {p : ConvPlan} {st : MmState} (h : Issues s u r c w clWIN 0x00) (fits : convStatic u.kind w = true)
    (hx : prologueSlot r.Q (nQXEN w) (nQX w) = .ok qx) (free : heldByToken s r.ctx c r [qx] = .ok none)
    (plan : convPlan s r.ctx c u.kind r w qx = .ok p) (run : convRun s r.ctx c r w p = .ok st) :
    exec (.conv u det) s = settle u r (
      if det && checkable (fun a => convPasses s r.ctx c r w p a (convGroups w p.tc)) then .jump (stopChecked s u r) { r with phase := .held }
      else .go (if convClash w p then s.tick else s) ({ r with
        planes := st.planes, drains := r.drains ++ st.drains,
        arrays := arraysAfter s u c r (fun a => convPasses s r.ctx c r w p a (lastTwo (convGroups w p.tc))) }.raise
          (st.flags ||| (if nPAD w = 1 then (padConst p r w).flags else 0)))) := by
  rw [show exec (.conv u det) s = execConv u det s from rfl, execConv, issue_executes h fits]
  dsimp only
  rw [hx, tryX_ok, free, tryX_ok, plan, tryX_ok, run, tryX_ok]

/-! ### ATTEND and KVAPPEND (R86) -/

/-- An ATTEND that passes its checks joins the ATTN group (R223). -/
theorem exec_attend {p : AttnPlan} {r' : Run} (h : Issues s u r c w clATTN 0x00) (fits : attnStatic u.kind w = true)
    (plan : attnPlan s r.ctx c r.S r.T w none = .ok p) (checked : attnOk p w = true)
    (joined : (beginHead (s.setRun u { r with attns := r.attns ++ [.attend (snapshot r w) none] }) u).run? u = some r') :
    exec (.attend u false) s =
      .next ((beginHead (s.setRun u { r with attns := r.attns ++ [.attend (snapshot r w) none] }) u).setRun u (advance r')) := by
  rw [show exec (.attend u false) s = execAttend u false s from rfl, execAttend, issue_executes h fits]
  dsimp only
  rw [plan, tryX_ok, check_passed checked, Bool.false_and, if_neg Bool.false_ne_true, joined, settle]

/-- One whose check fails in a group of rows that is checked passes nothing on (R153). -/
theorem exec_attend_detected {p : AttnPlan} {walk : Option Walk} {g : Nat} (h : Issues s u r c w clATTN 0x00) (fits : attnStatic u.kind w = true)
    (plan : attnPlan s r.ctx c r.S r.T w none = .ok p) (checked : attnOk p w = true)
    (walks : (if aPAGED w then takeWalk s r.ctx c p.tk else .ok none) = .ok walk) (hg : g < ceilDiv p.rows 128)
    (seen : checkable (fun _ => scorePass s r.ctx c p walk g) = true) :
    exec (.attend u true) s = .next ((stopChecked s u r).setRun u { r with phase := .held }) := by
  have detected : (rangeFrom 0 (ceilDiv p.rows 128)).any (fun g => checkable (fun _ => scorePass s r.ctx c p walk g)) = true :=
    List.any_eq_true.mpr ⟨g, mem_rangeFrom.mpr ⟨Nat.zero_le g, by rwa [Nat.zero_add]⟩, seen⟩
  rw [show exec (.attend u true) s = execAttend u true s from rfl, execAttend, issue_executes h fits]
  dsimp only
  rw [plan, tryX_ok, check_passed checked, walks]
  dsimp only
  rw [detected, Bool.true_and, if_pos rfl, settle]

section
variable {p : AppendPlan} {r' : Run} (h : Issues s u r c w clATTN 0x01) (plan : appendPlan s r.ctx c r.S r.T w = .ok p) (checked : appendOk p w = true)
include h plan checked

/-- A KVAPPEND of a resident sequence takes the pages of its tokens and joins the ATTN group (R236). -/
theorem exec_kvappend_resident {t : State} (resident : hState p.h = stResident)
    (pages : allocRange (s.setRun u { r with attns := r.attns ++ [.append (snapshot r w) p.sn] }) r.ctx u p.sn (tokenPages p.pos p.n) = .ok t)
    (joined : t.run? u = some r') : exec (.kvappend u) s = .next (t.setRun u (advance r')) := by
  rw [show exec (.kvappend u) s = execKvappend u s from rfl, execKvappend, issue_executes h rfl]
  dsimp only
  rw [plan, tryX_ok, check_passed checked, if_pos resident, pages, tryX_ok, joined, settle]

/-- One of a sequence that is paged out asks for it first (R238). -/
theorem exec_kvappend_absent (absent : hState p.h ≠ stResident)
    (joined : (needResident (s.setRun u { r with attns := r.attns ++ [.append (snapshot r w) p.sn] }) r.ctx p.sn).run? u = some r') :
    exec (.kvappend u) s =
      .next ((needResident (s.setRun u { r with attns := r.attns ++ [.append (snapshot r w) p.sn] }) r.ctx p.sn).setRun u (advance r')) := by
  rw [show exec (.kvappend u) s = execKvappend u s from rfl, execKvappend, issue_executes h rfl]
  dsimp only
  rw [plan, tryX_ok, check_passed checked, if_neg absent, joined, settle]

end

/-! ### PUSH (R87) -/

theorem exec_push {d : TD} {bs : Bytes} {key tok : Nat} (h : Issues s u r c w clPUSH 0x00) (fits : pushStatic u.kind w = true)
    (hd : vecSource s r.ctx c r.T (pTS w) = .ok d) (packed : packTensor s r.ctx c d = .ok bs) (target : pushTarget r.ctx c r w bs.length = .ok key)
    (token : pushToken r.ctx c w = .ok tok) :
    exec (.push u) s =
      .next ((addFlights s u r c false [(if bs = [] then [] else [(key, bs)], tok)]).setRun u (advance { r with pushes := r.pushes + 1 })) := by
  rw [show exec (.push u) s = execPush u s from rfl, execPush, issue_executes h fits]
  simp only [hd, packed, target, token, tryX_ok, List.isEmpty_iff, settle]

end

/-- Settles O17: each row by its equation above, MM and CONV by whether the check column signals. -/
theorem matrixAttentionAndPushIssue : Obligations.MatrixAttentionAndPushIssue := by
  unfold Obligations.MatrixAttentionAndPushIssue
  refine fun s u r c w => ⟨fun qx qw p st det h fits hx hw free plan run => ?_, fun qx qw toks det h fits hx hw held => exec_mm_waits h fits hx hw held,
    fun qx p st det h fits hx free plan run => ?_, fun p r' h fits plan checked joined => exec_attend h fits plan checked joined,
    fun p walk g h fits plan checked walks hg seen => exec_attend_detected h fits plan checked walks hg seen,
    fun p r' t h plan checked resident pages joined => exec_kvappend_resident h plan checked resident pages joined,
    fun p r' h plan checked absent joined => exec_kvappend_absent h plan checked absent joined,
    fun d bs key tok h fits hd packed target token => exec_push h fits hd packed target token⟩
  · rw [exec_mm h fits hx hw free plan run]
    exact settle_detect
  · rw [exec_conv h fits hx free plan run]
    exact settle_detect

end Sys2Proof.Machine

/-!
PROOFS. The ends of asynchronous instructions, and the delivery of pushes (R70, R144, R153, R227, R236, R322, R365).
-/

namespace Sys2Proof.Machine

/-! ### What an attention pass leaves (R227, R241) -/

/-- The outputs and row records of a pass; free where they cannot be relied on (R97, R240). -/
def passWrites (s : State) (loose : Bool) (p : AttnPlan) (w : InstrWord) (outs : List RowOut) : List WItem :=
  if loose then freeItems s.freeIx (outs.flatMap (rowItems p w)) else outs.flatMap (rowItems p w)

/-- What a pass adds to the masses of the pages it has swept. -/
def passMasses (s : State) (loose : Bool) (p : AttnPlan) (w : InstrWord) (rows : List RowSt) (outs : List RowOut) : List (Nat × Nat) :=
  if aEVS w then (sweepPages p rows).map (fun pg => (pg, if loose then Config.freeNat s.freeIx pg % 2 ^ 64 else pageMass (rows.zip outs) pg)) else []

section
variable {s : State} {u : UnitId} {r : Run} {c : Ctx} (hr : s.run? u = some r) (free : r.phase ≠ .held) (hc : s.ctx? r.ctx = some c)
include hr free hc

/-! ### Drains (R144, R153) -/

section
variable {d : Drain} {rest : List Drain} (oldest : r.drains = d :: rest)
include oldest

/-- A drain whose residue check fails writes nothing. -/
theorem exec_mmaDrain_mismatch : exec (.mmaDrain u true) s = .next (stopChecked s u r) := by
  simp only [show exec (.mmaDrain u true) s = execMmaDrain u true s from rfl, execMmaDrain, hr, if_neg free, oldest, hc, if_true]

theorem exec_mmaDrain_completes {s1 s2 : State} {tc : TD} {chain : Option (BitVec 512)} {ws : List WItem}
    (dest : tslot d.snap.T (xTC d.snap.word) = .ok tc) (named : drainChain d = .ok chain)
    (planned : drainWrites s r.ctx c r.banks d tc chain = .ok ws) (prepared : prepareAll s r.ctx ws = .ok s1) (copied : waitPages s1 r.ctx ws = [])
    (run : drainRun s1 u r rest c d tc chain = .ok s2) :
    exec (.mmaDrain u false) s = .next (if tc.aliased then s2.tick else s2) := by
  simp only [show exec (.mmaDrain u false) s = execMmaDrain u false s from rfl, execMmaDrain, hr, if_neg free, oldest, hc, Bool.false_eq_true, if_false,
    dest, named, planned, prepared, copied, List.isEmpty_nil, Bool.not_true, run]

end

/-! ### Attention passes (R227, R241) -/

section
variable {sp : Snapshot} {walk : Option Walk} {rest : List AttnOp} (oldest : r.attns = .attend sp walk :: rest)
  (walked : aPAGED sp.word = true → walk.isNone = false)
include oldest walked

theorem exec_attendPassEnd_mismatch : exec (.attendPassEnd u true) s = .next (stopChecked s u r) := by
  have ready : (aPAGED sp.word && walk.isNone) = false := by simpa using walked
  simp only [show exec (.attendPassEnd u true) s = execAttendPassEnd u true s from rfl, execAttendPassEnd, hr, if_neg free, oldest, hc, ready,
    Bool.false_eq_true, if_false, if_true]

theorem exec_attendPassEnd_completes {p : AttnPlan} {rows : List RowSt} {s1 s2 s3 s4 : State} (plan : attnPlan s r.ctx c sp.S sp.T sp.word walk = .ok p)
    (pass : attnPass s r.ctx c p (aMASK sp.word) walk = .ok rows) :
    let outs := rows.map (finishRow p.out.fmt (RM.ofCode (aRM sp.word)))
    let loose := walkForged c walk || p.out.aliased
    let ws := passWrites s loose p sp.word outs
    let mass := passMasses s loose p sp.word rows outs
    prepareAll s r.ctx ws = .ok s1 → prepareMass s1 r.ctx p.root mass = .ok s2 → waitPages s2 r.ctx (ws ++ massItems p.root mass) = [] →
    runBytes s2 r.ctx ws = (s3, none) → addMass s3 r.ctx p.root mass = .ok s4 →
    exec (.attendPassEnd u false) s = .next (beginHead ((if loose then s4.tick else s4).setRun u
      { r with attns := rest, astat := r.astat ||| orFlags (outs.map (·.flags)) }) u) := by
  intro outs loose ws mass prepared masses copied written added
  have ready : (aPAGED sp.word && walk.isNone) = false := by simpa using walked
  have wsEq : (if walkForged c walk || p.out.aliased then freeItems s.freeIx ((rows.map (finishRow p.out.fmt (RM.ofCode (aRM sp.word)))).flatMap
      (rowItems p sp.word)) else (rows.map (finishRow p.out.fmt (RM.ofCode (aRM sp.word)))).flatMap (rowItems p sp.word)) = ws := rfl
  have massEq : (if aEVS sp.word then (sweepPages p rows).map (fun pg => (pg, if walkForged c walk || p.out.aliased then
      Config.freeNat s.freeIx pg % 2 ^ 64 else pageMass (rows.zip (rows.map (finishRow p.out.fmt (RM.ofCode (aRM sp.word))))) pg)) else []) = mass := rfl
  simp only [show exec (.attendPassEnd u false) s = execAttendPassEnd u false s from rfl, execAttendPassEnd, hr, if_neg free, oldest, hc, ready,
    Bool.false_eq_true, if_false, plan, pass, wsEq, massEq, prepared, masses, copied, List.isEmpty_nil, Bool.not_true, written, added]
  rfl

end

/-! ### Appends (R236) -/

theorem exec_kvappendDone_mismatch {sp : Snapshot} {n : Nat} {rest : List AttnOp} (oldest : r.attns = .append sp n :: rest) :
    exec (.kvappendDone u true) s = .next (stopChecked s u r) := by
  simp only [show exec (.kvappendDone u true) s = execKvappendDone u true s from rfl, execKvappendDone, hr, if_neg free, oldest, hc, if_true]

theorem exec_kvappendDone_completes {sp : Snapshot} {n : Nat} {rest : List AttnOp} {p : AppendPlan} {s1 s2 s3 s4 : State}
    (oldest : r.attns = .append sp n :: rest) (plan : appendPlan s r.ctx c sp.S sp.T sp.word = .ok p) (ready : appendReady s r.ctx c p = true) :
    let items := appendItems s r.ctx c p sp.word
    let ws := items.map (·.1)
    prepareWrite s r.ctx p.q.root 64 (decide (0 < p.n)) = .ok s1 → prepareAll s1 r.ctx ws = .ok s2 →
    waitPages s2 r.ctx (.ok (p.q.root, List.replicate 64 0) :: ws) = [] → appendBytes s2 r.ctx ws = (s3, none) →
    (if p.n = 0 then .ok s3 else putBytes s3 r.ctx p.q.root (toBytes 4 (max (hLen p.h) (p.pos + p.n)))) = .ok s4 →
    exec (.kvappendDone u false) s =
      .next (beginHead (s4.setRun u { r with attns := rest, astat := r.astat ||| orFlags (items.map (·.2)) }) u) := by
  intro items ws header prepared copied written counted
  simp only [show exec (.kvappendDone u false) s = execKvappendDone u false s from rfl, execKvappendDone, hr, if_neg free, oldest, hc,
    Bool.false_eq_true, if_false, plan, ready, Bool.not_true, header, show prepareAll s1 r.ctx ((appendItems s r.ctx c p sp.word).map (·.1)) = .ok s2 from prepared]
  rw [show waitPages s2 r.ctx (.ok (p.q.root, List.replicate 64 0) :: (appendItems s r.ctx c p sp.word).map (·.1)) = [] from copied, List.isEmpty_nil]
  simp only [Bool.not_true, Bool.false_eq_true, if_false]
  rw [show appendBytes s2 r.ctx ((appendItems s r.ctx c p sp.word).map (·.1)) = (s3, none) from written]
  dsimp only
  rw [counted]
  rfl

end

/-! ### Pushes (R70, R322, R379) -/

/-- The bytes of a push's tile, written in order. -/
def landWrites (m : Memory) (ws : List (Nat × Bytes)) : Memory := ws.foldl (fun m w => Memory.setBytes m w.1 w.2) m

theorem landWrites_wf {m : Memory} (h : Memory.wf m = true) : ∀ ws : List (Nat × Bytes), Memory.wf (landWrites m ws) = true
  | [] => h
  | w :: ws => landWrites_wf (Memory.wf_setBytes h w.1 w.2) ws

theorem get_landWrites {a : Nat} : ∀ {ws : List (Nat × Bytes)} {m : Memory}, Memory.wf m = true → (∀ w ∈ ws, a < w.1 ∨ w.1 + w.2.length ≤ a) →
    Memory.get (landWrites m ws) a = Memory.get m a
  | [], _, _, _ => rfl
  | w :: ws, m, h, clear => by
    rw [show landWrites m (w :: ws) = landWrites (Memory.setBytes m w.1 w.2) ws from rfl,
      get_landWrites (Memory.wf_setBytes h _ _) (fun x hx => clear x (List.mem_cons_of_mem _ hx)), Memory.get_setBytes h, if_pos (clear w List.mem_cons_self)]

section
variable {s : State} {src dst : Nat} {f : Flight} (first : s.fabric.find? (fun f => f.src == src && f.dst == dst) = some f)
include first

/-- A push waits behind the earlier ones of its group (R70). -/
theorem exec_pushDelivery_heldBack (behind : heldBack s f = true) : exec (.pushDelivery src dst) s = .next s := by
  simp only [show exec (.pushDelivery src dst) s = execPushDelivery src dst s from rfl, execPushDelivery, first, behind, Bool.true_or, if_true]

variable (front : heldBack s f = false) (route : ∀ d ∈ routeDies s src dst, islandDown s 5 d 0 = false)
include front route

theorem exec_pushDelivery : exec (.pushDelivery src dst) s =
    .next (if flightLive s f then deliver { s with fabric := s.fabric.erase f } f else { s with fabric := s.fabric.erase f }) := by
  have up : (routeDies s src dst).any (fun d => islandDown s 5 d 0) = false := by
    rw [List.any_eq_false]
    exact fun d hd => ne_true_of_eq_false (route d hd)
  simp only [show exec (.pushDelivery src dst) s = execPushDelivery src dst s from rfl, execPushDelivery, first, front, up, Bool.or_self,
    Bool.false_eq_true, if_false]

end

theorem deliver_mem (s : State) (f : Flight) : (deliver s f).mem = decWindow (landWrites s.mem f.writes) f.token := rfl

/-- A delivery stores to its tile and its token alone. -/
theorem get_deliver {s : State} {f : Flight} {a : Nat} (hm : MemInv s) (token : a < f.token ∨ f.token + 8 ≤ a)
    (clear : ∀ w ∈ f.writes, a < w.1 ∨ w.1 + w.2.length ≤ a) : Memory.get (deliver s f).mem a = Memory.get s.mem a := by
  rw [deliver_mem, decWindow, Memory.get_setBytes (landWrites_wf hm _), toBytes_size, if_pos token, get_landWrites hm clear]

/-- A tile clear of the token lands as sent, and the token goes down by one (R322). -/
theorem getBytes_deliver {s : State} {f : Flight} {w : Nat × Bytes} (hm : MemInv s) (one : f.writes = [w])
    (clear : w.1 + w.2.length ≤ f.token ∨ f.token + 8 ≤ w.1) :
    Memory.getBytes (deliver s f).mem w.1 w.2.length = w.2 ∧
      Memory.getBytes (deliver s f).mem f.token 8 = toBytes 8 (BitVec.ofNat 64 (ofBytes (Memory.getBytes s.mem f.token 8)) - 1).toNat := by
  have landedWf : Memory.wf (Memory.setBytes s.mem w.1 w.2) = true := Memory.wf_setBytes hm _ _
  have memory : (deliver s f).mem = decWindow (Memory.setBytes s.mem w.1 w.2) f.token := by rw [deliver_mem, one]; rfl
  have tile : Memory.getBytes (deliver s f).mem w.1 w.2.length = Memory.getBytes (Memory.setBytes s.mem w.1 w.2) w.1 w.2.length := by
    rw [memory, decWindow]
    refine List.map_congr_left fun a ha => ?_
    rw [mem_rangeFrom] at ha
    rw [Memory.get_setBytes landedWf, toBytes_size, if_pos (by omega)]
  have token : Memory.getBytes (Memory.setBytes s.mem w.1 w.2) f.token 8 = Memory.getBytes s.mem f.token 8 := by
    refine List.map_congr_left fun a ha => ?_
    rw [mem_rangeFrom] at ha
    rw [Memory.get_setBytes hm, if_pos (by omega)]
  refine ⟨tile.trans (Memory.getBytes_setBytes hm w.1 w.2), ?_⟩
  have stored := Memory.getBytes_setBytes landedWf f.token
    (toBytes 8 (BitVec.ofNat 64 (ofBytes (Memory.getBytes (Memory.setBytes s.mem w.1 w.2) f.token 8)) - 1).toNat)
  rw [toBytes_size] at stored
  rw [memory, decWindow, stored, token]

theorem run?_deliver {s : State} {f : Flight} {r : Run} (hr : s.run? f.owner = some r) (ctx : r.ctx = f.ctx) (att : r.att = f.att)
    (drained : f.stage = false) : (deliver s f).run? f.owner = some { r with pushes := r.pushes - 1 } := by
  rw [show (deliver s f).run? f.owner = some (landed r f) from
    State.run?_modRun (s := { s with mem := decWindow (landWrites s.mem f.writes) f.token }) hr, landed, if_pos ⟨ctx, att⟩, drained,
    if_neg Bool.false_ne_true]

/-- Settles O18: the ends by their equations above, a delivery by what `deliver` stores. -/
theorem asynchronousInstructionsComplete : Obligations.AsynchronousInstructionsComplete := by
  unfold Obligations.AsynchronousInstructionsComplete
  refine ⟨fun s s1 s2 u r c d rest tc chain ws hr free oldest hc => ⟨exec_mmaDrain_mismatch hr free hc oldest,
      fun dest named planned prepared copied run => exec_mmaDrain_completes hr free hc oldest dest named planned prepared copied run⟩,
    fun s s1 s2 s3 s4 u r c sp walk rest p rows hr free oldest hc walked => ⟨exec_attendPassEnd_mismatch hr free hc oldest walked,
      fun plan pass => exec_attendPassEnd_completes hr free hc oldest walked plan pass⟩,
    fun s s1 s2 s3 s4 u r c sp n rest p hr free oldest hc => ⟨exec_kvappendDone_mismatch hr free hc oldest,
      fun plan ready => exec_kvappendDone_completes hr free hc oldest plan ready⟩,
    fun s src dst f first => ⟨exec_pushDelivery_heldBack first, fun front route dead => ?_⟩,
    fun s src dst f first live front route hm => ⟨deliver { s with fabric := s.fabric.erase f } f, ?_, rfl, rfl, fun a token clear => ?_,
      fun w one clear => ?_, fun r hr ctx att drained => run?_deliver hr ctx att drained⟩⟩
  · rw [exec_pushDelivery first front route, dead, if_neg Bool.false_ne_true]
  · rw [exec_pushDelivery first front route, live, if_pos rfl]
  · exact get_deliver (s := { s with fabric := s.fabric.erase f }) hm token clear
  · exact getBytes_deliver (s := { s with fabric := s.fabric.erase f }) hm one clear

end Sys2Proof.Machine

/-!
PROOFS. Transfers of the MOVE class (R70, R71, R78, R97, R278, R365, R458).
-/

namespace Sys2Proof.Machine

/-! ### Issue (R71, R78) -/

theorem issueMove_joins {s : State} {u : UnitId} {r : Run} {c : Ctx} {w : InstrWord} {op : Nat} (h : Issues s u r c w clMOVE op)
    (checked : moveChecks s r.ctx c r.T w = .ok ()) : issueMove op u s = .next (s.setRun u (advance { r with moves := r.moves ++ [snapshot r w] })) := by
  rw [issueMove, issue_executes h rfl, checked, tryX_ok, settle]

/-- The rows of the class issue alike. -/
theorem exec_move {i : Instr} {u : UnitId} {op : Nat} (h : (i, op) ∈ [(Instr.copy u, 0), (.fill u, 1), (.hostrd u, 2), (.hostwr u, 3), (.gather u, 4)])
    (s : State) : exec i s = issueMove op u s := by
  simp only [List.mem_cons, Prod.mk.injEq, List.not_mem_nil, or_false] at h
  rcases h with ⟨rfl, rfl⟩ | ⟨rfl, rfl⟩ | ⟨rfl, rfl⟩ | ⟨rfl, rfl⟩ | ⟨rfl, rfl⟩ <;> rfl

/-! ### The check of the data (R278, R365) -/

theorem moveCustody_passes (op : Nat) (ok : Bool) : (moveCustody op).1.passes (moveCustody op).2 ok = ok := by
  rw [moveCustody]
  split
  · cases ok <;> decide
  · split <;> cases ok <;> decide

/-! ### Writes to a host (R78) -/

/-- A host's frames leave at once while its port does not pause them (R327). -/
theorem toHost_emits {s : State} {slot : Nat} {h : HostRec} (attached : s.host? slot = some h) (flows : hostPaused s slot = false) (cn : Nat) (o : Out) :
    s.toHost slot (some cn) none o = s.emit o := by
  rw [hostPaused, attached] at flows
  simp only [State.toHost, attached, State.sendItem]
  exact if_neg (ne_true_of_eq_false flows)

theorem foldl_sendElem {slot : Nat} {h : HostRec} (cn : Nat) : ∀ {ws : List (Window × Nat × Bytes)} {s : State}, s.host? slot = some h →
    hostPaused s slot = false →
    ws.foldl (sendElem cn slot) s = { s with out := s.out ++ ws.map (fun w => Out.hostWrite slot w.1.rkey w.2.1 w.2.2) }
  | [], s, _, _ => by rw [List.map_nil, List.append_nil]; rfl
  | w :: ws, s, attached, flows => by
    have sent : sendElem cn slot s w = s.emit (.hostWrite slot w.1.rkey w.2.1 w.2.2) := toHost_emits attached flows cn _
    rw [List.foldl_cons, sent, foldl_sendElem cn (s := s.emit _) attached flows, List.map_cons]
    simp [State.emit]

/-- One element of a HOSTWR: its window, its address in the host and its bytes. -/
def hostwrItem (s : State) (cn : Nat) (c : Ctx) (win : Option Window) (d t : TD) (ix : List Nat) : X (Window × Nat × Bytes) :=
  match hostElem win d ix, readElem s cn c t ix with
  | .ok (w, o), .ok b => .ok (w, w.va + o, toBytes d.fmt.size b)
  | .error e, _ => .error e
  | _, .error e => .error e

theorem hostwrItems_eq (s : State) (cn : Nat) (c : Ctx) (win : Option Window) (d t : TD) :
    hostwrItems s cn c win d t = (tuples d.exts).map (hostwrItem s cn c win d t) := rfl

theorem hostwrItem_inside {s : State} {cn : Nat} {c : Ctx} {x : Window} {d t : TD} {ix : List Nat} {b : Nat}
    (inside : d.elemAddr ix + d.fmt.size ≤ x.len) (read : readElem s cn c t ix = .ok b) :
    hostwrItem s cn c (some x) d t ix = .ok (x, x.va + d.elemAddr ix, toBytes d.fmt.size b) := by
  simp only [hostwrItem, hostElem, if_pos inside, read]

theorem mapE_cons_ok {ε α β : Type} {f : α → Except ε β} {a : α} {l : List α} {bs : List β} (h : mapE f (a :: l) = .ok bs) :
    ∃ b r, f a = .ok b ∧ mapE f l = .ok r ∧ bs = b :: r := by
  rw [mapE] at h
  cases ha : f a with
  | error e => rw [ha] at h; cases h
  | ok b =>
    cases hl : mapE f l with
    | error e => rw [ha, hl] at h; cases h
    | ok r => rw [ha, hl] at h; exact ⟨b, r, rfl, rfl, (Except.ok.inj h).symm⟩

/-- Elements that can be read and lie in the window are all sent. -/
theorem mapE_hostwrItem {s : State} {cn : Nat} {c : Ctx} {x : Window} {d t : TD} : ∀ {l : List (List Nat)} {vals : List Nat},
    mapE (readElem s cn c t) l = .ok vals → (∀ ix ∈ l, d.elemAddr ix + d.fmt.size ≤ x.len) →
    mapE (fun y => y) (l.map (hostwrItem s cn c (some x) d t)) =
      .ok ((l.zip vals).map (fun p => (x, x.va + d.elemAddr p.1, toBytes d.fmt.size p.2)))
  | [], _, _, _ => by rw [List.zip_nil_left]; rfl
  | ix :: l, vals, read, inside => by
    obtain ⟨b, bs, first, rest, rfl⟩ := mapE_cons_ok read
    rw [List.map_cons, mapE, hostwrItem_inside (inside ix List.mem_cons_self) first,
      mapE_hostwrItem rest fun y hy => inside y (List.mem_cons_of_mem ix hy), List.zip_cons_cons, List.map_cons]

/-! ### The end of the oldest transfer (R70, R278) -/

section
variable {s : State} {u : UnitId} {r : Run} {c : Ctx} {sn : Snapshot} {rest : List Snapshot} {data : Bytes} (hr : s.run? u = some r)
  (free : r.phase ≠ .held) (oldest : r.moves = sn :: rest) (hc : s.ctx? r.ctx = some c)
include hr free oldest hc

theorem exec_moveDone_spoilt : exec (.moveDone u data false) s = .next (moveSpoilt s u r (wOp sn.word)) := by
  simp only [show exec (.moveDone u data false) s = execMoveDone u data false s from rfl, execMoveDone, hr, if_neg free, oldest, hc,
    moveCustody_passes, Bool.not_false, if_true]

variable {d : TD} (hd : tslot sn.T (mTD sn.word) = .ok d)
include hd

theorem exec_moveDone_fill (op : wOp sn.word = 1) : exec (.moveDone u data true) s =
    .next (settleMove u r sn rest (asyncWrites s r.ctx d (mKEY sn.word) (fillItems d (sreg sn.S (mSK sn.word))))) := by
  simp only [show exec (.moveDone u data true) s = execMoveDone u data true s from rfl, execMoveDone, hr, if_neg free, oldest, hc,
    moveCustody_passes, Bool.not_true, Bool.false_eq_true, if_false, hd, if_pos op]

variable {t : TD} (ht : tslot sn.T (mTS sn.word) = .ok t)
include ht

theorem exec_moveDone_copy (op : wOp sn.word = 0) : exec (.moveDone u data true) s =
    .next (settleMove u r sn rest (asyncWrites s r.ctx d (mKEY sn.word) (copyItems s r.ctx c d t))) := by
  simp only [show exec (.moveDone u data true) s = execMoveDone u data true s from rfl, execMoveDone, hr, if_neg free, oldest, hc,
    moveCustody_passes, Bool.not_true, Bool.false_eq_true, if_false, hd, ht, op, Nat.reduceEqDiff]

theorem exec_moveDone_gather {i : TD} (op : wOp sn.word = 4) (hi : tslot sn.T (mTI sn.word) = .ok i) : exec (.moveDone u data true) s =
    .next (settleMove u r sn rest (asyncWrites s r.ctx d (mKEY sn.word) (gatherItems s r.ctx c d t i))) := by
  simp only [show exec (.moveDone u data true) s = execMoveDone u data true s from rfl, execMoveDone, hr, if_neg free, oldest, hc,
    moveCustody_passes, Bool.not_true, Bool.false_eq_true, if_false, hd, ht, op, Nat.reduceEqDiff, if_true, hi]

variable {h : HostRec} (attached : s.host? c.slot = some h) (up : h.reachable = true)
include attached up

theorem exec_moveDone_hostrd (op : wOp sn.word = 2) : exec (.moveDone u data true) s = .next (settleMove u r sn rest
    (asyncWrites s r.ctx d (mKEY sn.word) (hostrdItems s.freeIx (hostWindow c (mHWIN sn.word)) d t data))) := by
  simp only [show exec (.moveDone u data true) s = execMoveDone u data true s from rfl, execMoveDone, hr, if_neg free, oldest, hc,
    moveCustody_passes, Bool.not_true, Bool.false_eq_true, if_false, hd, ht, op, Nat.reduceEqDiff, if_true, attached, Option.map_some, Option.getD_some, up]

/-- A HOSTWR sends its elements in index order (R78). -/
theorem exec_moveDone_hostwr {x : Window} {vals : List Nat} (op : wOp sn.word = 3) (flows : hostPaused s c.slot = false) (distinct : d.aliased = false)
    (window : hostWindow c (mHWIN sn.word) = some x) (read : mapE (readElem s r.ctx c t) (tuples d.exts) = .ok vals)
    (inside : ∀ ix ∈ tuples d.exts, d.elemAddr ix + d.fmt.size ≤ x.len) :
    exec (.moveDone u data true) s = .next (({ s with out := s.out ++ ((tuples d.exts).zip vals).map (fun p =>
      Out.hostWrite c.slot x.rkey (x.va + d.elemAddr p.1) (toBytes d.fmt.size p.2)) } : State).setRun u { r with moves := rest }) := by
  have items : freeHostItems s d (hostwrItems s r.ctx c (some x) d t) = (tuples d.exts).map (hostwrItem s r.ctx c (some x) d t) := by
    rw [freeHostItems, distinct, if_neg Bool.false_ne_true, hostwrItems_eq]
  simp only [show exec (.moveDone u data true) s = execMoveDone u data true s from rfl, execMoveDone, hr, if_neg free, oldest, hc,
    moveCustody_passes, Bool.not_true, Bool.false_eq_true, if_false, hd, ht, op, Nat.reduceEqDiff, if_true, attached, Option.map_some, Option.getD_some, up,
    flows, Bool.or_self, window, items, emitHostWrites, mapE_hostwrItem read inside, foldl_sendElem r.ctx attached flows, settleMove, List.map_map]
  rfl

end

theorem settleMove_done {s' : State} {u : UnitId} {r : Run} {sn : Snapshot} {rest : List Snapshot} {p : State × Option (Option CFault)}
    (h : p = (s', some none)) : settleMove u r sn rest p = s'.setRun u { r with moves := rest } := by
  rw [settleMove, h]

/-- Settles O13: the issue by `issueMove_joins`, each kind of transfer by its equation above. -/
theorem transfersJoinAndComplete : Obligations.TransfersJoinAndComplete := by
  unfold Obligations.TransfersJoinAndComplete
  refine ⟨fun s i u r c w op row h checked => (exec_move row s).trans (issueMove_joins h checked),
    fun s u r c sn rest d t data hr free oldest hc hd => ⟨fun s' op written => ?_, fun s' op ht written => ?_, fun s' i op ht hi written => ?_,
      fun s' h op ht attached up written => ?_, fun h x vals op ht attached up flows distinct window read inside =>
        exec_moveDone_hostwr hr free oldest hc hd ht attached up op flows distinct window read inside, fun op => ?_, fun op => ?_⟩⟩
  · rw [exec_moveDone_fill hr free oldest hc hd op, fillItems, settleMove_done written]
  · rw [exec_moveDone_copy hr free oldest hc hd ht op, settleMove_done written]
  · rw [exec_moveDone_gather hr free oldest hc hd ht op hi, settleMove_done written]
  · rw [exec_moveDone_hostrd hr free oldest hc hd ht attached up op, settleMove_done written]
  · rw [exec_moveDone_spoilt hr free oldest hc, moveSpoilt, if_pos op]
  · rw [exec_moveDone_spoilt hr free oldest hc, moveSpoilt, if_neg op]

end Sys2Proof.Machine

/-!
PROOFS. The dispatch of tasks (R68, R117, R118, R357, R373).
-/

namespace Sys2Proof.Machine

/-! ### Selection -/

section
variable {α : Type} {key : α → Nat}

/-- A list with an entry has one of the lowest key. -/
theorem argMin_of_mem : ∀ {l : List α} {y : α}, y ∈ l → ∃ x, argMin key l = some x ∧ x ∈ l ∧ ∀ z ∈ l, key x ≤ key z
  | [a], _, _ => ⟨a, rfl, List.mem_cons_self, fun z hz => by rw [List.mem_singleton.mp hz]⟩
  | a :: b :: l, _, _ => by
    obtain ⟨x, hx, mem, least⟩ := argMin_of_mem (List.mem_cons_self : b ∈ b :: l)
    rw [argMin, hx]
    by_cases h : key a ≤ key x
    · exact ⟨a, if_pos h, List.mem_cons_self, List.forall_mem_cons.mpr ⟨Nat.le_refl _, fun z hz => h.trans (least z hz)⟩⟩
    · exact ⟨x, if_neg h, List.mem_cons_of_mem a mem, List.forall_mem_cons.mpr ⟨by omega, least⟩⟩

end

theorem mem_dedup {l : List Nat} {a : Nat} : a ∈ dedup l ↔ a ∈ l := by
  suffices ∀ acc : List Nat, a ∈ l.foldl (fun acc x => if acc.contains x then acc else acc ++ [x]) acc ↔ a ∈ acc ∨ a ∈ l by
    rw [dedup, this, or_iff_right List.not_mem_nil]
  induction l with
  | nil => simp
  | cons x l ih =>
    intro acc
    rw [List.foldl_cons, ih, List.mem_cons]
    by_cases h : acc.contains x = true
    · rw [if_pos h]
      rw [List.contains_iff_mem] at h
      constructor
      · rintro (ha | ha)
        · exact .inl ha
        · exact .inr (.inr ha)
      · rintro (ha | rfl | ha)
        · exact .inl ha
        · exact .inl h
        · exact .inr ha
    · rw [if_neg h, List.mem_append, List.mem_singleton, or_assoc]

/-- Of contexts that are ready, one has the turn (R118). -/
theorem drrTurn_of_ne_nil (s : State) (d : Drr) {ready : List Nat} (nonempty : ready ≠ []) : ∃ d' cn, drrTurn s d ready = some (d', cn) ∧ cn ∈ ready := by
  rw [drrTurn]
  split
  · rename_i current
    exact ⟨d, d.cur, rfl, List.contains_iff_mem.mp current.1⟩
  · cases later : ready.find? (fun c => decide (d.cur < c)) with
    | some cn => exact ⟨_, cn, rfl, List.mem_of_find?_eq_some later⟩
    | none =>
      cases ready with
      | nil => exact absurd rfl nonempty
      | cons a l => exact ⟨_, a, rfl, List.mem_cons_self⟩

/-! ### Units that are free (R117) -/

theorem freeUnitOn_spec {s : State} {die : Nat} {k : UnitKind} {not : List UnitId} {u : UnitId} (h : freeUnitOn s die k not = some u) :
    u.die = die ∧ u ∉ not := by
  have free := List.find?_some h
  obtain ⟨i, -, rfl⟩ := List.mem_map.mp (List.mem_of_find?_eq_some h)
  simp only [Bool.and_eq_true, Bool.not_eq_true', List.contains_eq_mem, decide_eq_false_iff_not] at free
  exact ⟨rfl, free.2⟩

theorem freeUnitIn_spec {s : State} {k : UnitKind} {not : List UnitId} {u : UnitId} : ∀ {dies : List Nat}, freeUnitIn s k not dies = some u →
    u.die ∈ dies ∧ u ∉ not
  | d :: dies, h => by
    rw [freeUnitIn] at h
    cases here : freeUnitOn s d k not with
    | some v =>
      rw [here] at h
      obtain rfl := Option.some.inj h
      obtain ⟨die, other⟩ := freeUnitOn_spec here
      exact ⟨die ▸ List.mem_cons_self, other⟩
    | none =>
      rw [here] at h
      obtain ⟨die, other⟩ := freeUnitIn_spec h
      exact ⟨List.mem_cons_of_mem d die, other⟩

theorem mem_neighbours {s : State} {die d : Nat} (h : d ∈ neighbours s die) : d < 24 ∧ hops die d = 1 ∧ dieGone s d = false := by
  rw [neighbours, List.mem_filter, otherDies, List.mem_filter, mem_rangeFrom, Nat.zero_add, Bool.not_eq_true', beq_iff_eq] at h
  exact ⟨h.1.1.2, h.2, h.1.2⟩

/-- The turns of the round robin do not bear on which units are free. -/
theorem freeUnitIn_drr (s : State) (m : NMap Drr) (k : UnitKind) (not : List UnitId) : ∀ dies, freeUnitIn { s with drr := m } k not dies = freeUnitIn s k not dies
  | [] => rfl
  | d :: dies => by rw [freeUnitIn, freeUnitIn, freeUnitIn_drr s m k not dies]; rfl

theorem pickUnit_drr (s : State) (m : NMap Drr) (die : Nat) (k : UnitKind) (idx : Nat) (x : Cand) :
    pickUnit { s with drr := m } die k idx x = pickUnit s die k idx x := by
  cases k with
  | video => rfl
  | _ =>
    simp only [pickUnit, freeUnitIn_drr]
    rfl

theorem dispatchCheck_drr (s : State) (m : NMap Drr) (cn : Nat) (c : Ctx) (d : BitVec 1024) :
    dispatchCheck { s with drr := m } cn c d = dispatchCheck s cn c d := rfl

theorem readTable_drr (s : State) (m : NMap Drr) (cn : Nat) (c : Ctx) (d : BitVec 1024) : readTable { s with drr := m } cn c d = readTable s cn c d := rfl

/-! ### The start of a task (R68, R357) -/

section
variable {s : State} {cn task : Nat} {c : Ctx} {e : Epoch} {x : TaskRec} (hc : s.ctx? cn = some c) (he : c.epoch = some e)
  (hx : NMap.get? e.tasks task = some x)
include hc he hx

theorem startTask_faults {f : CFault} (bad : dispatchCheck s cn c x.desc = some f) (pick : Unit → Option UnitId) :
    startTask s cn task pick = taskFault s cn x.die f task 0xFFFFFFFF := by
  simp only [startTask, hc, he, hx, bad]

theorem startTask_runs {u : UnitId} {table : List (Option (BitVec 512))} (good : dispatchCheck s cn c x.desc = none) {pick : Unit → Option UnitId}
    (picked : pick () = some u) (read : readTable s cn c x.desc = .ok table) :
    let run := startRun cn task e.attempt e.bind x table
    let started := (s.setCtx cn { c with epoch := some { e with
      tasks := NMap.set e.tasks task { x with status := .running, unit := some u } } }).setRun u run
    startTask s cn task pick = if tKind x.desc = 3 ∧ frOp (frameRecord started run c) = 2
      then takeBound started cn (frStream (frameRecord started run c)) else started := by
  simp only [startTask, hc, he, hx, good, picked, read]

end

/-! ### One dispatch (R118) -/

theorem taskKind_video_iff (d : BitVec 1024) : taskKind d = .video ↔ tKind d = 3 := by
  rw [taskKind, kindOfCode]
  split
  · simp [*]
  · split
    · simp [*]
    · split
      · simp [*]
      · split <;> simp [*]

theorem kind_of_candidate {s : State} {die idx : Nat} {k : UnitKind} {x : Cand} (h : x ∈ candidates s die k idx) : taskKind x.2.2.desc = k := by
  rw [candidates, List.mem_flatMap] at h
  obtain ⟨p, -, hp⟩ := h
  dsimp only at hp
  split at hp
  · exact absurd hp List.not_mem_nil
  · split at hp
    · exact absurd hp List.not_mem_nil
    · obtain ⟨t, ht, rfl⟩ := List.mem_map.mp hp
      have kept := (List.mem_filter.mp ht).2
      simp only [Bool.and_eq_true, beq_iff_eq] at kept
      exact kept.1.2

/-- A dispatch with a placeable task starts one of the lowest class, whoever's turn it is. -/
theorem dispatchOne_starts {s : State} {die idx : Nat} {k : UnitKind} {y : Cand} (hy : y ∈ candidates s die k idx) (ready : placeable s die k idx y = true) :
    ∃ x ∈ candidates s die k idx, placeable s die k idx x = true ∧
      (∀ z ∈ candidates s die k idx, placeable s die k idx z = true → x.2.2.cls ≤ z.2.2.cls) ∧
      ∃ m, dispatchOne s die k idx = some (startTask { s with drr := m } x.1 x.2.1 (fun _ => pickUnit { s with drr := m } die k idx x)) := by
  obtain ⟨top, hTop, memTop, least⟩ := argMin_of_mem (key := fun x : Cand => x.2.2.cls) (List.mem_filter.mpr ⟨hy, ready⟩)
  let now := ((candidates s die k idx).filter (placeable s die k idx)).filter (fun x => x.2.2.cls == top.2.2.cls)
  have topNow : top ∈ now := List.mem_filter.mpr ⟨memTop, beq_self_eq_true _⟩
  obtain ⟨d, cn, turn, hcn⟩ := drrTurn_of_ne_nil s (NMap.getD s.drr (drrKey die k idx top.2.2.cls) Drr.fresh)
    (List.ne_nil_of_mem (mem_dedup.mpr (List.mem_map.mpr ⟨top, topNow, rfl⟩)))
  obtain ⟨w, hw, wctx⟩ := List.mem_map.mp (mem_dedup.mp hcn)
  have wTurn : w ∈ now.filter (fun x => x.1 == cn) := List.mem_filter.mpr ⟨hw, beq_iff_eq.mpr wctx⟩
  obtain ⟨x, hx, memX, -⟩ := argMin_of_mem (key := fun x : Cand => x.2.2.readySeq * 2 ^ 21 + x.2.1) wTurn
  obtain ⟨xNow, xctx⟩ := List.mem_filter.mp memX
  obtain ⟨xAll, xcls⟩ := List.mem_filter.mp xNow
  obtain ⟨xCand, xReady⟩ := List.mem_filter.mp xAll
  refine ⟨x, xCand, xReady, fun z hz hzr => ?_,
    NMap.set s.drr (drrKey die k idx top.2.2.cls) (drrCharge d cn (decide (1 < (now.filter (fun x => x.1 == cn)).length))), ?_⟩
  · rw [beq_iff_eq.mp xcls]
    exact least z (List.mem_filter.mpr ⟨hz, hzr⟩)
  · rw [dispatchOne]
    dsimp only
    rw [hTop]
    dsimp only
    rw [turn]
    dsimp only
    rw [oldest, hx, beq_iff_eq.mp xctx]

theorem dispatchOne_idle {s : State} {die idx : Nat} {k : UnitKind} (h : ∀ x ∈ candidates s die k idx, placeable s die k idx x = false) :
    dispatchOne s die k idx = none := by
  have nobody : (candidates s die k idx).filter (placeable s die k idx) = [] := List.filter_eq_nil_iff.mpr fun x hx => ne_true_of_eq_false (h x hx)
  rw [dispatchOne, nobody]
  rfl

theorem exec_taskDispatch_plain {s : State} {die : Nat} {k : UnitKind} (h : k ≠ .video) :
    exec (.taskDispatch die k) s = .next ((dispatchOne s die k 0).getD s) := by
  cases k with
  | video => exact absurd rfl h
  | _ => rfl

theorem exec_taskDispatch_video {s : State} {die : Nat} :
    exec (.taskDispatch die .video) s = .next (((dispatchOne s die .video 0).or (dispatchOne s die .video 1)).getD s) := by
  rw [show exec (.taskDispatch die .video) s = execTaskDispatch die .video s from rfl, execTaskDispatch]
  cases dispatchOne s die .video 0 <;> rfl

/-- A dispatch takes what the die, or an engine on it, gives; the lower engine goes first. -/
theorem exec_taskDispatch_of_one {s t : State} {die idx : Nat} {k : UnitKind} (h : dispatchOne s die k idx = some t)
    (first : idx = 0 ∨ (k = .video ∧ idx = 1 ∧ ∀ z ∈ candidates s die k 0, placeable s die k 0 z = false)) :
    exec (.taskDispatch die k) s = .next t := by
  rcases first with rfl | ⟨rfl, rfl, idle⟩
  · by_cases video : k = .video
    · subst video
      rw [exec_taskDispatch_video, h]
      rfl
    · rw [exec_taskDispatch_plain video, h]
      rfl
  · rw [exec_taskDispatch_video, dispatchOne_idle idle, h]
    rfl

/-! ### One hop away (R117, R119, R373) -/

section
variable {s : State} {cn task : Nat} {c : Ctx} {e : Epoch} {x : TaskRec} {u : UnitId} {table : List (Option (BitVec 512))} (hc : s.ctx? cn = some c)
  (he : c.epoch = some e) (hx : NMap.get? e.tasks task = some x) (kind : tKind x.desc < 3)
  (first : (oldest ((candidates s x.die (taskKind x.desc) 0).filter (fun y => y.1 == cn && y.2.2.cls == x.cls))).map (·.2.1) = some task)
  (busy : freeUnitOn s x.die (taskKind x.desc) (avoided e task) = none)
  (near : freeUnitIn s (taskKind x.desc) (avoided e task) (neighbours s x.die) = some u)
  (highest : ∀ y ∈ candidates s x.die (taskKind x.desc) 0 ++ candidates s u.die (taskKind x.desc) 0, x.cls ≤ y.2.2.cls)
  (good : dispatchCheck s cn c x.desc = none) (read : readTable s cn c x.desc = .ok table)
include hc he hx kind first busy near highest good read

theorem exec_dispatchNeighbour : ∃ m, exec (.dispatchNeighbour cn task) s = .next ((({ s with drr := m } : State).setCtx cn { c with epoch := some { e with
    tasks := NMap.set e.tasks task { x with status := .running, unit := some u } } }).setRun u (startRun cn task e.attempt e.bind x table)) := by
  have plain : ¬ tKind x.desc = 3 := by omega
  have waits : (taskKind x.desc == .video || (oldest ((candidates s x.die (taskKind x.desc) 0).filter (fun y => y.1 == cn && y.2.2.cls == x.cls))).map
      (·.2.1) != some task || (freeUnitOn s x.die (taskKind x.desc) (avoided e task)).isSome) = false := by
    rw [first, busy]
    simp [taskKind_video_iff, plain]
  have chosen : waitedUnit s e task x.die (taskKind x.desc) = some u := by rw [waitedUnit, near]
  have alone : higherWaits s (taskKind x.desc) x.cls x.die u.die = false := by
    rw [higherWaits, List.any_eq_false]
    exact fun y hy => by simpa using highest y hy
  obtain ⟨d, cn', turn, -⟩ := drrTurn_of_ne_nil s (NMap.getD s.drr (drrKey x.die (taskKind x.desc) 0 x.cls) Drr.fresh) (List.cons_ne_nil cn [])
  let mine := (candidates s x.die (taskKind x.desc) 0).filter (fun y => y.1 == cn && y.2.2.cls == x.cls)
  let m := NMap.set s.drr (drrKey x.die (taskKind x.desc) 0 x.cls) (drrCharge d cn (decide (1 < mine.length)))
  refine ⟨m, ?_⟩
  simp only [show exec (.dispatchNeighbour cn task) s = execDispatchNeighbour cn task s from rfl, execDispatchNeighbour, hc, he, hx, waits,
    Bool.false_eq_true, if_false, chosen, alone, turn]
  rw [startTask_runs (s := { s with drr := m }) hc he hx ((dispatchCheck_drr s m _ _ _).trans good) rfl ((readTable_drr s m _ _ _).trans read),
    if_neg (fun h => plain h.1)]

end

/-- Settles O25: one dispatch by `dispatchOne_starts`, the neighbour's unit by `freeUnitIn_spec`. -/
theorem dispatchChoosesTaskAndUnit : Obligations.DispatchChoosesTaskAndUnit := by
  unfold Obligations.DispatchChoosesTaskAndUnit
  refine ⟨fun s die k idx y engine hy ready => ?_, fun s die k idle idleUpper => ?_,
    fun s cn task c e x u table hc he hx kind first busy near highest good read => ⟨fun d hd => mem_neighbours hd, (freeUnitIn_spec near).2,
      (freeUnitIn_spec near).1, exec_dispatchNeighbour hc he hx kind first busy near highest good read⟩⟩
  · obtain ⟨x, hx, xReady, least, m, started⟩ := dispatchOne_starts hy ready
    refine ⟨_, exec_taskDispatch_of_one started engine, x, hx, xReady, least, fun c e hc he record => ⟨fun f bad => ⟨m, ?_⟩,
      fun u table good picked read => ⟨m, ?_⟩⟩⟩
    · exact startTask_faults (s := { s with drr := m }) hc he record ((dispatchCheck_drr s m _ _ _).trans bad) _
    · have video : k = .video ↔ tKind x.2.2.desc = 3 := by rw [← taskKind_video_iff, kind_of_candidate hx]
      have runs := startTask_runs (s := { s with drr := m }) hc he record ((dispatchCheck_drr s m _ _ _).trans good)
        (pick := fun _ => pickUnit { s with drr := m } die k idx x) ((pickUnit_drr s m die k idx x).trans picked) ((readTable_drr s m _ _ _).trans read)
      exact runs.trans (if_congr (and_congr_left' video.symm) rfl rfl)
  · by_cases video : k = .video
    · subst video
      rw [exec_taskDispatch_video, dispatchOne_idle idle, dispatchOne_idle (idleUpper rfl)]
      rfl
    · rw [exec_taskDispatch_plain video, dispatchOne_idle idle]
      rfl

end Sys2Proof.Machine

/-!
PROOFS. Doorbells, and what becomes of a completion record (R99, R101, R107, R391).
-/

namespace Sys2Proof.Machine

/-! ### Doorbells (R101) -/

theorem doorbellBad_iff (x : SubQueue) (tail : Bits32) : doorbellBad x tail = true ↔
    2 ^ sqLog x < (tail - x.head).toNat ∨ (tail - x.head).toNat < (x.tail - x.head).toNat := by
  rw [doorbellBad, Bool.or_eq_true, decide_eq_true_eq, decide_eq_true_eq, sqDepth, sqDepth]

theorem exec_sqDoorbell {s : State} {cn : Nat} {c : Ctx} (q : Nat) (tail : Bits32) (hc : s.ctx? cn = some c) :
    exec (.sqDoorbell cn q tail) s = .next (s.setCtx cn (if q < 4 then ringDoorbell c q tail else c)) := by
  rw [show exec (.sqDoorbell cn q tail) s = execSqDoorbell cn q tail s from rfl, execSqDoorbell, hc]

/-- Settles O19: `ringDoorbell` by whether the TAIL is one that R101 ignores. -/
theorem doorbellMovesTailOrSetsDberr : Obligations.DoorbellMovesTailOrSetsDberr := by
  unfold Obligations.DoorbellMovesTailOrSetsDberr
  intro s cn q tail c hc x bad
  refine ⟨fun hq ignored => ?_, fun hq taken => ?_, fun hq => ?_⟩
  · rw [exec_sqDoorbell q tail hc, if_pos hq, ringDoorbell, if_pos ((doorbellBad_iff x tail).2 ignored)]
  · rw [exec_sqDoorbell q tail hc, if_pos hq, ringDoorbell, if_neg (mt (doorbellBad_iff x tail).1 taken)]
  · rw [exec_sqDoorbell q tail hc, if_neg (Nat.not_lt.mpr hq)]

/-! ### Held records (R101) -/

/-- RoCEv2 traffic to an attached host leaves at once while its priority is not paused (R327). -/
theorem toHost_unpaused {s : State} {slot : Nat} {h : HostRec} (attached : s.host? slot = some h) (flows : hostPaused s slot = false)
    (k : Option Nat) (r : Option CqRec) (o : Out) : s.toHost slot k r o = s.emit o := by
  rw [hostPaused, attached] at flows
  simp only [State.toHost, attached, State.sendItem]
  exact if_neg (ne_true_of_eq_false flows)

section
variable {s : State} {cn : Nat} {c : Ctx} (hc : s.ctx? cn = some c) (n : Nat)
include hc

theorem drainRecs_empty (idle : c.heldRecs = []) : drainRecs (n + 1) s cn = s.setCtx cn { c with cqfull := false } := by
  simp only [drainRecs, hc, idle]

variable {r : CqRec} {rest : List CqRec} (held : c.heldRecs = r :: rest)
include held

theorem drainRecs_writes {h : HostRec} (attached : s.host? c.slot = some h) (room : cqRoom h c = true) :
    drainRecs (n + 1) s cn = drainRecs n (writeRec s cn { c with heldRecs := rest } r) cn := by
  simp only [drainRecs, hc, held, attached, room, if_true]

theorem drainRecs_waits (full : ∀ h, s.host? c.slot = some h → cqRoom h c = false) :
    drainRecs (n + 1) s cn = s.setCtx cn { c with cqfull := true } := by
  cases attached : s.host? c.slot with
  | none => simp only [drainRecs, hc, held, attached]
  | some h => simp only [drainRecs, hc, held, attached, full h attached, Bool.false_eq_true, if_false]

end

/-- A record that raises no event goes to the ring's slot, and TAIL moves on (R99). -/
theorem writeRec_silent {s : State} {c : Ctx} {h : HostRec} {w : Window} (attached : s.host? c.slot = some h)
    (flows : hostPaused s c.slot = false) (window : hostWindow c (cqHwin c) = some w) (silent : (c.reg.map (·.evt)).getD false = false)
    (cn : Nat) (r : CqRec) :
    writeRec s cn c r = (s.emit (.hostWrite c.slot w.rkey (w.va + cqOffset c + 32 * (c.cqTail.toNat % 2 ^ cqLog c))
      (toBytes 32 r.toNat))).setCtx cn { c with cqTail := c.cqTail + 1 } := by
  simp only [writeRec, window, silent, Bool.false_eq_true, if_false, toHost_unpaused attached flows]

/-! ### Posting (R101, R107) -/

theorem post_drydown {s : State} {cn : Nat} {c : Ctx} (body : Nat) (hc : s.ctx? cn = some c) (dry : c.drydown = true) : post s cn body = s := by
  simp only [post, hc, dry, if_true]

/-- The context that holds the next record behind those it holds. -/
def Ctx.withRec (c : Ctx) (body : Nat) : Ctx :=
  { c with heldRecs := c.heldRecs ++ [BitVec.ofNat 256 (body + c.nextSeq.toNat * 2 ^ 192)], nextSeq := c.nextSeq + 1 }

/-- A record takes the next SEQ, and then what is held is written while there is room. -/
theorem post_drains {s : State} {cn : Nat} {c : Ctx} (body : Nat) (hc : s.ctx? cn = some c) (dry : c.drydown = false) :
    post s cn body = drainRecs (c.heldRecs.length + 2) (s.setCtx cn (c.withRec body)) cn := by
  rw [post, hc]
  exact if_neg (ne_true_of_eq_false dry)

theorem Ctx.withRec_held_of_none {c : Ctx} (idle : c.heldRecs = []) (body : Nat) :
    (c.withRec body).heldRecs = [BitVec.ofNat 256 (body + c.nextSeq.toNat * 2 ^ 192)] := by
  rw [Ctx.withRec, idle]
  rfl

section
variable {s : State} {cn : Nat} {c : Ctx} (hc : s.ctx? cn = some c) (idle : c.heldRecs = []) (dry : c.drydown = false) (body : Nat)
include hc idle dry

theorem post_written {h : HostRec} {w : Window} (attached : s.host? c.slot = some h) (room : cqRoom h c = true)
    (flows : hostPaused s c.slot = false) (window : hostWindow c (cqHwin c) = some w) (silent : (c.reg.map (·.evt)).getD false = false) :
    post s cn body = (s.emit (.hostWrite c.slot w.rkey (w.va + cqOffset c + 32 * (c.cqTail.toNat % 2 ^ cqLog c))
      (toBytes 32 (BitVec.ofNat 256 (body + c.nextSeq.toNat * 2 ^ 192)).toNat))).setCtx cn
        { c with cqTail := c.cqTail + 1, nextSeq := c.nextSeq + 1, cqfull := false } := by
  rw [post_drains body hc dry, idle, List.length_nil,
    drainRecs_writes (State.ctx?_setCtx ..) 1 (Ctx.withRec_held_of_none idle body) attached room,
    writeRec_silent (s := s.setCtx cn _) (c := { c.withRec body with heldRecs := [] }) attached flows window silent,
    drainRecs_empty (State.ctx?_setCtx ..) 0 rfl, State.setCtx_setCtx]
  exact State.setCtx_setCtx (s.emit _) cn _ _

theorem post_held (full : ∀ h, s.host? c.slot = some h → cqRoom h c = false) :
    post s cn body = s.setCtx cn { c with
      heldRecs := [BitVec.ofNat 256 (body + c.nextSeq.toNat * 2 ^ 192)], nextSeq := c.nextSeq + 1, cqfull := true } := by
  rw [post_drains body hc dry, drainRecs_waits (State.ctx?_setCtx ..) _ (Ctx.withRec_held_of_none idle body) full, State.setCtx_setCtx,
    Ctx.withRec, idle]
  rfl

end

/-- Settles O21: a record is written by `post_written` and held by `post_held`. -/
theorem completionRecordIsWrittenOrHeld : Obligations.CompletionRecordIsWrittenOrHeld := by
  unfold Obligations.CompletionRecordIsWrittenOrHeld
  intro s cn body c hc idle _
  refine ⟨fun dry => post_drydown body hc dry, fun dry => ⟨fun h w attached room flows window silent => ?_, fun full => ?_⟩⟩
  · exact ⟨_, post_written hc idle dry body attached room flows window silent, rfl, State.ctx?_setCtx ..⟩
  · exact post_held hc idle dry body full

end Sys2Proof.Machine

/-!
PROOFS. Which queue gives a packet, and what each packet does (R102 to R105, R112, R126, R129, R464).
-/

namespace Sys2Proof.Machine

/-! ### The choice of a queue (R105) -/

theorem argMin_spec {α : Type} {key : α → Nat} {l : List α} {x : α} (h : argMin key l = some x) : x ∈ l ∧ ∀ z ∈ l, key x ≤ key z := by
  cases l with
  | nil => cases h
  | cons a l =>
    obtain ⟨y, hy, mem, least⟩ := argMin_of_mem (key := key) (List.mem_cons_self : a ∈ a :: l)
    obtain rfl := Option.some.inj (h.symm.trans hy)
    exact ⟨mem, least⟩

/-- The queues that can give a packet are all looked at, whichever gave the last. -/
theorem mem_givers {s : State} {cn k : Nat} {c : Ctx} : k ∈ givers s cn c ↔ k < 4 ∧ canGive s cn c (getSq c k) = true := by
  have all : (∃ a, (c.lastQ + 1 ≤ a ∧ a < c.lastQ + 1 + 4) ∧ a % 4 = k) ↔ k < 4 :=
    ⟨fun ⟨a, _, ha⟩ => by omega, fun hk => ⟨c.lastQ + 1 + (k + 4 - (c.lastQ + 1) % 4) % 4, by omega, by omega⟩⟩
  simp only [givers, List.mem_filter, List.mem_map, mem_rangeFrom, all]

theorem chosenQueue_spec {s : State} {cn q : Nat} {c : Ctx} (h : chosenQueue s cn c = some q) : q ∈ givers s cn c ∧
    (63 ≤ (getSq c q).passed ∨ ∀ k ∈ givers s cn c, (getSq c k).passed < 63 ∧ sqCeil (getSq c q) ≤ sqCeil (getSq c k)) := by
  unfold chosenQueue at h
  dsimp only at h
  split at h
  · rename_i k found
    obtain rfl := Option.some.inj h
    exact ⟨List.mem_of_find?_eq_some found, .inl (of_decide_eq_true (List.find?_some found :))⟩
  · rename_i nobody
    obtain ⟨mem, least⟩ := argMin_spec h
    refine ⟨mem, .inr fun k hk => ⟨?_, least k hk⟩⟩
    simpa using List.find?_eq_none.mp nobody k hk

/-! ### Taking a packet (R105) -/

theorem getSq_takePacket {l : List Nat} {q k : Nat} {c : Ctx} (hk : k < 4) : getSq (takePacket l q c) k =
    if k = q then { getSq c k with head := (getSq c k).head + 1, passed := 0 }
    else if l.contains k then { getSq c k with passed := (getSq c k).passed + 1 } else getSq c k := by
  rw [getSq, takePacket, nth_map_rangeFrom_of_lt _ _ 0 hk, Nat.zero_add]

theorem fetchPacket_eq_some {s s' : State} {cn q : Nat} {c c' : Ctx} {x : X Nat} (hc : s.ctx? cn = some c)
    (h : fetchPacket s cn q = some (s', c', x)) : chosenQueue s cn c = some q ∧ c' = takePacket (givers s cn c) q c := by
  simp only [fetchPacket, hc, Option.ite_none_right_eq_some, Bool.and_eq_true, decide_eq_true_eq, Option.some.injEq, Prod.mk.injEq] at h
  obtain ⟨⟨_, chosen⟩, _, rfl, _⟩ := h
  exact ⟨chosen, rfl⟩

/-! ### What each packet does (R103, R104, R112) -/

theorem countOk_iff (p : Nat) : countOk p = true ↔ 1 ≤ pCount p ∧ pCount p ≤ 1048576 := by
  rw [countOk, Bool.and_eq_true, decide_eq_true_eq, decide_eq_true_eq]

theorem loaded_eq_some {c : Ctx} {tid : Nat} {x : Template} (hx : NMap.get? c.templates tid = some x) (free : x.free = none) :
    loaded c tid = some x := by
  simp [loaded, hx, free]

theorem loaded_eq_none {c : Ctx} {tid : Nat} (h : ∀ x, NMap.get? c.templates tid = some x → x.free ≠ none) : loaded c tid = none := by
  cases hx : NMap.get? c.templates tid with
  | none => simp [loaded, hx]
  | some x => simp [loaded, hx, Option.isSome_iff_ne_none.mpr (h x hx)]

section
variable {s s' : State} {cn q p : Nat} {c' : Ctx} (fetch : fetchPacket s cn q = some (s', c', .ok p))
include fetch

/-- The row of a packet acts on the packet that is fetched. -/
theorem packetEvent_acts {row : Nat → Bool} (type : row (pType p) = true) (k : State → Ctx → Nat → State) :
    packetEvent s cn q row k = .next (k s' c' p) := by
  simp only [packetEvent, fetch, type, if_true]

theorem exec_submit (type : pType p = 1) : exec (.submit cn q) s = .next (if !countOk p then refusePacket s' cn 0x0C p else
    s'.setCtx cn { c' with launch := some {
      tag := pTag p, cqe := pCqe p, q := q, tid := none, arr := pPtr p, count := pCount p, ptr := 0, carr := pCarr p, bind := pBind p,
      step0 := pStep0 p, iter := 0, total := 1 } }) := by
  rw [show exec (.submit cn q) s = execSubmit cn q s from rfl, execSubmit, packetEvent_acts fetch]
  exact beq_iff_eq.mpr type

theorem exec_tload (type : pType p = 2) : exec (.tload cn q) s = .next (if !countOk p then refusePacket s' cn 0x0C p
    else if NMap.has c'.templates (pTid p) then refusePacket s' cn 0x22 p
    else
      let t := s'.setCtx cn { c' with
        templates := NMap.set c'.templates (pTid p) { arr := pPtr p, count := pCount p, free := none, live := 0 } }
      if pCqe p then postOpen t cn 0x02 0 (pTag p) else t) := by
  rw [show exec (.tload cn q) s = execTload cn q s from rfl, execTload, packetEvent_acts fetch]
  exact beq_iff_eq.mpr type

theorem exec_tfree_loaded {x : Template} (type : pType p = 3) (here : loaded c' (pTid p) = some x) :
    exec (.tfree cn q) s = .next (s'.setCtx cn { c' with
      templates := NMap.set c'.templates (pTid p) { x with free := some (pTag p, pCqe p) } }) := by
  rw [show exec (.tfree cn q) s = execTfree cn q s from rfl, execTfree, packetEvent_acts fetch, here]
  exact beq_iff_eq.mpr type

theorem exec_tfree_refused (type : pType p = 3) (absent : loaded c' (pTid p) = none) :
    exec (.tfree cn q) s = .next (refusePacket s' cn 0x21 p) := by
  rw [show exec (.tfree cn q) s = execTfree cn q s from rfl, execTfree, packetEvent_acts fetch, absent]
  exact beq_iff_eq.mpr type

theorem exec_launch_loaded {x : Template} (type : pType p = 4) (here : loaded c' (pTid p) = some x) :
    exec (.launch cn q) s = .next (s'.setCtx cn { c' with
      templates := NMap.set c'.templates (pTid p) { x with live := x.live + 1 }
      launch := some {
        tag := pTag p, cqe := pCqe p, q := q, tid := some (pTid p), arr := x.arr, count := x.count, ptr := pPtr p, carr := pCarr p,
        bind := pBind p, step0 := pStep0 p, iter := 0, total := pRepeat p + 1 } }) := by
  rw [show exec (.launch cn q) s = execLaunch cn q s from rfl, execLaunch, packetEvent_acts fetch, here]
  exact beq_iff_eq.mpr type

theorem exec_launch_refused (type : pType p = 4) (absent : loaded c' (pTid p) = none) :
    exec (.launch cn q) s = .next (refusePacket s' cn 0x21 p) := by
  rw [show exec (.launch cn q) s = execLaunch cn q s from rfl, execLaunch, packetEvent_acts fetch, absent]
  exact beq_iff_eq.mpr type

theorem exec_reservedPacket (type : pType p = 0 ∨ 5 < pType p) : exec (.reservedPacket cn q) s = .next (refusePacket s' cn 0x20 p) := by
  rw [show exec (.reservedPacket cn q) s = execReservedPacket cn q s from rfl, execReservedPacket, packetEvent_acts fetch]
  simpa using type

end

/-- Settles O22: the choice by `chosenQueue_spec`, the queues after it by `getSq_takePacket`, the packets by their equations above. -/
theorem packetsAreChosenTakenOrRefused : Obligations.PacketsAreChosenTakenOrRefused := by
  unfold Obligations.PacketsAreChosenTakenOrRefused
  refine ⟨fun s s' cn q c c' x hc fetch => ?_, fun s s' cn q c' p fetch => ?_⟩
  · obtain ⟨chosen, rfl⟩ := fetchPacket_eq_some hc fetch
    obtain ⟨mem, first⟩ := chosenQueue_spec chosen
    obtain ⟨hq, gives⟩ := mem_givers.mp mem
    have taken := getSq_takePacket (l := givers s cn c) (q := q) (c := c) hq
    rw [if_pos rfl] at taken
    refine ⟨gives, first.imp_right fun least k hk hg => least k (mem_givers.mpr ⟨hk, hg⟩), rfl, ?_, ?_, fun k hk other hg => ?_,
      fun k hk other hg => ?_⟩
    · rw [taken]
    · rw [taken]
    · have passed := List.contains_iff_mem.mpr (mem_givers.mpr ⟨hk, hg⟩)
      rw [getSq_takePacket hk, if_neg other, if_pos passed]
      exact ⟨rfl, rfl⟩
    · have silent : ¬ (givers s cn c).contains k = true := fun h => by
        rw [(mem_givers.mp (List.contains_iff_mem.mp h)).2] at hg
        cases hg
      rw [getSq_takePacket hk, if_neg other, if_neg silent]
  · intro good
    have counted (h : good) : ¬ (!countOk p) = true := by rw [(countOk_iff p).mpr h]; decide
    have miscounted (h : ¬ good) : (!countOk p) = true := by rw [Bool.eq_false_iff.mpr (mt (countOk_iff p).mp h)]; rfl
    refine ⟨fun type h => ?_, fun type h => ?_, fun type h new => ?_, fun type h => ?_, fun type h old => ?_, fun x type hx free => ?_,
      fun type absent => ?_, fun x type hx free => ?_, fun type absent => ?_, fun type => ?_⟩
    · rw [exec_submit fetch type, if_neg (counted h)]
    · rw [exec_submit fetch type, if_pos (miscounted h)]
    · rw [exec_tload fetch type, if_neg (counted h), if_neg (ne_true_of_eq_false new)]
    · rw [exec_tload fetch type, if_pos (miscounted h)]
    · rw [exec_tload fetch type, if_neg (counted h), if_pos old]
    · exact exec_tfree_loaded fetch type (loaded_eq_some hx free)
    · exact exec_tfree_refused fetch type (loaded_eq_none absent)
    · exact ⟨_, rfl, rfl, rfl, rfl, rfl, rfl, rfl, rfl, rfl, rfl, rfl, exec_launch_loaded fetch type (loaded_eq_some hx free)⟩
    · exact exec_launch_refused fetch type (loaded_eq_none absent)
    · exact exec_reservedPacket fetch type

/-! ### The release of a template (R112) -/

theorem exec_templateRelease {s : State} {cn tid : Nat} {c : Ctx} {x : Template} {tag : Bits32} {cqe : Bool} (hc : s.ctx? cn = some c)
    (hx : NMap.get? c.templates tid = some x) (freed : x.free = some (tag, cqe)) (idle : x.live = 0) :
    let t := s.setCtx cn { c with templates := NMap.erase c.templates tid }
    exec (.templateRelease cn tid) s = .next (if cqe then postOpen t cn 0x03 0 tag else t) := by
  simp only [show exec (.templateRelease cn tid) s = execTemplateRelease cn tid s from rfl, execTemplateRelease, hc, hx, freed, idle, if_true]

/-! ### ACCORD (R126, R129, R464) -/

theorem firstReason_eq_zero {l : List Nat} (h : ∀ r ∈ l, r = 0) : firstReason l = 0 := by
  have nobody : l.find? (fun r => r != 0) = none := List.find?_eq_none.mpr fun r hr => by simp [h r hr]
  rw [firstReason, nobody]
  rfl

theorem accordContext_pending {s : State} {cn p : Nat} {c : Ctx} (pending : c.apend.isSome = true) (items : Unit → X (List ItemBits)) :
    accordContext s cn c p items = postOpen s cn 0x04 0x09 (pTag p) := if_pos pending

theorem accordContext_staged {s : State} {cn p : Nat} {c : Ctx} {items : Unit → X (List ItemBits)} {l : List ItemBits} (idle : c.apend = none)
    (read : items () = .ok l) (form : ∀ i ∈ l, formItem i = 0) :
    accordContext s cn c p items = s.setCtx cn { c with apend := some { tag := pTag p, items := l } } := by
  have right : firstReason (l.map formItem) = 0 := firstReason_eq_zero (List.forall_mem_map.mpr form)
  simp [accordContext, idle, read, right]

section
variable {s s' : State} {cn q p : Nat} {c' : Ctx} (fetch : fetchPacket s cn q = some (s', c', .ok p)) (type : pType p = 5)
include fetch type

theorem exec_accord : exec (.accord cn q) s = .next (
    if pCount p = 0 ∨ 256 < pCount p then postOpen s' cn 0x04 0x0C (pTag p)
    else if pScope p = 3 then postOpen s' cn 0x04 0x04 (pTag p)
    else if pScope p = 2 then postOpen s' cn 0x04 0x0A (pTag p)
    else if pScope p = 1 then accordStream s' cn c' p (fun _ => packetItems s' cn c' p)
    else accordContext s' cn c' p (fun _ => packetItems s' cn c' p)) := by
  rw [show exec (.accord cn q) s = execAccord cn q s from rfl, execAccord, packetEvent_acts fetch]
  exact beq_iff_eq.mpr type

/-- With a COUNT in range the request goes by its scope. -/
theorem exec_accord_counted (few : 1 ≤ pCount p) (most : pCount p ≤ 256) : exec (.accord cn q) s = .next (
    if pScope p = 3 then postOpen s' cn 0x04 0x04 (pTag p)
    else if pScope p = 2 then postOpen s' cn 0x04 0x0A (pTag p)
    else if pScope p = 1 then accordStream s' cn c' p (fun _ => packetItems s' cn c' p)
    else accordContext s' cn c' p (fun _ => packetItems s' cn c' p)) := by
  rw [exec_accord fetch type, if_neg (by omega)]

theorem exec_accord_context (few : 1 ≤ pCount p) (most : pCount p ≤ 256) (scope : pScope p = 0) :
    exec (.accord cn q) s = .next (accordContext s' cn c' p (fun _ => packetItems s' cn c' p)) := by
  rw [exec_accord_counted fetch type few most, scope]
  rfl

end

/-- Settles O23: a release by `exec_templateRelease`, a request by the scope it goes to. -/
theorem templatesAndAccordRequests : Obligations.TemplatesAndAccordRequests := by
  unfold Obligations.TemplatesAndAccordRequests
  refine ⟨fun s cn tid c x tag cqe hc hx freed idle => exec_templateRelease hc hx freed idle, fun s s' cn q c' p fetch type =>
    ⟨fun count => ?_, fun few most scope => ?_, fun few most scope => ?_, fun few most scope pending => ?_,
      fun l few most scope idle read form => ?_, fun few most scope => ?_⟩⟩
  · rw [exec_accord fetch type, if_pos count]
  · rw [exec_accord_counted fetch type few most, scope]
    rfl
  · rw [exec_accord_counted fetch type few most, scope]
    rfl
  · rw [exec_accord_context fetch type few most scope, accordContext_pending pending]
  · rw [exec_accord_context fetch type few most scope, accordContext_staged idle read form]
  · rw [exec_accord_counted fetch type few most, scope]
    rfl

end Sys2Proof.Machine

/-!
PROOFS. Iterations that open and tasks that take a slot (R108, R109, R112, R113, R115).
-/

namespace Sys2Proof.Machine

/-! ### Opening an iteration (R108, R112, R113) -/

theorem exec_iterationAdmit {s s1 : State} {cn : Nat} {c c1 : Ctx} {l : LaunchRec} {bind : List Word64} (hc : s.ctx? cn = some c)
    (launch : c.launch = some l) (closed : c.epoch = none) (runs : c.canRun = true) (more : l.iter < l.total)
    (read : launchBind s cn c l = .ok bind) (cleared : taskWrite s cn l.carr (List.replicate (16 * l.count) 0) = .ok s1)
    (hc1 : s1.ctx? cn = some c1) : exec (.iterationAdmit cn) s =
      .next (s1.setCtx cn { c1 with launch := some { l with iter := l.iter + 1 }, epoch := some (Epoch.start l bind) }) := by
  have modified (f : Ctx → Ctx) : s1.modCtx cn f = s1.setCtx cn (f c1) := by
    rw [State.modCtx, NMap.modify, show NMap.get? s1.ctxs cn = some c1 from hc1, State.setCtx]
  simp only [show exec (.iterationAdmit cn) s = execIterationAdmit cn s from rfl, execIterationAdmit, hc, launch, closed, runs, Bool.not_true,
    Bool.false_or, decide_eq_true_eq, if_neg (Nat.not_le.mpr more), read, cleared, modified]

/-! ### Admission (R109, R113, R115) -/

/-- The admitted copy of a descriptor is a boundary task when the descriptor is. -/
theorem tBnd_tWithStep (d : BitVec 1024) (step : Nat) : tBnd (tWithStep d step) = tBnd d := by
  rw [tBnd, tBnd, bitAt_eq_testBit, bitAt_eq_testBit, tWithStep, BitVec.testBit_toNat, BitVec.getLsbD_ofNat, testBit_setField, if_neg (by omega),
    decide_eq_true (by omega), Bool.true_and]

theorem TaskRec.ready_slot (t : TaskRec) (seq : Nat) :
    (t.ready seq).die = t.die ∧ (t.ready seq).deps = t.deps ∧ (t.ready seq).unit = t.unit := by
  rw [TaskRec.ready]
  split <;> exact ⟨rfl, rfl, rfl⟩

/-- A release of the BND task moves no task and leaves every other task as it is. -/
theorem get?_releaseBnd {e : Epoch} {k : Nat} {t : TaskRec} (h : NMap.get? e.tasks k = some t) : ∃ x, NMap.get? (releaseBnd e).tasks k = some x ∧
    x.die = t.die ∧ x.deps = t.deps ∧ x.unit = t.unit ∧ (tBnd t.desc = false → x = t) := by
  rw [releaseBnd]
  split
  · let f (t : TaskRec) : TaskRec := if tBnd t.desc then t.ready e.readyCount else t
    refine ⟨f t, (NMap.get?_map f e.tasks k).trans (congrArg (Option.map f) h), ?_⟩
    cases bnd : tBnd t.desc with
    | false => simp [f, bnd]
    | true => simpa [f, bnd] using t.ready_slot e.readyCount
  · exact ⟨t, h, rfl, rfl, rfl, fun _ => rfl⟩

theorem releaseBnd_next (e : Epoch) : (releaseBnd e).next = e.next := by
  rw [releaseBnd]
  split <;> rfl

/-- A task without the boundary mark is admitted ready exactly when no dependence is left (R109). -/
theorem admitRec_ready_iff {d : BitVec 1024} (plain : tBnd d = false) (c : Ctx) (e : Epoch) (die deps : Nat) :
    (admitRec c e d die deps).status = .ready ↔ deps = 0 := by
  rw [admitRec]
  by_cases h : deps = 0 <;> simp [h, plain]

/-- A task of a given HOME takes its slot on the die that the placement gives HOME. -/
theorem slotDie_home {s : State} {c : Ctx} {home die : Nat} (h : slotDie s c home = some die) (given : home < 24) :
    die = nth home c.place home := by
  rw [slotDie, if_pos given, Option.ite_none_right_eq_some, Option.some.injEq] at h
  exact h.2.symm

/-- The open epoch once its next task has taken a slot on a die. -/
def admitted (c : Ctx) (e : Epoch) (d : BitVec 1024) (die deps : Nat) : Epoch :=
  releaseBnd { e with tasks := NMap.set e.tasks e.next (admitRec c e d die deps), next := e.next + 1, readyCount := e.readyCount + 1 }

/-- The record of the task that has taken the slot. -/
theorem get?_admitted (c : Ctx) (e : Epoch) (d : BitVec 1024) (die deps : Nat) : ∃ x, NMap.get? (admitted c e d die deps).tasks e.next = some x ∧
    x.die = die ∧ x.deps = deps ∧ x.unit = none ∧ (tBnd d = false → x = admitRec c e d die deps) := by
  obtain ⟨x, hx, hdie, hdeps, hunit, plain⟩ := get?_releaseBnd
    (e := { e with tasks := NMap.set e.tasks e.next (admitRec c e d die deps), next := e.next + 1, readyCount := e.readyCount + 1 })
    (NMap.get?_set_same ..)
  exact ⟨x, hx, hdie, hdeps, hunit, fun bnd => plain ((tBnd_tWithStep d _).trans bnd)⟩

theorem exec_taskAdmit {s : State} {cn n rcd die : Nat} {c : Ctx} {e : Epoch} (hc : s.ctx? cn = some c) (he : c.epoch = some e)
    (runs : c.canRun = true) (opened : e.phase = .open) (more : e.next < e.count)
    (task : readNat s cn c (e.arr + 128 * e.next) 128 = .ok n) (record : readNat s cn c (e.carr + 16 * e.next) 16 = .ok rcd)
    (last : tBnd (BitVec.ofNat 1024 n) = true → e.next + 1 = e.count) (slot : slotDie s c (tHome (BitVec.ofNat 1024 n)) = some die) :
    let e' := admitted c e (BitVec.ofNat 1024 n) die (tDeps (BitVec.ofNat 1024 n) - recPend rcd)
    exec (.taskAdmit cn) s = .next (s.setCtx cn { c with epoch := some e', launch := launchAfter c e' }) := by
  have good : (tBnd (BitVec.ofNat 1024 n) && e.next + 1 != e.count) = false := by
    rw [Bool.and_eq_false_imp]
    intro bnd
    rw [last bnd, bne_self_eq_false]
  have goes : (!c.canRun || e.phase != .open || decide (e.count ≤ e.next)) = false := by
    rw [runs, opened, decide_eq_false (Nat.not_le.mpr more)]
    rfl
  simp only [show exec (.taskAdmit cn) s = execTaskAdmit cn s from rfl, execTaskAdmit, hc, he, goes, task, record, good, slot, Bool.false_eq_true,
    if_false]
  rfl

/-- Settles O24: an iteration by `exec_iterationAdmit`; a task by `exec_taskAdmit`, and its record through the release of the BND task by
`get?_admitted`. -/
theorem iterationsOpenAndTasksAreAdmitted : Obligations.IterationsOpenAndTasksAreAdmitted := by
  unfold Obligations.IterationsOpenAndTasksAreAdmitted
  refine ⟨fun s s1 cn c c1 l bind hc launch closed runs more read cleared hc1 => ⟨Epoch.start l bind, rfl, rfl, rfl, rfl, rfl, rfl, rfl, rfl, rfl,
    rfl, rfl, decide_eq_true_iff, exec_iterationAdmit hc launch closed runs more read cleared hc1⟩, ?_⟩
  intro s cn c e n rcd die hc he runs opened more task record d last slot
  obtain ⟨x, hx, hdie, hdeps, hunit, plain⟩ := get?_admitted c e d die (tDeps d - recPend rcd)
  refine ⟨_, _, admitted c e d die (tDeps d - recPend rcd), x, exec_taskAdmit hc he runs opened more task record last slot, State.ctx?_setCtx ..,
    rfl, releaseBnd_next _, hx, hdie, hdeps, hunit, rfl, fun bnd => ?_, slotDie_home slot⟩
  rw [plain bnd, admitRec_ready_iff bnd]

end Sys2Proof.Machine

/-!
PROOFS. Shadows that are made and that replace their pages (R123, R285, R286).
-/

namespace Sys2Proof.Machine

/-- Taking a page changes only what its tier holds to be used. -/
theorem takePage_frame {far : Bool} {s t : State} {p : Nat} : ∀ {dies : List Nat}, takePage s far dies = some (t, p) →
    t = { s with near := t.near, far := t.far }
  | [], h => by cases h
  | d :: dies, h => by
    unfold takePage at h
    dsimp only at h
    split at h
    · exact takePage_frame h
    · cases h
      cases far <;> rfl

/-- A page without a shadow gets one when its tier's quota has room: a page that was free, filled with a copy. -/
theorem makeShadow_new {s t : State} {cn vp : Nat} {c : Ctx} {e : PageEnt} (hc : s.ctx? cn = some c) (he : NMap.get? c.pages vp = some e)
    (new : NMap.has c.shadows vp = false) (h : makeShadow s cn vp = .ok t) :
    shadowCount c (isFar e.phys) < (if isFar e.phys then c.shadowFar else c.shadowNear) ∧
      ∃ s1 p, takePage s (isFar e.phys) (dieOrder (pageDie e.phys)) = some (s1, p) ∧
        t = ({ s1 with mem := Memory.copy s1.mem e.phys p pageSize } : State).setCtx cn
          { c with shadows := NMap.set c.shadows vp { phys := p, copying := true } } := by
  simp only [makeShadow, hc, he, new, Bool.false_eq_true, if_false] at h
  generalize (if isFar e.phys = true then c.shadowFar else c.shadowNear) = quota at h ⊢
  split at h
  · cases h
  · rename_i room
    refine ⟨Nat.lt_of_not_le room, ?_⟩
    split at h
    · cases h
    · rename_i s1 p taken
      exact ⟨s1, p, taken, (Except.ok.inj h).symm⟩

theorem recyclePage_of_page {s : State} {phys d p : Nat} {far : Bool} (h : pageOf phys = some (far, d, p)) :
    (recyclePage s phys).mem = Memory.erase s.mem phys pageSize ∧ (recyclePage s phys).ctxs = s.ctxs := by
  simp only [recyclePage, h]
  split <;> exact ⟨rfl, rfl⟩

/-- A shadow replaces a page that is not moving: the old page is recycled. -/
theorem commitShadow_still {s : State} {cn vp : Nat} {c : Ctx} {x : ShadowEnt} {e : PageEnt} (hc : s.ctx? cn = some c)
    (he : NMap.get? c.pages vp = some e) (still : e.moveTo = none) : commitShadow cn s (vp, x) =
      recyclePage (s.setCtx cn { c with pages := NMap.set c.pages vp { phys := x.phys, ro := e.ro, moveTo := none } }) e.phys := by
  simp only [commitShadow, hc, he, still]

/-- Settles O28: the copy by `makeShadow_new` and the law of a copied range, the commit by `commitShadow_still` and the law of an erased one. -/
theorem shadowsCopyAndReplacePages : Obligations.ShadowsCopyAndReplacePages := by
  unfold Obligations.ShadowsCopyAndReplacePages
  refine ⟨fun s t cn vp c e inv hc he new made => ?_, fun s cn vp c x e far d pg inv hc he still page => ?_⟩
  · obtain ⟨room, s1, p, taken, rfl⟩ := makeShadow_new hc he new made
    have kept : s1.mem = s.mem := by rw [takePage_frame taken]
    refine ⟨_, { phys := p, copying := true }, State.ctx?_setCtx .., NMap.get?_set_same .., rfl, rfl, room, fun k hk => ?_, fun a ha => ?_⟩
    · dsimp only
      rw [State.setCtx_mem, kept, Memory.get_copy inv, if_neg (by omega), Nat.add_sub_cancel_left, Nat.add_comm]
    · rw [State.setCtx_mem, kept, Memory.get_copy inv, if_pos ha]
  · intro t
    let c1 : Ctx := { c with pages := NMap.set c.pages vp { phys := x.phys, ro := e.ro, moveTo := none } }
    let s1 : State := s.setCtx cn c1
    have replaced : t = recyclePage s1 e.phys := commitShadow_still hc he still
    obtain ⟨mem, ctxs⟩ := recyclePage_of_page (s := s1) page
    refine ⟨⟨c1, ?_, NMap.get?_set_same .., fun v hv => NMap.get?_set_ne _ _ _ _ hv⟩, fun a lo hi => ?_, fun a ha => ?_⟩
    · rw [replaced, State.ctx?, ctxs]
      exact State.ctx?_setCtx ..
    · rw [replaced, mem, State.setCtx_mem, Memory.get_erase inv, if_neg (by omega)]
    · rw [replaced, mem, State.setCtx_mem, Memory.get_erase inv, if_pos ha]

end Sys2Proof.Machine

/-!
PROOFS. The module boundary (R130, R132, R418).
-/

namespace Sys2Proof.Machine

/-- The state in which a pending request is decided: it is no longer pending, and every context may dispatch again (R132). -/
def requestFreed (s : State) : State :=
  { s with colyr := { s.colyr with modReq := none }, ctxs := s.ctxs.map (fun p => (p.1, { p.2 with stopped := false })) }

section
variable {s : State} {tag : Nat} {l : List ItemBits}

theorem exec_moduleBoundary_items (pending : s.colyr.modReq = some (tag, l, none)) (ready : moduleReady s = true) : exec .moduleBoundary s =
    .next (endModule (if moduleCheck (requestFreed s) l = 0 then l.foldl applyModule (requestFreed s) else requestFreed s) 0x09 tag
      (moduleCheck (requestFreed s) l)) := by
  simp only [show exec .moduleBoundary s = execModuleBoundary s from rfl, execModuleBoundary, pending, ready, Bool.not_true,
    Bool.false_eq_true, if_false]
  rfl

theorem exec_moduleBoundary_entry {k : Nat} {t : TenantBits} (pending : s.colyr.modReq = some (tag, l, some (k, t))) (ready : moduleReady s = true) :
    exec .moduleBoundary s = if moduleCheck (requestFreed s) l = 0
      then .next (endModule (putTenant ((l.filter (fun i => iType i != 0x102)).foldl applyModule (requestFreed s)) k t 0x47 (entryKey t)) 0x07 tag 0)
      else .next (endModule (requestFreed s) 0x07 tag (moduleCheck (requestFreed s) l)) := by
  simp only [show exec .moduleBoundary s = execModuleBoundary s from rfl, execModuleBoundary, pending, ready, Bool.not_true,
    Bool.false_eq_true, if_false]
  rfl

end

/-- An item of type 0x0101 sets the module cap to bits [15:0] of its VALUE (R440). -/
theorem applyModule_cap (s : State) {i : ItemBits} (type : iType i = 0x101) :
    applyModule s i = { s with power := { s.power with cap := iValue i % 2 ^ 16 } } := by
  have cap : mCap i = iValue i % 2 ^ 16 := by rw [mCap, iv, field_eq_div_mod, pow_zero, Nat.div_one]
  simp only [applyModule, type, cap]

/-- Settles O29: a request of a command and one of a tenancy entry by their equations above, whether the check finds a reason or not. -/
theorem moduleBoundaryAppliesAllOrNone : Obligations.ModuleBoundaryAppliesAllOrNone := by
  unfold Obligations.ModuleBoundaryAppliesAllOrNone
  intro s tag l entry pending ready free
  refine ⟨?_, ?_, ?_, ?_, fun i type => applyModule_cap free type⟩
  · rintro rfl (good : moduleCheck (requestFreed s) l = 0)
    rw [exec_moduleBoundary_items pending ready, if_pos good, good]
    rfl
  · rintro rfl (bad : moduleCheck (requestFreed s) l ≠ 0)
    rw [exec_moduleBoundary_items pending ready, if_neg bad]
    rfl
  · rintro k e rfl (good : moduleCheck (requestFreed s) l = 0)
    rw [exec_moduleBoundary_entry pending ready, if_pos good]
    rfl
  · rintro k e rfl (bad : moduleCheck (requestFreed s) l ≠ 0)
    rw [exec_moduleBoundary_entry pending ready, if_neg bad]
    rfl

end Sys2Proof.Machine

/-!
PROOFS. Frames that a host's port takes, and what an RDMA message of no byte is answered with (R327 to R330, R423).
-/

namespace Sys2Proof.Machine

/-! ### Frames of an attached host (R327 to R329) -/

/-- Traffic to a host changes the ports' records and what has been sent. -/
theorem toHost_frame (s : State) (slot : Nat) (k : Option Nat) (r : Option CqRec) (o : Out) :
    s.toHost slot k r o = { s with ports := (s.toHost slot k r o).ports, out := (s.toHost slot k r o).out } := by
  unfold State.toHost
  split
  · rfl
  · exact sendItem_frame ..

@[simp] theorem toHost_hosts (s : State) (slot : Nat) (k : Option Nat) (r : Option CqRec) (o : Out) : (s.toHost slot k r o).hosts = s.hosts := by
  rw [toHost_frame]

section
variable {s : State} {slot : Nat} {h : HostRec} {f : FrameInfo} {held : Bool} (taken : FrameTaken s slot h f held)
include taken

/-- A frame that verifies, or may be unprotected, passes; its host is found as `frameHost` says. -/
theorem protect_taken : (protect (arrive s h.port f).1 slot h f false).2 = true ∧
    (protect (arrive s h.port f).1 slot h f false).1.host? slot = some (frameHost h f) := by
  have verified := taken.verified
  have found : (arrive s h.port f).1.host? slot = some h := by
    rw [State.host?, arrive_frame]
    exact taken.host
  cases sec : f.sec with
  | none =>
    rw [sec] at verified
    rw [protect_unprotected sec (.inr verified), frameHost, sec]
    exact ⟨rfl, found⟩
  | some x =>
    rw [sec] at verified
    obtain ⟨current, under⟩ := Option.isSome_iff_exists.mp verified
    simp only [protect, frameHost, sec, under, Option.elim_some, State.host?_setHost, and_self]

theorem frameState_host : (frameState s slot h f).host? slot = some (frameHost h f) := by
  have passed := (protect_taken taken).2
  unfold frameState
  dsimp only
  split
  · rw [State.host?, toHost_hosts]
    exact passed
  · exact passed

/-- What a taken frame asks is done in the state in which its bytes are counted and its packet number is taken. -/
theorem hostFrame_taken (k : State → HostRec → State) : hostFrame s slot f held k = k (frameState s slot h f) (frameHost h f) := by
  have received : (arrive s h.port f).2 = true := arrive_received taken.intact taken.room
  have passed := (protect_taken taken).1
  have own : (!(portUp s h.port) || !(h.linked || (held && h.phase == .hold)) || f.mac != h.mac) = false := by
    have linked : (h.linked || (held && h.phase == .hold)) = true := by
      rcases taken.linked with up | ⟨rfl, phase⟩
      · rw [up, Bool.true_or]
      · rw [phase]
        exact Bool.or_true _
    rw [taken.up, linked, taken.sender, bne_self_eq_false]
    rfl
  have found := frameState_host taken
  rw [frameState] at found ⊢
  simp only [hostFrame, taken.host, own, received, passed, Bool.not_true, Bool.false_eq_true, if_false, Bool.and_eq_true, found]

end

/-! ### RDMA WRITEs (R330) -/

theorem exec_rdmaWrite_taken {s : State} {slot : Nat} {h : HostRec} {f : FrameInfo} (taken : FrameTaken s slot h f false) (key : RKey) (addr : Nat)
    (data : Bytes) : exec (.rdmaWrite slot key addr data f) s =
      .next (rdmaWrite slot key addr data (frameState s slot h f) (frameHost h f)) :=
  congrArg Host.Outcome.next (hostFrame_taken taken _)

/-- A message has at least one byte: a WRITE of none is an invalid request, whatever its key. -/
theorem rdmaWrite_empty {h : HostRec} (qp : h.hasQp = true) (s : State) (slot : Nat) (key : RKey) (addr : Nat) :
    rdmaWrite slot key addr [] s h = s.toHost slot (keyCtx key) none (.nakInvalid slot) := by
  simp [rdmaWrite, qp, messageFits]

/-! ### A host on port 0 that writes no byte -/

/-- A registered host whose frames may be unprotected. -/
def plainHost : HostRec :=
  { hkdig := 0, tenant := 0, port := 0, mac := 0, sid := 0, umax := 0x10, enc := false, phase := .registered, resumed := false, hold := 0, kaint := 1,
    reg := none, keySet := 0, keys := { hostSak := 0, moduleSak := 0, kconf := 0, hostSalt := 0, moduleSalt := 0 }, oldKeys := none, rekey := none,
    rxNext := 0, rxOldNext := 0, outSeq := 0, replies := [], detachSeq := none, plainOk := true, qps := [] }

/-- The module after reset with that host attached on port 0, whose link is up. -/
def plainHosted : State :=
  { State.reset with hosts := [(0, plainHost)], ports := setNth State.reset.ports 0 { PortRec.fresh with up := true } }

/-- A whole unprotected frame of that host. -/
def plainFrame : FrameInfo :=
  { mac := 0, crcOk := true, sec := none, pcp := none, dscp := 0, ce := false, cnpDue := false, occupancy := 0 }

theorem plainFrame_taken : FrameTaken plainHosted 0 plainHost plainFrame false where
  host := rfl
  up := by decide
  linked := .inl rfl
  sender := rfl
  intact := rfl
  room := Nat.zero_le _
  verified := rfl

/-- Refutes O40: an RDMA WRITE of no byte under the host window's key is answered with an invalid-request NAK, since a message has 1 byte to 2 GiB
(R330); the statement has every WRITE there of up to 2 GiB answered with a remote-access NAK. -/
theorem not_rdmaAccessesOfAttachedHosts : ¬ Obligations.RdmaAccessesOfAttachedHosts := by
  unfold Obligations.RdmaAccessesOfAttachedHosts
  intro claim
  obtain ⟨-, -, -, writes, -⟩ := claim.1 plainHosted 0 plainHost plainFrame plainFrame_taken rfl
  obtain ⟨-, -, -, -, window⟩ := writes [] (Nat.zero_le _)
  have answered : exec (.rdmaWrite 0 .hostWindow 0 [] plainFrame) plainHosted =
      .next ((frameState plainHosted 0 plainHost plainFrame).toHost 0 none none (.nakAccess 0)) := window 0
  rw [exec_rdmaWrite_taken plainFrame_taken, rdmaWrite_empty rfl] at answered
  have flows : hostPaused (frameState plainHosted 0 plainHost plainFrame) 0 = false := by decide
  have found := frameState_host plainFrame_taken
  have sent := congrArg State.out (Host.Outcome.next.inj answered)
  rw [toHost_unpaused found flows, toHost_unpaused found flows] at sent
  cases List.append_cancel_left sent

end Sys2Proof.Machine

/-!
PROOFS. Slots of sequences that are freed and granted, page sets that go out and come back (R238, R245 to R247, R295).
-/

namespace Sys2Proof.Machine

/-! ### A sequence and the pool of its context -/

theorem State.modCtx_eq_setCtx {s : State} {cn : Nat} {c : Ctx} (f : Ctx → Ctx) (hc : s.ctx? cn = some c) : s.modCtx cn f = s.setCtx cn (f c) := by
  rw [State.modCtx, NMap.modify, show NMap.get? s.ctxs cn = some c from hc, State.setCtx]

theorem State.modSeq_eq_setCtx {s : State} {cn sn : Nat} {c : Ctx} {q : SeqRec} (f : SeqRec → SeqRec) (hc : s.ctx? cn = some c)
    (hq : NMap.get? c.seqs sn = some q) : s.modSeq cn sn f = s.setCtx cn { c with seqs := NMap.set c.seqs sn (f q) } := by
  rw [State.modSeq, State.modCtx_eq_setCtx _ hc, NMap.modify, hq]

theorem State.seq?_of_ctx? {s : State} {cn sn : Nat} {c : Ctx} {q : SeqRec} (hc : s.ctx? cn = some c) (hq : NMap.get? c.seqs sn = some q) :
    s.seq? cn sn = some (c, q) := by
  rw [State.seq?, hc]
  dsimp only
  rw [hq, Option.map_some]

/-! ### Slots that return to the pool (R238, R240) -/

/-- A slot that firmware gave the sequence leaves it and joins the free list at its end. -/
theorem returnSlot_given {s : State} {cn sn a : Nat} {c : Ctx} {q : SeqRec} (hc : s.ctx? cn = some c) (hq : NMap.get? c.seqs sn = some q)
    (given : a ∈ q.slots) : returnSlot s cn sn a = s.setCtx cn { c with
      seqs := NMap.set c.seqs sn { q with slots := q.slots.erase a }, kv := { c.kv with free := c.kv.free ++ [a] } } := by
  rw [returnSlot, State.modCtx_eq_setCtx _ hc]
  dsimp only
  rw [hq]
  dsimp only
  rw [if_pos (List.contains_iff_mem.2 given)]

/-- Slots that firmware gave the sequence, each named once, all return, in their order. -/
theorem foldl_returnSlot_given (s : State) (cn sn : Nat) (c : Ctx) (q : SeqRec) (as : List Nat) (once : as.Nodup)
    (given : ∀ a ∈ as, a ∈ q.slots) :
    as.foldl (fun s a => returnSlot s cn sn a) (s.setCtx cn { c with seqs := NMap.set c.seqs sn q }) = s.setCtx cn { c with
      seqs := NMap.set c.seqs sn { q with slots := q.slots.diff as }, kv := { c.kv with free := c.kv.free ++ as } } := by
  induction as generalizing c q with
  | nil => rw [List.foldl_nil, List.diff_nil, List.append_nil]
  | cons a as ih =>
    obtain ⟨other, once⟩ := List.nodup_cons.1 once
    have still : ∀ b ∈ as, b ∈ q.slots.erase a := fun b hb =>
      (List.mem_erase_of_ne (ne_of_mem_of_not_mem hb other)).2 (given b (List.mem_cons_of_mem a hb))
    have first := returnSlot_given (State.ctx?_setCtx s cn { c with seqs := NMap.set c.seqs sn q }) (NMap.get?_set_same ..)
      (given a List.mem_cons_self)
    rw [State.setCtx_setCtx, NMap.set_set] at first
    have rest := ih { c with kv := { c.kv with free := c.kv.free ++ [a] } } { q with slots := q.slots.erase a } once still
    rw [List.foldl_cons, first, rest, List.diff_cons, List.append_assoc, List.singleton_append]

/-- Without a walker of an older epoch everything that waits is released: the slots among it return to the pool. -/
theorem exec_leafFree {s : State} {cn sn : Nat} {c : Ctx} {q : SeqRec} (hc : s.ctx? cn = some c) (hq : NMap.get? c.seqs sn = some q)
    (young : ∀ f ∈ q.freeing, ∀ e ∈ walkerEpochs s cn sn, ¬ e < f.1) : exec (.leafFree cn sn) s =
      .next (((q.freeing.filter (fun f => !f.2.1)).map (fun f => f.2.2)).foldl (fun s a => returnSlot s cn sn a)
        (s.setCtx cn { c with seqs := NMap.set c.seqs sn { q with freeing := [] } })) := by
  have loose : ∀ f ∈ q.freeing, (walkerEpochs s cn sn).any (fun e => decide (e < f.1)) = false := fun f hf =>
    List.any_eq_false.2 fun e he older => young f hf e he (of_decide_eq_true older)
  have none_stays : q.freeing.filter (fun f => (walkerEpochs s cn sn).any (fun e => decide (e < f.1))) = [] :=
    List.filter_eq_nil_iff.2 fun f hf => by rw [loose f hf]; exact Bool.false_ne_true
  have slots_go : q.freeing.filter (fun f => !(walkerEpochs s cn sn).any (fun e => decide (e < f.1)) && !f.2.1) =
      q.freeing.filter (fun f => !f.2.1) := List.filter_congr fun f hf => by rw [loose f hf, Bool.not_false, Bool.true_and]
  rw [show exec (.leafFree cn sn) s = execLeafFree cn sn s from rfl, execLeafFree, State.seq?_of_ctx? hc hq]
  dsimp only
  rw [none_stays, slots_go, State.modSeq_eq_setCtx _ hc hq]

/-! ### A free slot for the oldest request (R245) -/

section

variable {s : State} {cn sn pg a : Nat} {c : Ctx} {fr : List Nat} {wr : List (Option UnitId × Nat × Nat)}

/-- What the context holds once the first free slot and the oldest request are taken. -/
theorem modKv_taken (hc : s.ctx? cn = some c) : s.modKv cn (fun k => { k with free := fr, waiting := wr }) =
    s.setCtx cn { c with kv := { c.kv with free := fr, waiting := wr } } := by
  rw [State.modKv, State.modCtx_eq_setCtx _ hc]

theorem exec_kvSlotGrant_append {s1 : State} {u : UnitId} (hc : s.ctx? cn = some c) (free : c.kv.free = a :: fr)
    (waits : c.kv.waiting = (some u, sn, pg) :: wr)
    (allocated : allocPage (s.setCtx cn { c with kv := { c.kv with free := fr, waiting := wr } }) cn sn pg a = .ok s1) :
    exec (.kvSlotGrant cn) s = .next (kvPressure s1 cn) := by
  rw [show exec (.kvSlotGrant cn) s = .next (grantSlot s cn) from rfl, grantSlot, hc]
  dsimp only
  rw [free, waits]
  dsimp only
  rw [modKv_taken hc, allocated]

theorem exec_kvSlotGrant_fetch (hc : s.ctx? cn = some c) (free : c.kv.free = a :: fr) (waits : c.kv.waiting = (none, sn, pg) :: wr) :
    exec (.kvSlotGrant cn) s =
      .next (kvPressure (startFetch (s.setCtx cn { c with kv := { c.kv with free := fr, waiting := wr } }) cn sn pg a) cn) := by
  rw [show exec (.kvSlotGrant cn) s = .next (grantSlot s cn) from rfl, grantSlot, hc]
  dsimp only
  rw [free, waits]
  dsimp only
  rw [modKv_taken hc]

end

/-! ### Page sets that go out and come back (R246, R247, R295) -/

section

variable {s : State} {cn sn pg a : Nat} {c : Ctx} {q : SeqRec} {bs : Bytes}

theorem exec_pageSetSwapped {h : Nat} (hc : s.ctx? cn = some c) (hq : NMap.get? c.seqs sn = some q) (linked : (hostLink s c).isSome = true)
    (spare : spareHeld q pg = false) (inside : pg < q.maxLp) (sent : unsent s cn = false) (entry : pageEntry s cn c q pg = .ok (a, psCopying))
    (read : readBytes s cn c a (2 ^ c.kv.n) = .ok bs) (header : seqHeader s cn c q = .ok h) :
    exec (.pageSetSwapped cn sn pg) s = .next (kvContinue ((fwAdd (leafEdit
      { s with swap := ((cn, sn, pg), bs) :: s.swap.filter (fun p => p.1 != (cn, sn, pg)) } cn sn pg 0 psSwapped) cn (q.root + 24) (-1)).modSeq cn sn
        (fun q => { q with freeing := q.freeing ++ [(hEpoch h + 1, false, a)] })) cn sn) := by
  obtain ⟨reg, link⟩ := Option.isSome_iff_exists.1 linked
  have passed : (psCopying != psCopying || unsent s cn || spareHeld q pg || decide (q.maxLp ≤ pg)) = false := by
    rw [bne_self_eq_false, sent, spare, decide_eq_false (Nat.not_le.2 inside)]
    rfl
  rw [show exec (.pageSetSwapped cn sn pg) s = execPageSetSwapped cn sn pg s from rfl, execPageSetSwapped, State.seq?_of_ctx? hc hq]
  dsimp only
  rw [entry, link]
  dsimp only
  rw [if_neg (Bool.eq_false_iff.1 passed), read, header]

theorem exec_pageSetResident_verified (hc : s.ctx? cn = some c) (hq : NMap.get? c.seqs sn = some q) (linked : (hostLink s c).isSome = true)
    (spare : spareHeld q pg = false) (inside : pg < q.maxLp) (entry : pageEntry s cn c q pg = .ok (a, psFetching))
    (copy : s.swap.find? (fun p => p.1 == (cn, sn, pg)) = some ((cn, sn, pg), bs)) :
    let back := fwAdd (leafEdit (fwWrite s cn a bs) cn sn pg a psResident) cn (q.root + 24) 1
    exec (.pageSetResident cn sn pg true) s =
      .next (kvContinue { back with swap := back.swap.filter (fun p => p.1 != (cn, sn, pg)) } cn sn) := by
  obtain ⟨reg, link⟩ := Option.isSome_iff_exists.1 linked
  have passed : (psFetching != psFetching || spareHeld q pg || !true || decide (q.maxLp ≤ pg)) = false := by
    rw [bne_self_eq_false, spare, decide_eq_false (Nat.not_le.2 inside)]
    rfl
  intro back
  rw [show exec (.pageSetResident cn sn pg true) s = execPageSetResident cn sn pg true s from rfl, execPageSetResident, State.seq?_of_ctx? hc hq]
  dsimp only
  rw [entry, link]
  dsimp only
  rw [if_neg (Bool.eq_false_iff.1 passed), copy]
  rfl

/-- A copy that does not verify is read again: nothing changes, whatever the page set's state. -/
theorem exec_pageSetResident_unverified (cn sn pg : Nat) (s : State) : exec (.pageSetResident cn sn pg false) s = .next s := by
  rw [show exec (.pageSetResident cn sn pg false) s = execPageSetResident cn sn pg false s from rfl, execPageSetResident]
  split
  · rfl
  · split
    · rw [if_pos (by rw [Bool.not_false, Bool.or_true, Bool.true_or])]
    · rfl

end

/-! ### The statement -/

/-- Settles O30: the released slots by `foldl_returnSlot_given`, the grants and the page sets by the equations of their forms. -/
theorem slotsAndPageSetsOfSequences : Obligations.SlotsAndPageSetsOfSequences := by
  unfold Obligations.SlotsAndPageSetsOfSequences
  refine ⟨⟨?_, fun s s1 cn c u sn pg a fr wr => exec_kvSlotGrant_append, fun s cn c sn pg a fr wr => exec_kvSlotGrant_fetch⟩,
    fun s cn sn pg c q a hc hq linked spare inside => ⟨fun bs h => exec_pageSetSwapped hc hq linked spare inside,
      fun bs => exec_pageSetResident_verified hc hq linked spare inside, fun _ => exec_pageSetResident_unverified cn sn pg s⟩⟩
  intro s cn sn c q hc hq young old once given
  have freed := (exec_leafFree hc hq young).trans
    (congrArg Host.Outcome.next (foldl_returnSlot_given s cn sn c { q with freeing := [] } old once given))
  exact ⟨_, _, freed, State.ctx?_setCtx .., rfl, rfl, _, NMap.get?_set_same .., rfl,
    fun a ha distinct stays => ((List.Nodup.mem_sdiff_iff distinct).1 stays).2 ha, rfl⟩

end Sys2Proof.Machine

/-!
PROOFS. What no command does: the rows keep the queue, the memory's canonical form and that of the stored images. Branches and the instructions of
sequencers.
-/

namespace Sys2Proof.Machine

/-- A state that comes from the state `s0` by operations of `Keeps`. -/
abbrev KeepsS (s0 s : State) : Prop := Keeps s0 s.pending s.mem s.fw s.recSession

/-! ### Branches -/

/-- A command that changes nothing (log entry 2). Where other fields alone change, `.next (.refl s)` is the same by the definitions. -/
theorem KeepsR.idle {s : State} : KeepsR s (.next s) := KeepsR.next (.refl s)

theorem KeepsR.ite {p : Prop} [Decidable p] {s0 : State} {a b : Res} (ha : KeepsR s0 a) (hb : KeepsR s0 b) : KeepsR s0 (if p then a else b) := by
  split
  · exact ha
  · exact hb

theorem KeepsE.ite {p : Prop} [Decidable p] {s0 : State} {a b : Eff} (ha : KeepsE s0 a) (hb : KeepsE s0 b) : KeepsE s0 (if p then a else b) := by
  split
  · exact ha
  · exact hb

theorem Keeps.ite {p : Prop} [Decidable p] {s0 a b : State} (ha : KeepsS s0 a) (hb : KeepsS s0 b) : KeepsS s0 (if p then a else b) := by
  split
  · exact ha
  · exact hb

section
variable {s : State} {u : UnitId}

/-! ### Control and synchronisation (R73 to R77) -/

theorem execWaitResume_keeps : KeepsR s (execWaitResume u s) := by
  unfold execWaitResume
  repeat' split
  · exact .next (State.setRun_keeps (.refl s))
  all_goals exact .idle

theorem execTokwaitResume_keeps : KeepsR s (execTokwaitResume u s) := by
  unfold execTokwaitResume
  repeat' split
  · exact .next (State.setRun_keeps (.refl s))
  · exact .idle
  · exact .next (unitFault_keeps (.refl s))
  all_goals exact .idle

theorem execPrologueTokenResume_keeps : KeepsR s (execPrologueTokenResume u s) := by
  unfold execPrologueTokenResume
  repeat' split
  · exact .next (State.setRun_keeps (.refl s))
  · exact .idle
  · exact .next (unitFault_keeps (.refl s))
  all_goals exact .idle

theorem execReservedInstruction_keeps : KeepsR s (execReservedInstruction u s) := by
  unfold execReservedInstruction
  repeat' split
  any_goals exact .idle
  all_goals exact .next (unitFault_keeps (.refl s))

theorem execProgramBoundsFetch_keeps : KeepsR s (execProgramBoundsFetch u s) := by
  unfold execProgramBoundsFetch
  repeat' split
  any_goals exact .idle
  exact .next (unitFault_keeps (.refl s))

/-- A store of eight bytes at the address of the word. -/
theorem storeWord_keeps {s0 : State} {cn : Nat} {ws : List WItem} {r : Run} (h : KeepsS s0 s) : KeepsE s0 (finishWrites (runBytes s cn ws) cn ws r) :=
  KeepsE.finishWrites (runBytes_keeps h)

theorem execWcfa_keeps : KeepsR s (execWcfa u s) :=
  issue_keeps (.refl s) fun _ _ _ => KeepsE.tryX (.refl s) fun _ _ => KeepsE.tryX (.refl s) fun _ counted =>
    KeepsE.finishWrites (KeepsP.mk (foulBytes_keeps ((countedWrite_keeps (.refl s)).elim counted)))

/-! ### Tables, elements and conversions (R83 to R85) -/

/-- The writes of an instruction to a tensor. -/
theorem storeTensor_keeps {s0 : State} {cn : Nat} {d : TD} {key : Bool} {ws : List WItem} {r : Run} (h : KeepsS s0 s) :
    KeepsE s0 (finishWrites (runWrites s cn d key ws) cn ws r) :=
  KeepsE.finishWrites (runWrites_keeps h)

theorem execLookup_keeps : KeepsR s (execLookup u s) :=
  issue_keeps (.refl s) fun _ _ _ => KeepsE.tryX (.refl s) fun _ _ => KeepsE.tryX (.refl s) fun _ _ => KeepsE.tryX (.refl s) fun _ _ =>
    KeepsE.check (.refl s) fun _ => KeepsE.tryX (.refl s) fun _ _ => KeepsE.tryX (.refl s) fun _ _ =>
      KeepsE.ite (KeepsE.go (.refl s)) (storeTensor_keeps (.refl s))

theorem execLoad_keeps : KeepsR s (execLoad u s) := by
  refine issue_keeps (.refl s) fun c r w => KeepsE.tryX (.refl s) fun t _ => KeepsE.check (.refl s) fun _ =>
    KeepsE.ite (KeepsE.go (.refl s)) (KeepsE.tryX (.refl s) fun bs _ => KeepsE.check (.refl s) fun _ => ?_)
  have loading : KeepsS s (setBankState s r.ctx (tbSLOT w) (tbBANK w) { (nth .dflt c.tabs (tbSLOT w)).bank (tbBANK w) with state := .loading }) :=
    setBankState_keeps (.refl s)
  dsimp only
  split
  · exact KeepsE.stop loading
  next s2 prepared =>
    have ready : KeepsS s s2 := (prepareAll_keeps loading).elim prepared
    refine KeepsE.ite (KeepsE.jump ready) ?_
    split
    · exact KeepsE.stop ((runBytes_keeps ready).elim ‹_›)
    next s3 written =>
      have stored : KeepsS s s3 := (runBytes_keeps ready).elim written
      exact KeepsE.go (setBankState_keeps (Keeps.ite (State.tick_keeps stored) stored))

theorem vecElementwise_keeps {op : Nat} : KeepsR s (vecElementwise op u s) :=
  issue_keeps (.refl s) fun _ _ _ => KeepsE.tryX (.refl s) fun _ _ => KeepsE.tryX (.refl s) fun _ _ => KeepsE.tryX (.refl s) fun _ _ =>
    KeepsE.tryX (.refl s) fun _ _ => KeepsE.check (.refl s) fun _ => storeTensor_keeps (.refl s)

theorem vecReduce_keeps {op : Nat} : KeepsR s (vecReduce op u s) :=
  issue_keeps (.refl s) fun _ _ _ => KeepsE.tryX (.refl s) fun _ _ => KeepsE.tryX (.refl s) fun _ _ => KeepsE.tryX (.refl s) fun _ _ =>
    KeepsE.check (.refl s) fun _ => KeepsE.ite (KeepsE.go (.refl s)) (storeTensor_keeps (.refl s))

theorem vecPool_keeps {op : Nat} : KeepsR s (vecPool op u s) :=
  issue_keeps (.refl s) fun _ _ _ => KeepsE.tryX (.refl s) fun _ _ => KeepsE.tryX (.refl s) fun _ _ => KeepsE.check (.refl s) fun _ =>
    KeepsE.ite (KeepsE.go (.refl s)) (storeTensor_keeps (.refl s))

theorem execRand_keeps : KeepsR s (execRand u s) :=
  issue_keeps (.refl s) fun _ _ _ => KeepsE.tryX (.refl s) fun _ _ => KeepsE.check (.refl s) fun _ => storeTensor_keeps (.refl s)

theorem execCvt_keeps : KeepsR s (execCvt u s) := by
  refine issue_keeps (.refl s) fun c r w => KeepsE.tryX (.refl s) fun d _ => KeepsE.tryX (.refl s) fun t _ => KeepsE.check (.refl s) fun _ =>
    KeepsE.ite (KeepsE.go (.refl s)) (KeepsE.tryX (.refl s) fun l _ => KeepsE.tryX (.refl s) fun e _ => ?_)
  dsimp only
  split
  · exact KeepsE.stop ((runWrites_keeps (.refl s)).elim ‹_›)
  next s' written =>
    have stored : KeepsS s s' := (runWrites_keeps (.refl s)).elim written
    exact KeepsE.ite (KeepsE.tryX stored fun _ gathered => KeepsE.finishWrites (KeepsP.mk ((gatherAmax_keeps stored).elim gathered)))
      (KeepsE.finishWrites (KeepsP.mk stored))

/-! ### Transfers (R78) -/

theorem issueMove_keeps {op : Nat} : KeepsR s (issueMove op u s) :=
  issue_keeps (.refl s) fun _ _ _ => KeepsE.tryX (.refl s) fun _ _ => KeepsE.go (.refl s)

theorem execMoveDone_keeps {data : Bytes} {ok : Bool} : KeepsR s (execMoveDone u data ok s) := by
  unfold execMoveDone
  split
  · exact .idle
  next r _ =>
    refine KeepsR.ite .idle ?_
    split
    next sn rest c _ _ =>
      refine KeepsR.ite (.next (moveSpoilt_keeps (.refl s))) ?_
      have stored {d : TD} {ws : List WItem} : KeepsS s (settleMove u r sn rest (asyncWrites s r.ctx d (mKEY sn.word) ws)) :=
        settleMove_keeps (asyncWrites_keeps (.refl s))
      have faulted {f : CFault} : KeepsR s (.next (asyncFault s u r f sn.ix)) := .next (asyncFault_keeps (.refl s))
      split
      · exact faulted
      refine KeepsR.ite (.next stored) ?_
      split
      · exact faulted
      refine KeepsR.ite (KeepsR.ite .idle (.next stored)) (KeepsR.ite (KeepsR.ite .idle (.next ?_)) (KeepsR.ite ?_ (.next stored)))
      · exact settleMove_keeps (KeepsP.mk (KeepsP.fst (emitHostWrites_keeps (.refl s))))
      · split
        · exact faulted
        · exact .next stored
    · exact .idle

theorem execShadowCopyDone_keeps {cn vp : Nat} : KeepsR s (execShadowCopyDone cn vp s) := by
  unfold execShadowCopyDone
  repeat' split
  all_goals exact .next (.refl s)

/-! ### The arrays (R79 to R82) -/

theorem execMm_keeps {detect : Bool} : KeepsR s (execMm u detect s) := by
  refine issue_keeps (.refl s) fun c r w => KeepsE.tryX (.refl s) fun qx _ => KeepsE.tryX (.refl s) fun qw _ => KeepsE.tryX (.refl s) fun held _ => ?_
  split
  · exact KeepsE.jump (.refl s)
  · exact KeepsE.tryX (.refl s) fun _ _ => KeepsE.tryX (partDrained_keeps (.refl s)) fun _ _ =>
      KeepsE.ite (KeepsE.jump (stopChecked_keeps (.refl s))) (KeepsE.go (Keeps.ite (State.tick_keeps (.refl s)) (.refl s)))

theorem execConv_keeps {detect : Bool} : KeepsR s (execConv u detect s) := by
  refine issue_keeps (.refl s) fun c r w => KeepsE.tryX (.refl s) fun qx _ => KeepsE.tryX (.refl s) fun held _ => ?_
  split
  · exact KeepsE.jump (.refl s)
  · exact KeepsE.tryX (.refl s) fun _ _ => KeepsE.tryX (partDrained_keeps (.refl s)) fun _ _ =>
      KeepsE.ite (KeepsE.jump (stopChecked_keeps (.refl s))) (KeepsE.go (Keeps.ite (State.tick_keeps (.refl s)) (.refl s)))

theorem execMmaDrain_keeps {mismatch : Bool} : KeepsR s (execMmaDrain u mismatch s) := by
  unfold execMmaDrain
  split
  · exact .idle
  next r _ =>
    refine KeepsR.ite .idle ?_
    split
    next d rest c _ _ =>
      refine KeepsR.ite (.next (stopChecked_keeps (.refl s))) ?_
      split
      · exact .next (asyncFault_keeps (.refl s))
      · exact .next (asyncFault_keeps (.refl s))
      next tc chain _ _ =>
        have faulted {f : CFault} {ws : List WItem} :
            KeepsR s (.next (asyncFault (partWrites s r.ctx tc (chainKey chain) ws) u r f d.snap.ix)) :=
          .next (asyncFault_keeps (partWrites_keeps (.refl s)))
        dsimp only
        split
        · exact faulted
        split
        · exact faulted
        next prepared =>
          have ready := (prepareAll_keeps (.refl s)).elim prepared
          refine KeepsR.ite (.next ready) ?_
          split
          · exact faulted
          next drained =>
            have done := (drainRun_keeps ready).elim drained
            exact .next (Keeps.ite (State.tick_keeps done) done)
    · exact .idle

/-! ### Pushes, appends and attention passes (R86, R87) -/

theorem execPush_keeps : KeepsR s (execPush u s) :=
  issue_keeps (.refl s) fun _ _ _ => KeepsE.tryX (.refl s) fun _ _ => KeepsE.tryX (partPush_keeps (.refl s)) fun _ _ =>
    KeepsE.tryX (partPush_keeps (.refl s)) fun _ _ => KeepsE.tryX (partPush_keeps (.refl s)) fun _ _ => KeepsE.go (addFlights_keeps (.refl s))

theorem execPushDelivery_keeps {src dst : Nat} : KeepsR s (execPushDelivery src dst s) := by
  unfold execPushDelivery
  split
  · exact .idle
  · exact KeepsR.ite .idle (.next (Keeps.ite (deliver_keeps (.refl s)) (.refl s)))

/-- The effect that goes on with the unit as an operation has left it. -/
theorem goOn_keeps {s0 t : State} {f : CFault} (h : KeepsS s0 t) : KeepsE s0 (match t.run? u with
    | some r => .go t r
    | none => .stop t f) := by
  split
  · exact KeepsE.go h
  · exact KeepsE.stop h

theorem execKvappend_keeps : KeepsR s (execKvappend u s) := by
  refine issue_keeps (.refl s) fun c r w => KeepsE.tryX (.refl s) fun p _ => KeepsE.check (.refl s) fun _ => KeepsE.ite ?_ ?_
  · refine KeepsE.tryX (.refl s) fun s' allocated => ?_
    have h : KeepsS s s' := (allocRange_keeps (State.setRun_keeps (.refl s))).elim allocated
    exact goOn_keeps h
  · have h : KeepsS s (needResident (s.setRun u { r with attns := r.attns ++ [.append (snapshot r w) p.sn] }) r.ctx p.sn) :=
      needResident_keeps (State.setRun_keeps (.refl s))
    exact goOn_keeps h

theorem execKvappendDone_keeps {mismatch : Bool} : KeepsR s (execKvappendDone u mismatch s) := by
  unfold execKvappendDone
  split
  · exact .idle
  next r _ =>
    refine KeepsR.ite .idle ?_
    split
    next sp n rest c _ _ =>
      refine KeepsR.ite (.next (stopChecked_keeps (.refl s))) ?_
      have faulted {t : State} {f : CFault} (h : KeepsS s t) : KeepsR s (.next (asyncFault t u r f sp.ix)) := .next (asyncFault_keeps h)
      split
      · exact faulted (.refl s)
      refine KeepsR.ite (KeepsR.ite ?_ (.next (needResident_keeps (.refl s)))) ?_
      · split
        next allocated => exact .next ((allocRange_keeps (.refl s)).elim allocated)
        · exact faulted (.refl s)
      dsimp only
      split
      · exact faulted (.refl s)
      next h1 =>
        have k1 := (prepareWrite_keeps (.refl s)).elim h1
        split
        · exact faulted (.refl s)
        next h2 =>
          have k2 := (prepareAll_keeps k1).elim h2
          refine KeepsR.ite (.next k2) ?_
          split
          next h3 => exact faulted ((appendBytes_keeps k2).elim h3)
          next s3 h3 =>
            have k3 : KeepsS s s3 := (appendBytes_keeps k2).elim h3
            split
            · exact faulted k3
            next s4 h4 =>
              have k4 : KeepsS s s4 := by
                split at h4
                · cases h4; exact k3
                · exact (putBytes_keeps k3).elim h4
              exact .next (beginHead_keeps (State.setRun_keeps k4))
    · exact .idle

theorem execAttend_keeps {detect : Bool} : KeepsR s (execAttend u detect s) := by
  refine issue_keeps (.refl s) fun c r w => KeepsE.tryX (.refl s) fun p _ => KeepsE.check (.refl s) fun _ =>
    KeepsE.ite (KeepsE.jump (stopChecked_keeps (.refl s))) ?_
  have h : KeepsS s (beginHead (s.setRun u { r with attns := r.attns ++ [.attend (snapshot r w) none] }) u) :=
    beginHead_keeps (State.setRun_keeps (.refl s))
  exact goOn_keeps h

theorem execAttendPassEnd_keeps {mismatch : Bool} : KeepsR s (execAttendPassEnd u mismatch s) := by
  unfold execAttendPassEnd
  split
  · exact .idle
  next r _ =>
    refine KeepsR.ite .idle ?_
    split
    next sp walk rest c _ _ =>
      refine KeepsR.ite (.next (beginHead_keeps (.refl s))) (KeepsR.ite (.next (stopChecked_keeps (.refl s))) ?_)
      have faulted {t : State} {f : CFault} (h : KeepsS s t) : KeepsR s (.next (asyncFault t u r f sp.ix)) := .next (asyncFault_keeps h)
      split
      · exact faulted (.refl s)
      split
      · exact faulted (.refl s)
      dsimp only
      split
      · exact faulted (someWrites_keeps (.refl s))
      next s1 h1 =>
        have k1 : KeepsS s s1 := by
          split at h1
          next prepared => exact (prepareMass_keeps ((prepareAll_keeps (.refl s)).elim prepared)).elim h1
          · cases h1
        refine KeepsR.ite (.next k1) ?_
        split
        next h2 => exact faulted ((runBytes_keeps k1).elim h2)
        next h2 =>
          have k2 := (runBytes_keeps k1).elim h2
          split
          · exact faulted k2
          next h3 =>
            have k3 := (addMass_keeps k2).elim h3
            exact .next (beginHead_keeps (State.setRun_keeps (Keeps.ite (State.tick_keeps k3) k3)))
    · exact .idle

end

end Sys2Proof.Machine

/-!
PROOFS. What no command does: graphs, key-value pages, memory, recovery and maintenance.
-/

namespace Sys2Proof.Machine

section
variable {s : State}

/-! ### Registers and packets (R100 to R105) -/

theorem execSqDoorbell_keeps {cn q : Nat} {tail : Bits32} : KeepsR s (execSqDoorbell cn q tail s) := by
  unfold execSqDoorbell
  split
  all_goals exact .next (.refl s)

theorem execSqCfgWrite_keeps {cn q : Nat} {v : Word64} : KeepsR s (execSqCfgWrite cn q v s) := by
  unfold execSqCfgWrite
  split
  all_goals exact .next (.refl s)

theorem execRegisterWrite_keeps {cn o : Nat} {v : Word64} : KeepsR s (execRegisterWrite cn o v s) := by
  unfold execRegisterWrite
  split
  all_goals exact .next (.refl s)

theorem execCqHeadWrite_keeps {cn : Nat} {head : Bits32} : KeepsR s (execCqHeadWrite cn head s) := by
  unfold execCqHeadWrite
  split
  · exact .idle
  · exact .next (releaseRecs_keeps (State.setCtx_keeps (.refl s)))

theorem execCqCfgWrite_keeps {cn : Nat} {v : Word64} : KeepsR s (execCqCfgWrite cn v s) := by
  unfold execCqCfgWrite
  split
  · exact .idle
  · exact .next (releaseRecs_keeps (State.setCtx_keeps (.refl s)))

theorem execSubmit_keeps {cn q : Nat} : KeepsR s (execSubmit cn q s) :=
  packetEvent_keeps (.refl s) fun _ _ _ h => Keeps.ite (refusePacket_keeps h) (State.setCtx_keeps h)

theorem execTload_keeps {cn q : Nat} : KeepsR s (execTload cn q s) :=
  packetEvent_keeps (.refl s) fun _ _ _ h => Keeps.ite (refusePacket_keeps h) (Keeps.ite (refusePacket_keeps h)
    (Keeps.ite (postOpen_keeps (State.setCtx_keeps h)) (State.setCtx_keeps h)))

theorem execTfree_keeps {cn q : Nat} : KeepsR s (execTfree cn q s) := by
  refine packetEvent_keeps (.refl s) fun _ _ _ h => ?_
  split
  · exact refusePacket_keeps h
  · exact State.setCtx_keeps h

theorem execTemplateRelease_keeps {cn tid : Nat} : KeepsR s (execTemplateRelease cn tid s) := by
  unfold execTemplateRelease
  repeat' split
  any_goals with_reducible exact .idle
  · exact .next (postOpen_keeps (State.setCtx_keeps (.refl s)))
  · exact .next (State.setCtx_keeps (.refl s))

theorem execLaunch_keeps {cn q : Nat} : KeepsR s (execLaunch cn q s) := by
  refine packetEvent_keeps (.refl s) fun _ _ _ h => ?_
  split
  · exact refusePacket_keeps h
  · exact State.setCtx_keeps h

theorem execAccord_keeps {cn q : Nat} : KeepsR s (execAccord cn q s) :=
  packetEvent_keeps (.refl s) fun _ _ _ h => Keeps.ite (postOpen_keeps h) (Keeps.ite (postOpen_keeps h) (Keeps.ite (postOpen_keeps h)
    (Keeps.ite (accordStream_keeps h) (accordContext_keeps h))))

/-! ### Epochs and tasks (R108 to R119) -/

theorem execIterationAdmit_keeps {cn : Nat} : KeepsR s (execIterationAdmit cn s) := by
  unfold execIterationAdmit
  split
  · exact .idle
  · split
    · refine KeepsR.ite .idle ?_
      split
      · exact .next (packetFault_keeps (.refl s))
      · split
        · exact .next (packetFault_keeps (.refl s))
        next written => exact .next (State.modCtx_keeps ((taskWrite_keeps (.refl s)).elim written))
    · exact .idle

theorem execTaskAdmit_keeps {cn : Nat} : KeepsR s (execTaskAdmit cn s) := by
  unfold execTaskAdmit
  split
  · exact .idle
  · split
    · exact .idle
    · refine KeepsR.ite .idle ?_
      split
      · refine KeepsR.ite (.next (taskFault_keeps (.refl s))) ?_
        split
        · exact .idle
        · exact .next (State.setCtx_keeps (.refl s))
      all_goals exact .next (packetFault_keeps (.refl s))

theorem execTaskDispatch_keeps {die : Nat} {kind : UnitKind} : KeepsR s (execTaskDispatch die kind s) := by
  unfold execTaskDispatch
  split
  · split
    next one => exact .next ((dispatchOne_keeps (.refl s)).elim one)
    · exact .next (Keeps.getD (dispatchOne_keeps (.refl s)) (.refl s))
  · exact .next (Keeps.getD (dispatchOne_keeps (.refl s)) (.refl s))

theorem execDispatchNeighbour_keeps {cn task : Nat} : KeepsR s (execDispatchNeighbour cn task s) := by
  unfold execDispatchNeighbour
  repeat' (first | split | dsimp only)
  any_goals with_reducible exact .idle
  exact .next (startTask_keeps (.refl s))

theorem execTaskComplete_keeps {u : UnitId} {acked : Bool} : KeepsR s (execTaskComplete u acked s) := by
  unfold execTaskComplete
  repeat' split
  any_goals with_reducible exact .idle
  exact .next (completeTask_keeps (.refl s))

theorem execModuleBoundary_keeps : KeepsR s (execModuleBoundary s) := by
  have applied (t : State) (l : List ItemBits) (h : KeepsS s t) : KeepsS s (l.foldl applyModule t) := Keeps.foldl (fun _ _ h => applyModule_keeps h) l h
  unfold execModuleBoundary
  split
  · exact .idle
  · refine KeepsR.ite .idle ?_
    split
    · exact .next (endModule_keeps (Keeps.ite (applied _ _ (.refl s)) (.refl s)))
    · exact KeepsR.ite (.next (endModule_keeps (putTenant_keeps (applied _ _ (.refl s))))) (.next (endModule_keeps (.refl s)))

/-! ### Key-value pages (R238 to R247) -/

theorem execLeafFree_keeps {cn sn : Nat} : KeepsR s (execLeafFree cn sn s) := by
  unfold execLeafFree
  split
  · exact .idle
  · exact .next (Keeps.foldl (fun _ _ h => returnSlot_keeps h) _ (State.modSeq_keeps (.refl s)))

theorem execPageSetSwapped_keeps {cn sn pg : Nat} : KeepsR s (execPageSetSwapped cn sn pg s) := by
  unfold execPageSetSwapped
  repeat' split
  any_goals with_reducible exact .idle
  exact .next (kvContinue_keeps (State.modSeq_keeps (fwAdd_keeps (leafEdit_keeps (.refl s)))))

theorem execPageSetResident_keeps {cn sn pg : Nat} {ok : Bool} : KeepsR s (execPageSetResident cn sn pg ok s) := by
  unfold execPageSetResident
  repeat' split
  any_goals with_reducible exact .idle
  exact .next (kvContinue_keeps (fwAdd_keeps (leafEdit_keeps (fwWrite_keeps (.refl s)))))

/-! ### Tiers (R269 to R297) -/

theorem execNearReadRetry_keeps {die chan line : Nat} {r : NearRetry} : KeepsR s (execNearReadRetry die chan line r s) := by
  have declared {l : List Nat} : KeepsS s (checkChannel (l.foldl (fun s y => if y < 72 then declareDead s die chan y else s) s) die chan) :=
    checkChannel_keeps (Keeps.foldl (fun _ _ h => Keeps.ite (declareDead_keeps h) h) l (.refl s))
  unfold execNearReadRetry
  refine KeepsR.ite .idle (KeepsR.ite (.next ?_) (KeepsR.ite (.next (corrected_keeps (.refl s)))
    (KeepsR.ite (.next (corrected_keeps declared))
      (.next (uncorrectedLine_keeps (fun _ _ h => dieReset_keeps h) (fun _ h => bothLost_keeps h) declared)))))
  split
  · exact .refl s
  · exact corrected_keeps (.refl s)

theorem execFarWordRetry_keeps {e : WordEvent} : KeepsR s (execFarWordRetry e s) := by
  unfold execFarWordRetry
  split
  · exact .next (farWord_keeps (.refl s))
  · split
    · exact .idle
    · refine .next ?_
      split
      · exact .refl s
      · exact logPath_keeps (.refl s)
      · exact stepDataError_keeps (.refl s)
  · exact .next (logPath_keeps (.refl s))
  · exact .next (encryptionMismatch_keeps (.refl s))

theorem execSymbolDead_keeps {die chan sym : Nat} : KeepsR s (execSymbolDead die chan sym s) :=
  KeepsR.ite .idle (.next (checkChannel_keeps (declareDead_keeps (.refl s))))

theorem execEvacuationComplete_keeps {far : Bool} {die : Nat} : KeepsR s (execEvacuationComplete far die s) :=
  KeepsR.ite .idle (.next (startMoves_keeps (notice_keeps (logExclusion_keeps (logMemory_keeps (State.modTier_keeps (.refl s)))))))

theorem execPageRetire_keeps {far : Bool} {die pg : Nat} {balance : Option Nat} : KeepsR s (execPageRetire far die pg balance s) := by
  refine KeepsR.ite .idle ?_
  dsimp only
  split
  · exact .next (Keeps.ite (moveAway_keeps (.refl s)) (.refl s))
  · exact .next (moveAway_keeps (State.modTier_keeps (logMemory_keeps (.refl s))))

theorem execPageMoveComplete_keeps {far : Bool} {die pg : Nat} : KeepsR s (execPageMoveComplete far die pg s) := by
  unfold execPageMoveComplete
  repeat' (first | split | dsimp only)
  any_goals with_reducible exact .idle
  exact .next (moveShadow_keeps (releasePage_keeps (State.modCtx_keeps (Keeps.copy (.refl s)))))

theorem execPageScrubDone_keeps {far : Bool} {die pg : Nat} : KeepsR s (execPageScrubDone far die pg s) :=
  KeepsR.ite (.next (startMoves_keeps (Keeps.erase (State.modTier_keeps (.refl s))))) .idle

/-! ### Squalls, watches and resets (R323, R372 to R387) -/

theorem execQuiescence_keeps {die cn : Nat} : KeepsR s (execQuiescence die cn s) := by
  unfold execQuiescence
  repeat' (first | split | dsimp only)
  any_goals with_reducible exact .idle
  · exact .next (drainDetach_keeps (finishAbort_keeps (State.setCtx_keeps (dropUnits_keeps (.refl s)))))
  · exact .next (State.setCtx_keeps (dropUnits_keeps (.refl s)))

theorem execSquallAbortEpoch_keeps {src cn att cause : Nat} {epoch : Word64} : KeepsR s (execSquallAbortEpoch src cn att cause epoch s) := by
  unfold execSquallAbortEpoch
  split
  · exact .idle
  next taken =>
    have h := (takeSquall_keeps (.refl s)).elim taken
    repeat' split
    on_goal 3 => exact .next (abortEpoch_keeps h)
    all_goals exact .next h

theorem execSquallAbortDie_keeps {src cause : Nat} : KeepsR s (execSquallAbortDie src cause s) := by
  unfold execSquallAbortDie
  split
  · exact .idle
  next taken =>
    refine .next (Keeps.foldl (fun t p h => ?_) _ ((takeSquall_keeps (.refl s)).elim taken))
    split
    · exact Keeps.ite (abortEpoch_keeps h) h
    · exact h

theorem execSquallStopContext_keeps {src cn code : Nat} : KeepsR s (execSquallStopContext src cn code s) := by
  unfold execSquallStopContext
  split
  · exact .idle
  next taken => exact .next (abortEpoch_keeps ((takeSquall_keeps (.refl s)).elim taken))

theorem execSquallDrydown_keeps {src cn : Nat} : KeepsR s (execSquallDrydown src cn s) := by
  unfold execSquallDrydown
  split
  · exact .idle
  next taken => exact .next (stopTasks_keeps ((takeSquall_keeps (.refl s)).elim taken))

theorem execUnitWatchExpiry_keeps {u : UnitId} : KeepsR s (execUnitWatchExpiry u s) := by
  unfold execUnitWatchExpiry
  split
  · exact .idle
  split
  · exact .idle
  split
  · exact .idle
  refine KeepsR.ite .idle (KeepsR.ite (.next (taskFault_keeps (State.modRun_keeps ?_)))
    (.next (State.sendSquall_keeps (State.modCtx_keeps (State.modRun_keeps ?_)))))
  all_goals exact Keeps.ite (captureCluster_keeps (State.logRec_keeps (.refl s))) (State.logRec_keeps (.refl s))

theorem execUnitStopTimeout_keeps {u : UnitId} : KeepsR s (execUnitStopTimeout u s) := by
  unfold execUnitStopTimeout
  split
  · exact .idle
  · exact KeepsR.ite .idle (KeepsR.ite (.next (State.logRec_keeps (State.freeUnit_keeps (unitStrike_keeps (.refl s)))))
      (.next (dieReset_keeps (unitStrike_keeps (.refl s)))))

theorem execContextWatchExpiry_keeps {cn : Nat} : KeepsR s (execContextWatchExpiry cn s) := by
  unfold execContextWatchExpiry
  split
  · exact .idle
  · split
    · exact .idle
    · exact KeepsR.ite .idle (KeepsR.ite (.next (contextFault_keeps (State.logRec_keeps (.refl s))))
        (.next (State.sendSquall_keeps (State.setCtx_keeps (State.logRec_keeps (.refl s))))))

theorem execPllLossOfLock_keeps {die isl idx : Nat} {f : StateFault} : KeepsR s (execPllLossOfLock die isl idx f s) :=
  KeepsR.ite (.next (Keeps.ite (partReset_keeps (.refl s)) (.refl s)))
    (KeepsR.ite (.next (dieReset_keeps (unitStrike_keeps (.refl s)))) (KeepsR.ite (.next (dieReset_keeps (unitStrike_keeps (.refl s))))
      (KeepsR.ite (.next (dieReset_keeps (.refl s))) (KeepsR.ite (.next (moduleReset_keeps (.refl s)))
        (KeepsR.ite (.next (stopIsland_keeps (.refl s))) .idle)))))

theorem execResetComplete_keeps {d : ResetDomain} {failed : List UnitId} {ctrl : List Nat} : KeepsR s (execResetComplete d failed ctrl s) :=
  KeepsR.ite .idle (.next (kvHaltAll_keeps (excludePersistent_keeps (Keeps.foldl (fun _ _ h => excludeDie_keeps h) _
    (Keeps.foldl (fun _ _ h => excludeUnit_keeps h) _ (resumePaused_keeps (.refl s)))))))

theorem execIslandRestart_keeps {k : IslandKind} {die idx : Nat} {ok : Bool} : KeepsR s (execIslandRestart k die idx ok s) := by
  have lost {a b c d e f g i j l m n : Nat} : KeepsS s (islandLost (s.logRec a b c d e f g i j l) k m n) := islandLost_keeps (State.logRec_keeps (.refl s))
  exact KeepsR.ite .idle (KeepsR.ite (.next lost)
    (.next (Keeps.ite (islandPersistent_keeps (restartFailed_keeps lost)) (restartFailed_keeps lost))))

/-! ### Maintenance and the mesh (R324 to R326, R394 to R397) -/

theorem execMaintPeriodicRequest_keeps {act target : Nat} {err : Bool} : KeepsR s (execMaintPeriodicRequest act target err s) :=
  KeepsR.ite .idle (.next (KeepsP.fst (maintAsk_keeps (Keeps.ite (flushCorrected_keeps (.refl s)) (.refl s)))))

theorem execMaintActivityStart_keeps {act target : Nat} : KeepsR s (execMaintActivityStart act target s) := by
  unfold execMaintActivityStart
  split
  · exact .idle
  · exact KeepsR.ite .idle (.next (logMaint_keeps (maintBegin_keeps (Keeps.ite (pausePeriodic_keeps (.refl s)) (.refl s)))))

theorem execMaintActivityDone_keeps {act target : Nat} {found : List Nat} : KeepsR s (execMaintActivityDone act target found s) := by
  unfold execMaintActivityDone
  split
  · exact .idle
  next m _ =>
    have ended : KeepsS s (logMaint (resumePaused { s with maintRun := s.maintRun.erase m }) (maintDie act target) act 6) :=
      logMaint_keeps (resumePaused_keeps (.refl s))
    refine .next ?_
    split
    · exact viaFound_keeps ended
    · exact lanesFound_keeps ended
    · exact fwDone_keeps ended
    · exact ended

theorem execFlitReplay_keeps {edge seq : Nat} {dir ok : Bool} : KeepsR s (execFlitReplay edge dir seq ok s) := by
  unfold execFlitReplay
  split
  · exact .idle
  · exact KeepsR.ite .idle (.next (Keeps.ite (logPath_keeps (.refl s)) (.refl s)))

theorem execEdgeRetrain_keeps {edge : Nat} {a b : Bool} : KeepsR s (execEdgeRetrain edge a b s) := by
  unfold execEdgeRetrain
  split
  · exact .idle
  · exact KeepsR.ite .idle (.next (Keeps.ite (excludeEdge_keeps (.refl s)) (logPath_keeps (.refl s))))

end

end Sys2Proof.Machine

/-!
PROOFS. What no command does: hosts, video, management and power; then every row.
-/

namespace Sys2Proof.Machine

section
variable {s : State}

/-! ### Ports and hosts (R327 to R347) -/

theorem execLinkUp_keeps {port : Nat} : KeepsR s (execLinkUp port s) :=
  KeepsR.ite (.next (modPort_keeps (takeMode_keeps (.refl s)))) .idle

theorem execLldpTransmit_keeps {port : Nat} : KeepsR s (execLldpTransmit port s) :=
  .next (Keeps.ite (sendOwn_keeps (.refl s)) (.refl s))

theorem execPfcXon_keeps {port occupancy : Nat} : KeepsR s (execPfcXon port occupancy s) :=
  KeepsR.ite .idle (KeepsR.ite (.next (State.emit_keeps (modPort_keeps (.refl s)))) (.next (modPort_keeps (.refl s))))

theorem execBeacon_keeps {port : Nat} : KeepsR s (execBeacon port s) :=
  have first {n : Nat} {o : Out} : KeepsS s (sendOwn (modPort s port (fun p => { p with bseq := n })) port o) :=
    sendOwn_keeps (modPort_keeps (.refl s))
  KeepsR.ite .idle (.next (Keeps.ite (sendOwn_keeps first) first))

theorem execAckTimeout_keeps {slot qp : Nat} : KeepsR s (execAckTimeout slot qp s) := by
  unfold execAckTimeout
  split
  · exact .idle
  · exact KeepsR.ite (.next (hostLost_keeps (State.tick_keeps (.refl s))))
      (.next (State.toHost_keeps (modQp_keeps (State.tick_keeps (.refl s)))))

theorem execHoldPeriodEnd_keeps {slot : Nat} : KeepsR s (execHoldPeriodEnd slot s) := by
  unfold execHoldPeriodEnd
  repeat' split
  · exact .idle
  · exact .next (endHold_keeps (.refl s))
  · exact .next (detachDone_keeps (drydownAll_keeps (State.setHost_keeps (.refl s))))
  · exact .idle

theorem execKeepaliveSend_keeps {slot : Nat} : KeepsR s (execKeepaliveSend slot s) := by
  unfold execKeepaliveSend
  split
  · exact .next (Keeps.ite (sendMessage_keeps (.refl s)) (.refl s))
  · exact .idle

theorem execRekeyStart_keeps {slot : Nat} : KeepsR s (execRekeyStart slot s) := by
  unfold execRekeyStart
  split
  · exact .idle
  · exact KeepsR.ite .idle (.next (sendMessage_keeps (State.setHost_keeps (State.tick_keeps (.refl s)))))

theorem execOldKeyExpiry_keeps {slot : Nat} : KeepsR s (execOldKeyExpiry slot s) := by
  unfold execOldKeyExpiry
  split
  · exact .idle
  · exact .next (State.setHost_keeps (.refl s))

theorem execAttachReq_keeps {m : AttachReq} {f : FrameInfo} : KeepsR s (execAttachReq m f s) := by
  refine .next (portFrame_keeps (fun t h => Keeps.ite h ?_) (.refl s))
  split
  · exact sendSegs_keeps h
  split
  · exact Keeps.ite h (Keeps.ite (sendSegs_keeps h) (refuseAttach_keeps h))
  · exact Keeps.ite (refuseAttach_keeps h) (sendSegs_keeps (State.tick_keeps h))

theorem execAttachAuth_keeps {port : Nat} {m : MsgHead} {sigOk : Bool} {hconf : BitVec 512} {f : FrameInfo} :
    KeepsR s (execAttachAuth port m sigOk hconf f s) := by
  refine .next (portFrame_keeps (fun t h => Keeps.ite h ?_) (.refl s))
  split
  · exact sendSegs_keeps h
  split
  · exact Keeps.ite h (Keeps.ite (refuseAttach_keeps h) (Keeps.ite (refuseAttach_keeps h) (attachStep5_keeps h)))
  · exact sendRefuse_keeps h

theorem execAttachSessionTimeout_keeps {sid : Nat} : KeepsR s (execAttachSessionTimeout sid s) := by
  unfold execAttachSessionTimeout
  dsimp only
  split
  · exact .next (Keeps.ite (freeHost_keeps (.refl s)) (hostLost_keeps (.refl s)))
  · exact .next (.refl s)

theorem execReservedAttachMessage_keeps {port type : Nat} {m : MsgHead} {f : FrameInfo} : KeepsR s (execReservedAttachMessage port m type f s) :=
  KeepsR.ite .idle (.next (portFrame_keeps (fun _ h => Keeps.ite (State.logMgmt_keeps (sendRefuse_keeps h)) h) (.refl s)))

theorem execDetach_keeps {slot mode : Nat} {m : MsgHead} {f : FrameInfo} : KeepsR s (execDetach slot m mode f s) :=
  .next (hostFrame_keeps (fun _ _ h => Keeps.ite (freeHost_keeps (takeMessage_keeps (fun _ _ h => detachHost_keeps h) h))
    (takeMessage_keeps (fun _ _ h => detachHost_keeps h) h)) (.refl s))

theorem execDetachRelease_keeps {slot : Nat} : KeepsR s (execDetachRelease slot s) := by
  unfold execDetachRelease
  split
  · exact .idle
  · exact .next (Keeps.ite (freeHost_keeps (.refl s)) (.refl s))

theorem execDrydownComplete_keeps {cn : Nat} : KeepsR s (execDrydownComplete cn s) := by
  unfold execDrydownComplete
  split
  · exact .idle
  next c _ =>
    refine KeepsR.ite .idle (.next (resumeAttach_keeps (finishDelete_keeps (startMoves_keeps (detachDone_keeps ?_)))))
    have released {t : State} (h : KeepsS s t) {slot : Nat} : KeepsS s (c.ctxDone.elim t (fun n => answer t slot n tyCtxDone [0])) := by
      cases c.ctxDone with
      | none => exact h
      | some n => exact answer_keeps h
    split
    · exact Keeps.ite (released (State.logRec_keeps (releaseCtx_keeps (.refl s)))) (State.logRec_keeps (releaseCtx_keeps (.refl s)))
    · exact State.logRec_keeps (releaseCtx_keeps (.refl s))

/-! ### Video (R350 to R361) -/

section
variable {u : UnitId}

theorem execVideoOpen_keeps : KeepsR s (execVideoOpen u s) := by
  refine frameEvent_keeps (.refl s) fun r c f => ?_
  split
  · exact frameDone_keeps (.refl s)
  · dsimp only
    split
    · exact unitFault_keeps (.refl s)
    next written => exact frameDone_keeps (openStream_keeps ((writeRegion_keeps (.refl s)).elim written))

theorem execVideoClose_keeps : KeepsR s (execVideoClose u s) := by
  refine frameEvent_keeps (.refl s) fun r c f => ?_
  split
  · exact unitFault_keeps (.refl s)
  · exact frameDone_keeps (closeStream_keeps (.refl s))

theorem execEncode_keeps : KeepsR s (execEncode u s) := by
  refine frameEvent_keeps (.refl s) fun r c f => Keeps.ite (.refl s) ?_
  split
  · split
    · exact unitFault_keeps (.refl s)
    · exact encodePicture_keeps (.refl s)
  all_goals exact unitFault_keeps (.refl s)

theorem execDecode_keeps {data : Bytes} : KeepsR s (execDecode u data s) := by
  refine frameEvent_keeps (.refl s) fun r c f => ?_
  split
  · dsimp only
    split
    · exact unitFault_keeps (.refl s)
    next region =>
      have written := (writeRegion_keeps (.refl s)).elim region
      split
      next stored => exact unitFault_keeps ((runWrites_keeps written).elim stored)
      next stored => exact frameDone_keeps (putStream_keeps ((runWrites_keeps written).elim stored))
  all_goals exact unitFault_keeps (.refl s)

end

/-! ### Colyr's commands (R398 to R407) -/

theorem execReadReg_keeps {tag offset : Nat} : KeepsR s (execReadReg tag offset s) := by
  refine colyrDo_keeps (.refl s) ?_
  split
  all_goals exact respond_keeps (.refl s)

theorem execWriteReg_keeps {tag offset : Nat} {v : Word64} : KeepsR s (execWriteReg tag offset v s) := by
  refine colyrDo_keeps (.refl s) ?_
  split
  · exact respond_keeps (writeColyr_keeps (.refl s))
  · exact respond_keeps (.refl s)

theorem execTenantDelete_keeps {tag index : Nat} {force : Bool} : KeepsR s (execTenantDelete tag index force s) := by
  refine colyrDo_keeps (.refl s) (Keeps.ite (respond_keeps (.refl s)) ?_)
  split
  · exact respond_keeps (deleteEntry_keeps (.refl s))
  · refine Keeps.ite (respond_keeps (.refl s)) (finishDelete_keeps ?_)
    exact forceOut_keeps (.refl s)

theorem execFwData_keeps {tag offset : Nat} {data : Bytes} : KeepsR s (execFwData tag offset data s) := by
  refine colyrDo_keeps (.refl s) ?_
  have staged : Keeps s s.pending s.mem { s.fw with staged := Memory.setBytes s.fw.staged offset data } s.recSession :=
    Keeps.images (fun w => by
      obtain ⟨flash, running, image, session⟩ := imagesWf_iff.1 w
      exact imagesWf_iff.2 ⟨flash, running, Memory.wf_setBytes image offset data, session⟩) (.refl s)
  split
  · exact respond_keeps (.refl s)
  · exact Keeps.ite (respond_keeps (.refl s)) (Keeps.ite (respond_keeps (.refl s)) (Keeps.ite (respond_keeps (.refl s)) (respond_keeps staged)))

theorem execFwBegin_keeps {tag length : Nat} : KeepsR s (execFwBegin tag length s) := by
  have emptied : Keeps s s.pending s.mem { s.fw with updLen := some length, staged := [], updStep := 0, updStatus := 0 } s.recSession :=
    Keeps.images (fun w => by
      obtain ⟨flash, running, -, session⟩ := imagesWf_iff.1 w
      exact imagesWf_iff.2 ⟨flash, running, rfl, session⟩) (.refl s)
  exact colyrDo_keeps (.refl s) (Keeps.ite (respond_keeps (.refl s)) (Keeps.ite (respond_keeps (.refl s)) (respond_keeps emptied)))

theorem execFwCommit_keeps {tag : Nat} {sigOk : Bool} : KeepsR s (execFwCommit tag sigOk s) :=
  colyrDo_keeps (.refl s) (Keeps.ite (respond_keeps (.refl s)) (Keeps.ite (romCommit_keeps (.refl s))
    (respond_keeps (KeepsP.fst (maintAsk_keeps (.refl s))))))

theorem execFuseSvn_keeps {tag v : Nat} : KeepsR s (execFuseSvn tag v s) :=
  colyrDo_keeps (.refl s) (Keeps.ite (respond_keeps (.refl s)) (Keeps.ite (respond_keeps (.refl s)) (respond_keeps (State.logMgmt_keeps (.refl s)))))

theorem execMaintReq_keeps {tag act target : Nat} : KeepsR s (execMaintReq tag act target s) :=
  colyrDo_keeps (.refl s) (respond_keeps (KeepsP.fst (maintAsk_keeps (Keeps.ite (.refl s) (.refl s)))))

theorem execResetModule_keeps {tag : Nat} : KeepsR s (execResetModule tag s) :=
  have answered : KeepsS s (respond s 0x12 tag 0 []) := respond_keeps (.refl s)
  colyrDo_keeps (.refl s) (Keeps.ite answered (moduleReset_keeps answered))

theorem execDrydown_keeps {tag cn : Nat} : KeepsR s (execDrydown tag cn s) := by
  refine colyrDo_keeps (.refl s) ?_
  split
  · exact respond_keeps (.refl s)
  · exact respond_keeps (beginDrydown_keeps (.refl s))

theorem execDebugUnlock_keeps {tag : Nat} {serial : BitVec 128} {nonce : BitVec 256} {sigOk : Bool} :
    KeepsR s (execDebugUnlock tag serial nonce sigOk s) :=
  colyrDo_keeps (.refl s) (Keeps.ite (respond_keeps (.refl s)) (Keeps.ite (respond_keeps (.refl s)) (respond_keeps (State.logMgmt_keeps (.refl s)))))

/-! ### Recovery over a port (R403) -/

theorem execRecoveryData_keeps {port source off : Nat} {data : Bytes} {sigOk : Bool} : KeepsR s (execRecoveryData port source off data sigOk s) := by
  have emitted {o : Out} : KeepsR s (.next (s.emit o)) := .next (State.emit_keeps (.refl s))
  have found : ImagesInv s → Memory.wf (recFind s port source).image = true := by
    intro i
    unfold recFind
    split
    next r isOpen => exact (imagesWf_iff.1 i).2.2.2 r isOpen
    · rfl
  exact KeepsR.ite .idle (KeepsR.ite emitted (KeepsR.ite emitted (KeepsR.ite emitted (KeepsR.ite emitted
    (.next (recStep_keeps (.refl s) fun i => Memory.wf_setBytes (found i) off data))))))

theorem execRecoveryDone_keeps {port source length : Nat} : KeepsR s (execRecoveryDone port source length s) := by
  have emitted {o : Out} : KeepsR s (.next (s.emit o)) := .next (State.emit_keeps (.refl s))
  refine KeepsR.ite .idle ?_
  split
  · exact emitted
  next r isOpen => exact KeepsR.ite emitted (KeepsR.ite emitted (.next (recFinish_keeps (.refl s) fun i => (imagesWf_iff.1 i).2.2.2 r isOpen)))

theorem execRecoveryTimeout_keeps : KeepsR s (execRecoveryTimeout s) :=
  .next (Keeps.images (fun w => by
    obtain ⟨flash, running, staged, -⟩ := imagesWf_iff.1 w
    exact imagesWf_iff.2 ⟨flash, running, staged, fun _ e => by cases e⟩) (.refl s))

/-! ### Boot, power and clocks (R429 to R445) -/

theorem execPowerUp_keeps : KeepsR s (execPowerUp s) :=
  have begun : KeepsS s (afterReset { s with power := { s.power with thermtrip := false, railsUp := false, low := false } } (firstStage s)) :=
    afterReset_keeps (.refl s)
  KeepsR.ite .idle (.next (State.logRec_keeps begun.nil))

theorem execThermalTrip_keeps {die : Nat} : KeepsR s (execThermalTrip die s) :=
  have lost : KeepsS s (loseModule s .off false) := loseModule_keeps (.refl s)
  KeepsR.ite .idle (.next lost)

theorem execBootVerify_keeps {sigOk : Bool} : KeepsR s (execBootVerify sigOk s) := by
  have running : Keeps s s.pending s.mem
      { s.fw with runBlock := imgSig s.fw.flash, runSvn := imgSvn s.fw.flash, runVer := imgVer s.fw.flash } s.recSession :=
    Keeps.images (fun w => by
      obtain ⟨flash, -, staged, session⟩ := imagesWf_iff.1 w
      exact imagesWf_iff.2 ⟨flash, Memory.wf_filter flash fun a => decide (a < bodyAt), staged, session⟩) (.refl s)
  exact KeepsR.ite .idle (KeepsR.ite (.next (State.logMgmt_keeps (.refl s))) (.next (State.logMgmt_keeps running)))

theorem execNearTrainingDone_keeps {failing : List (Nat × Nat × Nat)} : KeepsR s (execNearTrainingDone failing s) :=
  bootStep_keeps (.refl s) fun _ h => Keeps.foldl (fun _ _ h => checkChannel_keeps (declareDead_keeps h)) _ h

theorem execFarTrainingDone_keeps {lanes : List (Nat × Nat)} : KeepsR s (execFarTrainingDone lanes s) :=
  bootStep_keeps (.refl s) fun _ h => Keeps.foldl (fun _ _ h => lanesFound_keeps h) _ h

theorem execBootComplete_keeps {failed : List UnitId} {ctrl : List Nat} : KeepsR s (execBootComplete failed ctrl s) :=
  bootStep_keeps (.refl s) fun _ h => Keeps.foldl (fun _ _ h => excludeDie_keeps h) _ (Keeps.foldl (fun _ _ h => excludeUnit_keeps h) _ h)

theorem execConverterFailure_keeps {n : Nat} : KeepsR s (execConverterFailure n s) :=
  KeepsR.ite .idle (.next (Keeps.ite (enterHold_keeps (logFree_keeps (.refl s))) (logFree_keeps (.refl s))))

theorem execRefclkLoss_keeps : KeepsR s (execRefclkLoss s) :=
  KeepsR.ite .idle (KeepsR.ite (.next (.refl s)) (.next (logFree_keeps (loseModule_keeps (.refl s)))))

theorem execRefclkReturn_keeps : KeepsR s (execRefclkReturn s) :=
  KeepsR.ite .idle (KeepsR.ite (.next (.refl s)) (.next (moduleReset_keeps (.refl s))))

theorem execResetPin_keeps : KeepsR s (execResetPin s) :=
  KeepsR.ite .idle (.next (Keeps.ite (.refl s) (moduleReset_keeps (.refl s))))

theorem execResetPinRelease_keeps : KeepsR s (execResetPinRelease s) :=
  KeepsR.ite .idle (.next (Keeps.ite (.refl s) (.refl s)))

theorem execSensorSample_keeps {x : Samples} : KeepsR s (execSensorSample x s) :=
  KeepsR.ite .idle (.next (capLoop_keeps (takeSensors_keeps (Keeps.ite (logFree_keeps (.refl s)) (.refl s)))))

theorem execThermalLevelExit_keeps {die : Nat} : KeepsR s (execThermalLevelExit die s) := by
  unfold execThermalLevelExit
  split
  · exact .idle
  · exact KeepsR.ite .idle (.next (.refl s))

theorem execDvfsStep_keeps {die : Nat} : KeepsR s (execDvfsStep die s) :=
  KeepsR.ite .idle (.next (logFree_keeps (.refl s)))

/-! ### Every row -/

theorem exec_keeps (i : Instr) (s : State) : KeepsR s (exec i s) := by
  unfold exec
  cases i
  case nop | signal | salu | sli | scmp | rdsr | wrsr | aset | aget => exact issue_keeps (.refl s) fun _ _ _ => KeepsE.go (.refl s)
  case halt | br => exact issue_keeps (.refl s) fun _ _ _ => KeepsE.jump (.refl s)
  case loop => exact issue_keeps (.refl s) fun _ _ _ => KeepsE.check (.refl s) fun _ => KeepsE.ite (KeepsE.go (.refl s)) (KeepsE.jump (.refl s))
  case wait => exact issue_keeps (.refl s) fun _ _ _ => KeepsE.ite (KeepsE.go (.refl s)) (KeepsE.jump (.refl s))
  case waitResume => exact execWaitResume_keeps
  case lds | tbase => exact issue_keeps (.refl s) fun _ _ _ => KeepsE.tryX (.refl s) fun _ _ => KeepsE.go (.refl s)
  case chload => exact issue_keeps (.refl s) fun _ _ _ => KeepsE.tryX (.refl s) fun _ _ => KeepsE.ite (KeepsE.go (.refl s)) (KeepsE.go (.refl s))
  case sts | tokset => exact issue_keeps (.refl s) fun _ _ _ => storeWord_keeps (.refl s)
  case wcfa => exact execWcfa_keeps
  case tokwait => 
    exact issue_keeps (.refl s) fun _ _ _ => KeepsE.tryX (.refl s) fun _ _ => KeepsE.ite (KeepsE.go (.refl s)) (KeepsE.jump (.refl s))
  case tokwaitResume => exact execTokwaitResume_keeps
  case bnd => exact issue_keeps (.refl s) fun _ _ _ => KeepsE.check (.refl s) fun _ => KeepsE.jump (State.modCtx_keeps (.refl s))
  case copy | fill | hostrd | hostwr | gather => exact issueMove_keeps
  case moveDone => exact execMoveDone_keeps
  case mm => exact execMm_keeps
  case conv => exact execConv_keeps
  case mmaDrain => exact execMmaDrain_keeps
  case prologueTokenResume => exact execPrologueTokenResume_keeps
  case vecAdd | vecSub | vecMul | vecFma | vecMin | vecMax | vecAbs | vecNeg => exact vecElementwise_keeps
  case rsum | rmax | rmin | vecStats | vecArgmax => exact vecReduce_keeps
  case maxpool | avgpool => exact vecPool_keeps
  case rand => exact execRand_keeps
  case lookup => exact execLookup_keeps
  case load => exact execLoad_keeps
  case cvt => exact execCvt_keeps
  case attend => exact execAttend_keeps
  case attendPassEnd => exact execAttendPassEnd_keeps
  case kvappend => exact execKvappend_keeps
  case kvappendDone => exact execKvappendDone_keeps
  case push => exact execPush_keeps
  case pushDelivery => exact execPushDelivery_keeps
  case shadowCopyDone => exact execShadowCopyDone_keeps
  case reservedInstruction => exact execReservedInstruction_keeps
  case programBoundsFetch => exact execProgramBoundsFetch_keeps
  case sqDoorbell => exact execSqDoorbell_keeps
  case cqHeadWrite => exact execCqHeadWrite_keeps
  case cqCfgWrite => exact execCqCfgWrite_keeps
  case sqCfgWrite => exact execSqCfgWrite_keeps
  case registerWrite => exact execRegisterWrite_keeps
  case submit => exact execSubmit_keeps
  case tload => exact execTload_keeps
  case tfree => exact execTfree_keeps
  case templateRelease => exact execTemplateRelease_keeps
  case launch => exact execLaunch_keeps
  case accord => exact execAccord_keeps
  case reservedPacket => exact packetEvent_keeps (.refl s) fun _ _ _ h => refusePacket_keeps h
  case iterationAdmit => exact execIterationAdmit_keeps
  case taskAdmit => exact execTaskAdmit_keeps
  case taskDispatch => exact execTaskDispatch_keeps
  case dispatchNeighbour => exact execDispatchNeighbour_keeps
  case taskComplete => exact execTaskComplete_keeps
  case boundaryCommit => exact .next (drainDetach_keeps (commitBoundary_keeps (.refl s)))
  case moduleBoundary => exact execModuleBoundary_keeps
  case leafFree => exact execLeafFree_keeps
  case kvSlotGrant => exact .next (grantSlot_keeps (.refl s))
  case pageSetSwapped => exact execPageSetSwapped_keeps
  case pageSetResident => exact execPageSetResident_keeps
  case nearReadRetry => exact execNearReadRetry_keeps
  case farWordRetry => exact execFarWordRetry_keeps
  case symbolDead => exact execSymbolDead_keeps
  case evacuationComplete => exact execEvacuationComplete_keeps
  case pageRetire => exact execPageRetire_keeps
  case pageMoveComplete => exact execPageMoveComplete_keeps
  case pageScrubDone => exact execPageScrubDone_keeps
  case maintPeriodicRequest => exact execMaintPeriodicRequest_keeps
  case maintActivityStart => exact execMaintActivityStart_keeps
  case maintActivityDone => exact execMaintActivityDone_keeps
  case flitReplay => exact execFlitReplay_keeps
  case edgeRetrain => exact execEdgeRetrain_keeps
  case squallAbortEpoch => exact execSquallAbortEpoch_keeps
  case squallAbortDie => exact execSquallAbortDie_keeps
  case squallStopContext => exact execSquallStopContext_keeps
  case squallDrydown => exact execSquallDrydown_keeps
  case quiescence => exact execQuiescence_keeps
  case pllLossOfLock => exact execPllLossOfLock_keeps
  case unitWatchExpiry => exact execUnitWatchExpiry_keeps
  case unitStopTimeout => exact execUnitStopTimeout_keeps
  case contextWatchExpiry => exact execContextWatchExpiry_keeps
  case islandRestart => exact execIslandRestart_keeps
  case resetComplete => exact execResetComplete_keeps
  case drydownComplete => exact execDrydownComplete_keeps
  case linkUp => exact execLinkUp_keeps
  case linkDown => exact .next (Keeps.ite (dropLink_keeps (.refl s)) (.refl s))
  case lldpTransmit => exact execLldpTransmit_keeps
  case lldpReceive => exact .next (portFrame_keeps (fun _ h => modPort_keeps h) (.refl s))
  case arpRequest | neighbourSolicitation => exact .next (portFrame_keeps (fun _ h => Keeps.ite (sendOwn_keeps h) h) (.refl s))
  case pfcFrame => exact .next (Keeps.ite (setPause_keeps (.refl s)) (.refl s))
  case pfcPauseExpiry => exact .next (setPause_keeps (.refl s))
  case pfcXon => exact execPfcXon_keeps
  case pfcRepeat => exact .next (Keeps.ite (State.emit_keeps (.refl s)) (.refl s))
  case rdmaWrite => exact .next (hostFrame_keeps (fun _ _ h => rdmaWrite_keeps h) (.refl s))
  case rdmaRead => exact .next (hostFrame_keeps (fun _ _ h => rdmaRead_keeps h) (.refl s))
  case send => exact .next (hostFrame_keeps (fun _ _ h => Keeps.ite (State.toHost_keeps h) h) (.refl s))
  case cnpReceive => exact .next (Keeps.ite (modQp_keeps (.refl s)) (.refl s))
  case rateIncrease => exact .next (modQp_keeps (.refl s))
  case ackTimeout => exact execAckTimeout_keeps
  case beacon => exact execBeacon_keeps
  case attachReq => exact execAttachReq_keeps
  case attachAuth => exact execAttachAuth_keeps
  case attachSessionTimeout => exact execAttachSessionTimeout_keeps
  case reservedAttachMessage => exact execReservedAttachMessage_keeps
  case rekey => exact .next (hostMessage_keeps (fun _ _ h => rekeyStep_keeps h) (.refl s))
  case rekeyStart => exact execRekeyStart_keeps
  case oldKeyExpiry => exact execOldKeyExpiry_keeps
  case unprotectedFrameWindowEnd => exact .next (.refl s)
  case register => exact .next (hostMessage_keeps (fun _ _ h => registerHost_keeps h) (.refl s))
  case ctxCreate => exact .next (hostMessage_keeps (fun _ _ h => createHost_keeps h) (.refl s))
  case ctxDestroy => exact .next (hostMessage_keeps (fun _ _ h => destroyHost_keeps h) (.refl s))
  case detach => exact execDetach_keeps
  case detachRelease => exact execDetachRelease_keeps
  case keepalive => exact .next (hostFrame_keeps (fun _ _ h => Keeps.ite (refuseHost_keeps h) h) (.refl s))
  case keepaliveSend => exact execKeepaliveSend_keeps
  case keepaliveTimeout => exact .next (hostLost_keeps (.refl s))
  case holdPeriodEnd => exact execHoldPeriodEnd_keeps
  case videoOpen => exact execVideoOpen_keeps
  case encode => exact execEncode_keeps
  case decode => exact execDecode_keeps
  case videoClose => exact execVideoClose_keeps
  case getInventory | sensorRead | attest | fwStatus => exact colyrDo_keeps (.refl s) (respond_keeps (.refl s))
  case readReg => exact execReadReg_keeps
  case writeReg => exact execWriteReg_keeps
  case logRead | tenantRead => exact colyrDo_keeps (.refl s) (Keeps.ite (respond_keeps (.refl s)) (respond_keeps (.refl s)))
  case tenantWrite => exact colyrDo_keeps (.refl s) (writeEntry_keeps (.refl s))
  case tenantDelete => exact execTenantDelete_keeps
  case colyrAccord => exact colyrDo_keeps (.refl s) (Keeps.ite (stageModule_keeps (.refl s)) (endModule_keeps (.refl s)))
  case fwBegin => exact execFwBegin_keeps
  case fwData => exact execFwData_keeps
  case fwCommit => exact execFwCommit_keeps
  case fuseSvn => exact execFuseSvn_keeps
  case maintReq => exact execMaintReq_keeps
  case sillageRead => 
    exact colyrDo_keeps (.refl s) (Keeps.ite (respond_keeps (.refl s)) (Keeps.ite (respond_keeps (.refl s)) (respond_keeps (.refl s))))
  case resetComputePart => exact colyrDo_keeps (.refl s) (respond_keeps (partReset_keeps (.refl s)))
  case resetModule => exact execResetModule_keeps
  case drydown => exact execDrydown_keeps
  case debugUnlock => exact execDebugUnlock_keeps
  case unknownCommand => exact KeepsR.ite .idle (colyrDo_keeps (.refl s) (respond_keeps (.refl s)))
  case setEndpointId => exact mctpDo_keeps (.refl s) (Keeps.ite (State.emit_keeps (.refl s)) (State.emit_keeps (.refl s)))
  case getEndpointId | getMctpVersionSupport | getMessageTypeSupport => exact mctpDo_keeps (.refl s) (State.emit_keeps (.refl s))
  case getVendorDefinedMessageSupport => 
    exact mctpDo_keeps (.refl s) (Keeps.ite (State.emit_keeps (State.tick_keeps (.refl s))) (State.emit_keeps (.refl s)))
  case recoveryData => exact execRecoveryData_keeps
  case recoveryDone => exact execRecoveryDone_keeps
  case recoveryTimeout => exact execRecoveryTimeout_keeps
  case powerUp => exact execPowerUp_keeps
  case inputShutdown | inputOvervoltage => exact .next (loseModule_keeps (.refl s))
  case thermalTrip => exact execThermalTrip_keeps
  case bootVerify => exact execBootVerify_keeps
  case railsInRegulation => exact bootStep_keeps (.refl s) fun _ h => h
  case nearTrainingDone => exact execNearTrainingDone_keeps
  case farTrainingDone => exact execFarTrainingDone_keeps
  case bootComplete => exact execBootComplete_keeps
  case computeHold => exact .next (enterHold_keeps (.refl s))
  case computeHoldRelease => exact KeepsR.ite .idle (.next (.refl s))
  case converterFailure => exact execConverterFailure_keeps
  case fastLimiter => exact KeepsR.ite .idle (.next (logFree_keeps (.refl s)))
  case sensorSample => exact execSensorSample_keeps
  case thermalLevelExit => exact execThermalLevelExit_keeps
  case dvfsStep => exact execDvfsStep_keeps
  case dispatchRampStage => exact .next (Keeps.ite (.refl s) (.refl s))
  case refclkLoss => exact execRefclkLoss_keeps
  case refclkReturn => exact execRefclkReturn_keeps
  case sdsclkLoss => exact .next (Keeps.foldl (fun _ _ h => dropHostPort_keeps h) _ (setSds_keeps (.refl s)))
  case sdsclkReturn => exact .next (setSds_keeps (.refl s))
  case resetPin => exact execResetPin_keeps
  case resetPinRelease => exact execResetPinRelease_keeps
  case flashSel => exact .next (.refl s)
  case jtagInstruction => exact .next (State.emit_keeps (.refl s))

end

/-! ### The statements -/

/-- What one step keeps: the front command's, or nothing changes (log entry 1). -/
theorem step_keeps {s t : State} (h : step s = .next t) : (MemInv s → MemInv t) ∧ (ImagesInv s → ImagesInv t) := by
  unfold step at h
  split at h
  · cases h
    exact ⟨id, id⟩
  next i rest _ =>
    obtain ⟨-, mem, images⟩ := exec_keeps i { s with pending := rest } t h
    exact ⟨mem, images⟩

theorem imageReset_wf : Memory.wf imageReset = true := by decide

/-- Settles O58: memory is empty at reset, and the two images of the reset state are the one that `imageReset` lists. -/
theorem resetMemoryIsCanonical : Obligations.ResetMemoryIsCanonical :=
  ⟨rfl, imagesWf_iff.2 ⟨imageReset_wf, imageReset_wf, rfl, nofun⟩⟩

/-- Settles O59: each step is the front command's, and each command keeps both forms by `exec_keeps`. -/
theorem everyStepKeepsMemoryCanonical : Obligations.EveryStepKeepsMemoryCanonical :=
  ⟨fun _ _ canonical stepped => (step_keeps stepped).1 canonical, fun _ _ canonical stepped => (step_keeps stepped).2 canonical⟩

end Sys2Proof.Machine

/-!
PROOFS. Reads that fail and dead symbols (R269, R270, R275, R277, R279, R296, R297).
-/

namespace Sys2Proof.Machine

/-! ### Near bursts (R269) -/

@[simp] theorem nearRead_passes (ok : Bool) : Custody.nearRead.passes .symbol ok = ok := by
  cases ok
  all_goals rfl

/-- A channel with fewer than three erased positions has no evacuation. -/
theorem checkChannel_of_lt {s : State} {die chan : Nat} (few : (NMap.getD (tierOf s false die).dead chan []).length < 3) :
    checkChannel s die chan = s :=
  if_neg (Nat.not_le.2 few)

theorem checkChannel_of_le {s : State} {die chan : Nat} (many : 3 ≤ (NMap.getD (tierOf s false die).dead chan []).length) :
    checkChannel s die chan = evacuate s false die :=
  if_pos many

section
variable {s : State} {die chan line : Nat} {r : NearRetry} (hd : die < 24) (hc : chan < 128) (hl : line < nearPages * 256)
include hd hc hl

theorem nearPlace_ok : ¬ (24 ≤ die ∨ 128 ≤ chan ∨ nearPages * 256 ≤ line) := by omega

theorem exec_nearReadRetry_first (decodes : rsDecodes (NMap.getD (tierOf s false die).dead chan []) r.first = true) :
    exec (.nearReadRetry die chan line r) s = .next (match r.first with
      | [] => s
      | y :: _ => corrected s 0x01 false die chan y (linePhys false die chan line)) := by
  rw [show exec (.nearReadRetry die chan line r) s = execNearReadRetry die chan line r s from rfl, execNearReadRetry, if_neg (nearPlace_ok hd hc hl)]
  exact if_pos decodes

theorem exec_nearReadRetry_again (fails : rsDecodes (NMap.getD (tierOf s false die).dead chan []) r.first = false)
    (decodes : ∃ l ∈ r.again.take 3, rsDecodes (NMap.getD (tierOf s false die).dead chan []) l = true) :
    exec (.nearReadRetry die chan line r) s = .next (corrected s 0x02 false die chan 127 (linePhys false die chan line)) := by
  rw [show exec (.nearReadRetry die chan line r) s = execNearReadRetry die chan line r s from rfl, execNearReadRetry, if_neg (nearPlace_ok hd hc hl)]
  exact (if_neg (Bool.eq_false_iff.1 fails)).trans (if_pos (List.any_eq_true.2 decodes))

/-- No read decodes and the test finds no dead symbol: the last decode has the erased positions that were known. -/
theorem exec_nearReadRetry_tested (fails : rsDecodes (NMap.getD (tierOf s false die).dead chan []) r.first = false)
    (never : ∀ l ∈ r.again.take 3, rsDecodes (NMap.getD (tierOf s false die).dead chan []) l = false) (none_found : r.found = [])
    (few : (NMap.getD (tierOf s false die).dead chan []).length < 3) :
    exec (.nearReadRetry die chan line r) s = if rsDecodes (dedup (NMap.getD (tierOf s false die).dead chan [])) r.wrong then
        .next (corrected s 0x02 false die chan 127 (linePhys false die chan line))
      else .next (uncorrectedLine s false die chan (linePhys false die chan line) dieReset bothLost) := by
  have again : ¬ (r.again.take 3).any (rsDecodes (NMap.getD (tierOf s false die).dead chan [])) = true := by
    rw [Bool.not_eq_true, List.any_eq_false]
    exact fun l hl => Bool.eq_false_iff.1 (never l hl)
  rw [show exec (.nearReadRetry die chan line r) s = execNearReadRetry die chan line r s from rfl, execNearReadRetry, if_neg (nearPlace_ok hd hc hl)]
  refine ((if_neg (Bool.eq_false_iff.1 fails)).trans (if_neg again)).trans ?_
  rw [none_found, List.foldl_nil, checkChannel_of_lt few]
  dsimp only
  rw [List.append_nil, nearRead_passes]

end

/-! ### Far words (R275 to R277) -/

section
variable {s : State} {stack chan line : Nat} {first : List Nat} {again : List (List Nat)} (fitted : stackFitted s.order stack = true) (hc : chan < 32)
  (hl : line < farPages * 1024)
include fitted hc hl

/-- A word of the far tier with its four ends, by what the controller detects. -/
theorem exec_farWordRetry_far : exec (.farWordRetry (.far stack chan line first again)) s =
    .next (if wordCheck (NMap.getD (tierOf s true stack).dead chan [] ++ first) = .detected then
      (if ∃ l ∈ again.take 3, wordCheck (NMap.getD (tierOf s true stack).dead chan [] ++ l) ≠ .detected then
        corrected s 0x04 true stack chan 127 (linePhys true stack chan line)
      else uncorrectedLine s true stack chan (linePhys true stack chan line) dieReset bothLost)
    else match first with
      | [] => s
      | y :: _ => corrected s 0x04 true stack chan y (linePhys true stack chan line)) := by
  have place : ¬ (!(stackFitted s.order stack) || decide (32 ≤ chan) || decide (farPages * 1024 ≤ line)) = true := by
    simp [fitted, hc, hl]
  rw [show exec (.farWordRetry (.far stack chan line first again)) s = .next (farWord s stack chan line first again) from rfl, farWord, if_neg place]
  simp only [bne_iff_ne, ne_eq, List.any_eq_true, ite_not] <;> rfl

end

/-! ### Words of units and encryption engines (R277, R296) -/

theorem exec_farWordRetry_unit {s : State} {u : UnitId} {r : Run} {wrong : List Nat} (hr : s.run? u = some r) :
    exec (.farWordRetry (.unit u wrong)) s = .next (match wordCheck wrong with
      | .clean => s
      | .corrected => logPath s u.die (nth 127 wrong 0)
      | .detected => stepDataError s u r.ctx) := by
  rw [show exec (.farWordRetry (.unit u wrong)) s = execFarWordRetry (.unit u wrong) s from rfl, execFarWordRetry]
  rw [hr] <;> rfl

theorem exec_farWordRetry_encryption {s : State} {cn vp : Nat} {c : Ctx} {e : PageEnt} {ep : Epoch} (order : s.order = .full)
    (hc : s.ctx? cn = some c) (he : NMap.get? c.pages vp = some e) (encrypted : c.enc = true) (far : isFar e.phys = true) (opened : c.epoch = some ep) :
    exec (.farWordRetry (.encryption cn vp)) s = .next ((s.log (quadrant (pageDie e.phys)) 9 0
        (recMemory 0x0C (pageDie e.phys) 1 0 127 (e.phys / 64) 1 cn)).sendSquall
      { kind := 1, src := quadrant (pageDie e.phys), ctx := cn, att := ep.attempt % 16, cause := 1, epoch := c.epochNo }) := by
  have engine : ¬ (!c.enc || !(isFar e.phys) || s.order == .half) = true := by
    rw [encrypted, far, order]
    decide
  rw [show exec (.farWordRetry (.encryption cn vp)) s = .next (encryptionMismatch s cn vp) from rfl, encryptionMismatch, hc]
  dsimp only
  rw [he]
  dsimp only
  rw [if_neg engine, opened]

/-! ### The records of corrected events (R297) -/

section
variable (s : State) (kind : Nat) (far : Bool) (die chan sym phys : Nat)

theorem corrected_new (new : ∀ y ∈ s.corrected,
      y.same { kind := kind, far := far, die := die, chan := chan, sym := sym, phys := phys, count := 1 } = false) :
    (corrected s kind far die chan sym phys).corrected =
      s.corrected ++ [{ kind := kind, far := far, die := die, chan := chan, sym := sym, phys := phys, count := 1 }] :=
  if_neg (by rw [Bool.not_eq_true, List.any_eq_false]; exact fun y hy => Bool.eq_false_iff.1 (new y hy))

theorem corrected_again {y : Corrected} (only : s.corrected = [y])
    (same : y.same { kind := kind, far := far, die := die, chan := chan, sym := sym, phys := phys, count := 1 } = true) :
    (corrected s kind far die chan sym phys).corrected = [{ y with count := y.count + 1 }] := by
  simp [corrected, only, same]

theorem corrected_frame : { corrected s kind far die chan sym phys with corrected := s.corrected } = s := rfl

end

theorem foldl_logMemoryN_corrected (l : List Corrected) (s : State) :
    (l.foldl (fun s x => logMemoryN s x.kind x.far x.die x.chan x.sym x.phys x.count) s).corrected = s.corrected :=
  List.foldlRecOn l _ (motive := fun t : State => t.corrected = s.corrected) rfl fun (_ : State) h _ _ => h

/-- After the records of a tier's interval none of its events waits. -/
theorem mem_flushCorrected {s : State} {far : Bool} {die : Nat} {y : Corrected} (h : y ∈ (flushCorrected s far die).corrected) :
    y.far ≠ far ∨ y.die ≠ die := by
  rw [flushCorrected, foldl_logMemoryN_corrected] at h
  have other := (List.mem_filter.1 h).2
  rwa [Bool.not_eq_true', Bool.and_eq_false_iff, beq_eq_false_iff_ne, beq_eq_false_iff_ne] at other

/-! ### Dead symbols (R269, R270, R272) -/

theorem length_insertNat {x : Nat} : ∀ {l : List Nat}, x ∉ l → (insertNat x l).length = l.length + 1
  | [], _ => rfl
  | y :: r, absent => by
    obtain ⟨ne, rest⟩ := not_or.1 (mt List.mem_cons.2 absent)
    have distinct : ¬ (x == y) = true := fun e => ne (beq_iff_eq.1 e)
    rw [insertNat, if_neg distinct]
    split
    · rfl
    · rw [List.length_cons, List.length_cons, length_insertNat rest]

theorem tierOf_modTier {s : State} {far : Bool} {die : Nat} (f : Tier → Tier) (h : die < (if far then s.far else s.near).length) :
    tierOf (s.modTier far die f) far die = f (tierOf s far die) := by
  cases far
  all_goals exact nth_setNth_same _ _ _ _ h

@[simp] theorem tierOf_logMemory (s : State) (kind : Nat) (far far' : Bool) (die die' chan sym phys : Nat) :
    tierOf (logMemory s kind far die chan sym phys) far' die' = tierOf s far' die' := rfl

theorem NMap.getD_set_same {α : Type} (m : NMap α) (k : Nat) (v d : α) : NMap.getD (NMap.set m k v) k d = v := by
  rw [NMap.getD, NMap.get?_set_same]
  rfl

section
variable {s : State} {die chan sym : Nat}

theorem declareDead_of_known (known : sym ∈ NMap.getD (tierOf s false die).dead chan [] ∨ 6 ≤ (NMap.getD (tierOf s false die).dead chan []).length) :
    declareDead s die chan sym = s :=
  if_pos (by rwa [Bool.or_eq_true, List.contains_iff_mem, decide_eq_true_eq])

theorem declareDead_of_new (new : sym ∉ NMap.getD (tierOf s false die).dead chan []) (few : (NMap.getD (tierOf s false die).dead chan []).length < 6) :
    declareDead s die chan sym = logMemory (s.modTier false die (fun t => { t with
      dead := NMap.set t.dead chan (insertNat sym (NMap.getD (tierOf s false die).dead chan [])) })) 0x06 false die chan sym (physPage false die 0) :=
  if_neg (by rw [Bool.or_eq_true, List.contains_iff_mem, decide_eq_true_eq, not_or, not_le]; exact ⟨new, few⟩)

/-- What the declaration of a new dead symbol leaves of its tier. -/
theorem tierOf_declareDead (tiers : die < s.near.length) (new : sym ∉ NMap.getD (tierOf s false die).dead chan [])
    (few : (NMap.getD (tierOf s false die).dead chan []).length < 6) :
    tierOf (declareDead s die chan sym) false die = { tierOf s false die with
      dead := NMap.set (tierOf s false die).dead chan (insertNat sym (NMap.getD (tierOf s false die).dead chan [])) } := by
  rw [declareDead_of_new new few, tierOf_logMemory, tierOf_modTier _ tiers]

theorem dead_declareDead (tiers : die < s.near.length) (new : sym ∉ NMap.getD (tierOf s false die).dead chan [])
    (few : (NMap.getD (tierOf s false die).dead chan []).length < 6) :
    NMap.getD (tierOf (declareDead s die chan sym) false die).dead chan [] = insertNat sym (NMap.getD (tierOf s false die).dead chan []) := by
  rw [tierOf_declareDead tiers new few, NMap.getD_set_same]

theorem exec_symbolDead (hd : die < 24) (hc : chan < 128) (hs : sym < 72) :
    exec (.symbolDead die chan sym) s = .next (checkChannel (declareDead s die chan sym) die chan) :=
  if_neg (by omega)

end

/-! ### The statement -/

/-- Settles O31: each read by the equation of its form, the events of one line by `corrected_new` and `corrected_again`, a symbol by what
`declareDead` leaves of its channel. -/
theorem failedReadsAndDeadSymbols : Obligations.FailedReadsAndDeadSymbols := by
  unfold Obligations.FailedReadsAndDeadSymbols
  refine ⟨fun s die chan line r hd hc hl => ?_, fun s stack chan line first again fitted hc hl => ?_, fun s u r wrong hr => ?_, fun _ _ _ => rfl,
    fun s cn vp c e ep => exec_farWordRetry_encryption,
    fun s kind far die chan sym phys => ⟨corrected_new s kind far die chan sym phys, fun y => corrected_again s kind far die chan sym phys, corrected_frame s kind far die chan sym phys, fun y => mem_flushCorrected⟩,
    fun s die chan sym hd tiers hc hs => ?_⟩
  · refine ⟨fun clean decodes => ?_, fun y l wrong decodes => ?_, exec_nearReadRetry_again hd hc hl, fun fails never found few => ⟨fun ok => ?_, fun lost => ?_⟩⟩
    · rw [exec_nearReadRetry_first hd hc hl decodes, clean]
    · rw [exec_nearReadRetry_first hd hc hl decodes, wrong]
    · rw [exec_nearReadRetry_tested hd hc hl fails never found few, if_pos ok]
    · rw [exec_nearReadRetry_tested hd hc hl fails never found few, if_neg (Bool.eq_false_iff.1 lost)]
  · dsimp only
    rw [exec_farWordRetry_far fitted hc hl]
    refine ⟨fun clean ok => ?_, fun y l wrong ok => ?_, fun lost again => ?_, fun lost never => ?_⟩
    · rw [if_neg ok, clean]
    · rw [if_neg ok, wrong]
    · rw [if_pos lost, if_pos again]
    · rw [if_pos lost, if_neg fun ⟨l, hl, ok⟩ => ok (never l hl)]
  · rw [exec_farWordRetry_unit hr]
    refine ⟨fun h => ?_, fun h => ?_, fun h => ?_⟩
    all_goals rw [h]
  · have tiers : die < s.near.length := by omega
    dsimp only
    rw [exec_symbolDead hd hc hs]
    refine ⟨fun new two => ?_, fun full => ?_, fun known => ?_, fun new few => ?_⟩
    · rw [checkChannel_of_le]
      rw [dead_declareDead tiers new (by omega), length_insertNat new, two]
    · rw [declareDead_of_known (.inr full), checkChannel_of_le (by omega)]
    · rw [declareDead_of_known (.inl known)]
    · have dead := dead_declareDead tiers new (by omega)
      rw [checkChannel_of_lt (by rw [dead, length_insertNat new]; omega)]
      refine ⟨_, rfl, ?_, dead, ?_⟩
      · rw [declareDead_of_new new (by omega)]
        rfl
      · rw [tierOf_declareDead tiers new (by omega)]

end Sys2Proof.Machine

/-!
PROOFS. Pages that retire, move and are scrubbed (R271, R272, R276, R285, R286, R289, R389).
-/

namespace Sys2Proof.Machine

/-! ### What moves away (R271, R285) -/

section
variable {s : State} {far : Bool} {phys cn vp : Nat} {dies : List Nat}

theorem anyOwner_eq_none (h : anyOwner s phys = none) : pageOwner s phys = none ∧ shadowOwner s phys = none := by
  unfold anyOwner at h
  split at h
  · cases h
  next free => exact ⟨free, h⟩

theorem moveAway_free (free : anyOwner s phys = none) (unbacked : backingOwner s phys = none) : moveAway s far phys dies = s := by
  obtain ⟨page, shadow⟩ := anyOwner_eq_none free
  rw [moveAway, page, shadow, unbacked]

theorem moveAway_backing (free : anyOwner s phys = none) (backs : backingOwner s phys = some cn) :
    moveAway s far phys dies = moveBackingPage s cn phys := by
  obtain ⟨page, shadow⟩ := anyOwner_eq_none free
  rw [moveAway, page, shadow, backs]

theorem moveAway_shadow (page : pageOwner s phys = none) (shadow : shadowOwner s phys = some (cn, vp)) :
    moveAway s far phys dies = moveShadow s cn vp far dies := by
  rw [moveAway, page, shadow]

theorem moveAway_page (page : pageOwner s phys = some (cn, vp))
    (still : ((s.ctx? cn).bind (fun c => NMap.get? c.pages vp)).bind (fun e => e.moveTo) = none) :
    moveAway s far phys dies = (beginMove s cn vp [(far, dies)]).getD s := by
  rw [moveAway, page]
  dsimp only
  rw [still]
  rfl

end

/-! ### Retirement (R271, R285) -/

section
variable {s : State} {far : Bool} {die pg : Nat} (page : pg < (if far then farPages else nearPages)) (hd : die < 24) (near : far = false → 8 ≤ pg)
  (fitted : far = true → stackFitted s.order die = true) (good : pg ∉ (tierOf s far die).bad)
include page hd near fitted good

/-- The page is one that can be retired: of the tier, none of firmware's, and not bad already. -/
theorem retirable : ¬ ((if far then farPages else nearPages) ≤ pg ∨ 24 ≤ die ∨ (far = true ∧ stackFitted s.order die = false) ∨
    (far = false ∧ pg < 8) ∨ (tierOf s far die).bad.contains pg) := by
  rintro (h | h | ⟨h, absent⟩ | ⟨h, own⟩ | h)
  · exact Nat.not_le.2 page h
  · omega
  · rw [fitted h] at absent
    cases absent
  · exact Nat.not_le.2 own (near h)
  · exact good (List.contains_iff_mem.1 h)

theorem exec_pageRetire_bad : exec (.pageRetire far die pg none) s = .next (moveAway
    ((logMemory s 0x08 far die 0 127 (physPage far die pg)).modTier far die (fun t => { t with bad := insertNat pg t.bad })) far
    (physPage far die pg) (dieOrder die)) :=
  if_neg (retirable page hd near fitted good)

theorem exec_pageRetire_balance {d : Nat} (owned : (pageOwner s (physPage far die pg)).isSome = true) (hto : d < 24) :
    exec (.pageRetire far die pg (some d)) s = .next (moveAway s far (physPage far die pg) [d]) :=
  (if_neg (retirable page hd near fitted good)).trans (congrArg _ (if_pos (by rw [owned, decide_eq_true hto]; rfl)))

end

/-! ### The end of a move (R285) -/

/-- The release of a page leaves the contexts and what it holds: the scrub comes later. -/
theorem releasePage_frame (s : State) (phys : Nat) :
    (releasePage s phys).mem = s.mem ∧ (releasePage s phys).ctxs = s.ctxs := by
  unfold releasePage
  split
  · exact ⟨rfl, rfl⟩
  · dsimp only
    split
    all_goals exact ⟨rfl, rfl⟩

theorem moveShadow_of_none {s : State} {cn vp : Nat} {c : Ctx} {far : Bool} {dies : List Nat} (hc : s.ctx? cn = some c)
    (bare : NMap.get? c.shadows vp = none) : moveShadow s cn vp far dies = s := by
  rw [moveShadow, hc, Option.bind_some, bare]

/-- The state in which a page has its copy, its entry is swung and the old page waits for its scrub. -/
def movedPage (s : State) (cn vp phys q : Nat) (e : PageEnt) : State :=
  releasePage (({ s with mem := Memory.copy s.mem phys q pageSize } : State).modCtx cn
    (fun c => { c with pages := NMap.set c.pages vp { e with phys := q, moveTo := none } })) phys

section
variable {s : State} {cn vp q : Nat} {c : Ctx} {e : PageEnt} (hc : s.ctx? cn = some c)
include hc

theorem ctx?_movedPage (phys : Nat) : (movedPage s cn vp phys q e).ctx? cn =
    some { c with pages := NMap.set c.pages vp { e with phys := q, moveTo := none } } := by
  rw [movedPage, State.ctx?, (releasePage_frame _ _).2]
  exact State.ctx?_modCtx (s := { s with mem := Memory.copy s.mem phys q pageSize }) hc

theorem exec_pageMoveComplete {far : Bool} {die pg : Nat} (owner : pageOwner s (physPage far die pg) = some (cn, vp))
    (he : NMap.get? c.pages vp = some e) (moving : e.moveTo = some q) : exec (.pageMoveComplete far die pg) s =
      .next (moveShadow (movedPage s cn vp (physPage far die pg) q e) cn vp (isFar q) (dieOrder (pageDie q))) := by
  rw [show exec (.pageMoveComplete far die pg) s = execPageMoveComplete far die pg s from rfl, execPageMoveComplete]
  dsimp only
  rw [owner]
  dsimp only
  rw [hc, Option.bind_some, he]
  dsimp only
  rw [moving]
  rfl

end

theorem movedPage_mem (s : State) (cn vp phys q : Nat) (e : PageEnt) :
    (movedPage s cn vp phys q e).mem = Memory.copy s.mem phys q pageSize :=
  (releasePage_frame _ _).1

/-! ### The scrub (R286) -/

/-- A die that a tier has no entry for waits for no scrub. -/
theorem lt_of_scrubbing {s : State} {far : Bool} {die pg : Nat} (h : (tierOf s far die).scrubbing.contains pg = true) :
    die < (if far then s.far else s.near).length := by
  by_contra beyond
  rw [tierOf, nth_eq_getD, List.getD_eq_default _ _ (Nat.not_lt.1 beyond)] at h
  cases h

/-- The state in which the scrubbed page is zero and free. -/
def scrubbedPage (s : State) (far : Bool) (die pg : Nat) : State :=
  { s.modTier far die (fun t => { t with scrubbing := t.scrubbing.filter (· != pg) }) with
    mem := Memory.erase s.mem (physPage far die pg) pageSize }

section
variable {s : State} {far : Bool} {die pg : Nat} (waits : (tierOf s far die).scrubbing.contains pg = true)
include waits

theorem exec_pageScrubDone : exec (.pageScrubDone far die pg) s = .next (startMoves (scrubbedPage s far die pg)) := by
  refine (if_pos waits).trans ?_
  cases far
  all_goals rfl

theorem tierOf_scrubbedPage : (tierOf (scrubbedPage s far die pg) far die).scrubbing = (tierOf s far die).scrubbing.filter (· != pg) :=
  congrArg Tier.scrubbing (tierOf_modTier (fun t => { t with scrubbing := t.scrubbing.filter (· != pg) }) (lt_of_scrubbing waits))

end

/-! ### The statement -/

/-- Settles O32: a retired page by what `moveAway` finds at it, a finished move by the law of a copied range, a scrub by the law of an erased one. -/
theorem pagesRetireMoveAndAreScrubbed : Obligations.PagesRetireMoveAndAreScrubbed := by
  unfold Obligations.PagesRetireMoveAndAreScrubbed
  refine ⟨fun s far die pg page hd near fitted good => ?_, fun s far die pg cn vp c e q inv owner hc he moving => ?_,
    fun s far die pg waits inv => ?_, fun s far die leaving empty => ?_⟩
  · have retired := exec_pageRetire_bad page hd near fitted good
    refine ⟨fun free unbacked => ?_, fun cn free backs => ?_, fun cn vp free shadow => ?_, fun cn vp owner still => ?_, fun cn vp d owner hto still => ?_⟩
    · rw [retired, moveAway_free free unbacked]
    · rw [retired, moveAway_backing free backs]
    · rw [retired, moveAway_shadow free shadow]
    · rw [retired, moveAway_page owner still]
    · rw [exec_pageRetire_balance page hd near fitted good (by rw [owner]; rfl) hto, moveAway_page owner still]
  · have ended := exec_pageMoveComplete hc owner he moving
    have ctx := ctx?_movedPage (vp := vp) (q := q) (e := e) hc (physPage far die pg)
    refine ⟨_, _, ctx, NMap.get?_set_same .., rfl, fun k hk => ?_, fun a ha => ?_, fun bare => ?_, ended⟩
    · rw [movedPage_mem, Memory.get_copy inv, if_neg (by omega), Nat.add_sub_cancel_left, Nat.add_comm]
    · rw [movedPage_mem, Memory.get_copy inv, if_pos ha]
    · rw [ended, moveShadow_of_none ctx bare]
  · refine ⟨_, exec_pageScrubDone waits, ?_, fun a lo hi => ?_, fun a ha => ?_⟩
    · rw [tierOf_scrubbedPage waits]
      exact fun h => absurd (List.mem_filter.1 h).2 (by simp)
    · exact (Memory.get_erase inv ..).trans (if_neg (by omega))
    · exact (Memory.get_erase inv ..).trans (if_pos ha)
  · refine if_neg ?_
    rw [leaving, empty]
    decide

end Sys2Proof.Machine

/-!
PROOFS. The maintenance arbiter (R297, R394 to R397).
-/

namespace Sys2Proof.Machine

/-! ### Requests (R396) -/

section
variable {s : State} {act target : Nat} {urgent : Bool}

/-- An activity that goes before a request. -/
theorem conflicts_iff {l : List Maint} : (l.any fun r => r.clash act target && (r.urgent || !urgent)) = true ↔
    ∃ r ∈ l, r.clash act target = true ∧ (r.urgent = true ∨ urgent = false) := by
  simp only [List.any_eq_true, Bool.and_eq_true, Bool.or_eq_true, Bool.not_eq_true']

theorem no_conflict {l : List Maint} (clear : ∀ r ∈ l, r.clash act target = false) :
    ¬ (l.any fun r => r.clash act target && (r.urgent || !urgent)) = true := fun h => by
  obtain ⟨r, hr, clash, -⟩ := conflicts_iff.1 h
  rw [clear r hr] at clash
  cases clash

theorem maintBegin_plain {m : Maint} (h : m.act ≠ actFWU) : maintBegin s m = { s with maintRun := s.maintRun ++ [m] } := if_neg h

variable (known : maintKnown act target = true) (present : maintAbsent s act target = false)
include known present

/-- A request for a present target, by what conflicts with it. -/
theorem maintRequest_present : maintRequest s act target urgent =
    let m : Maint := { act := act, target := target, urgent := urgent, paused := false }
    if ((s.maintRun ++ s.maintQueue).any fun r => r.clash act target && (r.urgent || !urgent)) then
      (if 32 ≤ s.maintQueue.length then (s, 3) else ({ s with maintQueue := s.maintQueue ++ [m] }, 1))
    else if maintDeferred s act target then (if 32 ≤ s.maintQueue.length then (s, 3) else ({ s with maintQueue := s.maintQueue ++ [m] }, 4))
    else (maintBegin (if urgent then pausePeriodic s act target else s) m, 0) := by
  rw [List.any_append]
  exact (if_neg (by rw [known]; decide)).trans (if_neg (by rw [present]; decide))

theorem maintAsk_starts (due : maintDeferred s act target = false) (clear : ∀ r ∈ s.maintRun ++ s.maintQueue, r.clash act target = false) :
    (maintAsk s act target urgent).1 = logMaint (maintBegin (if urgent then pausePeriodic s act target else s)
      { act := act, target := target, urgent := urgent, paused := false }) (maintDie act target) act 0 := by
  rw [maintAsk, if_pos known, maintRequest_present known present]
  dsimp only
  rw [if_neg (no_conflict clear), if_neg (Bool.eq_false_iff.1 due)]

theorem maintAsk_queues {x : Maint} (hx : x ∈ s.maintRun ++ s.maintQueue) (clash : x.clash act target = true) (first : x.urgent = true ∨ urgent = false)
    (room : s.maintQueue.length < 32) : (maintAsk s act target urgent).1 = logMaint
      { s with maintQueue := s.maintQueue ++ [{ act := act, target := target, urgent := urgent, paused := false }] } (maintDie act target) act 1 := by
  rw [maintAsk, if_pos known, maintRequest_present known present]
  dsimp only
  rw [if_pos (conflicts_iff.2 ⟨x, hx, clash, first⟩), if_neg (Nat.not_le.2 room)]

theorem maintAsk_turned_away {x : Maint} (hx : x ∈ s.maintRun ++ s.maintQueue) (clash : x.clash act target = true)
    (first : x.urgent = true ∨ urgent = false) (full : 32 ≤ s.maintQueue.length) :
    (maintAsk s act target urgent).1 = logMaint s (maintDie act target) act 3 := by
  rw [maintAsk, if_pos known, maintRequest_present known present]
  dsimp only
  rw [if_pos (conflicts_iff.2 ⟨x, hx, clash, first⟩), if_pos full]

end

/-- A request of firmware's own: a periodic scrub writes first the records of its tier. -/
theorem exec_maintPeriodicRequest {s : State} {act target : Nat} {err : Bool} (plain : act ≠ actFWU) (known : maintKnown act target = true) :
    exec (.maintPeriodicRequest act target err) s = .next (maintAsk
      (if act < 2 ∧ err = false then flushCorrected s (act == 0) target else s) act target (err && (act == 2 || act == 3 || act == 4))).1 := by
  have row : ¬ (act = actFWU ∨ maintKnown act target = false) := fun h => h.elim plain (Bool.eq_false_iff.1 · known)
  refine (if_neg row).trans ?_
  simp only [Bool.and_eq_true, decide_eq_true_eq, Bool.not_eq_true', errorDriven]

/-! ### Start (R395) -/

/-- The first of the queue, for which nothing conflicting runs, starts. -/
theorem exec_maintActivityStart {s : State} {m : Maint} {rest : List Maint} (front : s.maintQueue = m :: rest)
    (due : maintDeferred s m.act m.target = false)
    (clear : ¬ (s.maintRun.any fun r => r.clash m.act m.target && (r.urgent || !m.urgent)) = true) :
    exec (.maintActivityStart m.act m.target) s = .next (logMaint (maintBegin
      (if m.urgent then pausePeriodic { s with maintQueue := rest } m.act m.target else { s with maintQueue := rest }) m)
      (maintDie m.act m.target) m.act 0) := by
  have found : splitQueue m.act m.target s.maintQueue = some ([], m, rest) := by
    rw [front, splitQueue]
    exact if_pos ⟨rfl, rfl⟩
  rw [show exec (.maintActivityStart m.act m.target) s = execMaintActivityStart m.act m.target s from rfl, execMaintActivityStart, found]
  exact if_neg (by rw [due, Bool.eq_false_iff.2 clear]; exact Bool.false_ne_true)

/-! ### The end (R396) -/

/-- The activity leaves, paused ones go on, and the end is in the log; then what it found is acted on. -/
theorem exec_maintActivityDone {s : State} {act target : Nat} {found : List Nat} {m : Maint}
    (runs : s.maintRun.find? (fun m => m.act == act && m.target == target && !m.paused) = some m) :
    let ended := logMaint (resumePaused { s with maintRun := s.maintRun.erase m }) (maintDie act target) act 6
    exec (.maintActivityDone act target found) s = .next (if act = 2 then viaFound ended target found
      else if act = 3 then lanesFound ended target found else if act = 6 then fwDone ended else ended) := by
  rw [show exec (.maintActivityDone act target found) s = execMaintActivityDone act target found s from rfl, execMaintActivityDone, runs]
  dsimp only
  split
  · rfl
  · rfl
  · rfl
  next via lanes update => rw [if_neg via, if_neg lanes, if_neg update]

/-! ### The statement -/

/-- Settles O33: a request by what conflicts with it, a start and an end by their equations. -/
theorem maintenanceStartsQueuesAndEnds : Obligations.MaintenanceStartsQueuesAndEnds := by
  unfold Obligations.MaintenanceStartsQueuesAndEnds
  refine ⟨fun s0 act target err plain known => ?_, fun s m rest front plain due clear periodic => ?_, fun s m rest front due urgent clear => ?_,
    fun s act target found m runs => ?_⟩
  · intro s urgent m present
    rw [exec_maintPeriodicRequest plain known]
    refine ⟨fun due clear => ?_, fun x hx clash first room => ?_, fun x hx clash first full => ?_⟩
    · have started := maintAsk_starts (urgent := urgent) known present due clear
      refine ⟨fun periodic => congrArg _ (started.trans ?_), congrArg _ started⟩
      rw [if_neg (Bool.eq_false_iff.1 periodic), maintBegin_plain plain]
    · exact congrArg _ (maintAsk_queues known present hx clash first room)
    · exact congrArg _ (maintAsk_turned_away known present hx clash first full)
  · rw [exec_maintActivityStart front due (no_conflict clear), if_neg (Bool.eq_false_iff.1 periodic), maintBegin_plain plain]
  · have later : ¬ (s.maintRun.any fun r => r.clash m.act m.target && (r.urgent || !m.urgent)) = true := fun h => by
      obtain ⟨r, hr, clash, first⟩ := conflicts_iff.1 h
      rw [clear r hr clash, urgent] at first
      cases first <;> contradiction
    rw [exec_maintActivityStart front due later, if_pos urgent]
  · intro ended
    rw [exec_maintActivityDone runs]
    refine ⟨fun via => ?_, fun lanes => ?_, fun update => ?_, fun other => ?_⟩
    · rw [if_pos via]
    · rw [if_neg (by omega), if_pos lanes]
    · rw [if_neg (by omega), if_neg (by omega), if_pos update]
    · have none_of : act ≠ 2 ∧ act ≠ 3 ∧ act ≠ 6 := by simpa using other
      rw [if_neg none_of.1, if_neg none_of.2.1, if_neg none_of.2.2]

end Sys2Proof.Machine

/-!
PROOFS. Hosts that are held, detach or are lost, and the end of a Drydown (R286, R342, R344 to R347, R391, R462).
-/

namespace Sys2Proof.Machine

/-! ### Messages of a host (R329, R334) -/

/-- A frame of a host moves its packet numbers on, and nothing else of it. -/
theorem frameHost_frame (h : HostRec) (f : FrameInfo) : frameHost h f =
    { h with rxNext := (frameHost h f).rxNext, rxOldNext := (frameHost h f).rxOldNext, plainOk := (frameHost h f).plainOk } := by
  unfold frameHost
  split
  · rfl
  next x _ =>
    cases h.verifies x with
    | none => rfl
    | some current => cases current <;> rfl

section
variable (h : HostRec) (m : MsgHead) (f : FrameInfo)

theorem messageHost_phase : (messageHost h m f).phase = h.phase := by rw [messageHost, frameHost_frame]
theorem messageHost_port : (messageHost h m f).port = h.port := by rw [messageHost, frameHost_frame]
theorem messageHost_sid : (messageHost h m f).sid = h.sid := by rw [messageHost, frameHost_frame]
theorem messageHost_outSeq : (messageHost h m f).outSeq = h.outSeq := by rw [messageHost, frameHost_frame]

end

theorem protect_ctxs (s : State) (slot : Nat) (h : HostRec) (f : FrameInfo) (exempt : Bool) : (protect s slot h f exempt).1.ctxs = s.ctxs := by
  unfold protect
  split
  · split
    all_goals rfl
  · split
    all_goals rfl

theorem frameState_ctxs (s : State) (slot : Nat) (h : HostRec) (f : FrameInfo) : (frameState s slot h f).ctxs = s.ctxs := by
  have arrived : (arrive s h.port f).1.ctxs = s.ctxs := by rw [arrive_frame]
  unfold frameState
  dsimp only
  split
  · rw [toHost_frame, protect_ctxs, arrived]
  · rw [protect_ctxs, arrived]

theorem messageState_ctxs (s : State) (slot : Nat) (h : HostRec) (m : MsgHead) (f : FrameInfo) : (messageState s slot h m f).ctxs = s.ctxs :=
  frameState_ctxs s slot h f

/-- What a taken message asks is done in the state in which the module is at work on it. -/
theorem takeMessage_taken {s : State} {slot len : Nat} {h : HostRec} {m : MsgHead} {f : FrameInfo} {held : Bool}
    (taken : MessageTaken s slot h m len f held) (k : State → HostRec → State) :
    takeMessage slot m len f k (frameState s slot h f) (frameHost h f) = k (messageState s slot h m f) (messageHost h m f) := by
  have replies : (frameHost h f).replies = h.replies := by rw [frameHost_frame]
  have sid : (frameHost h f).sid = h.sid := by rw [frameHost_frame]
  have good : ¬ (f.sec.isNone || m.sid != (frameHost h f).sid || !(msgWellFormed m len)) = true := by
    rw [sid, taken.session, taken.form, bne_self_eq_false, ← Option.not_isSome, taken.inside]
    decide
  have whole : ¬ (!(msgComplete m)) = true := by
    rw [taken.whole]
    decide
  rw [takeMessage, if_neg whole, replies, taken.fresh]
  dsimp only
  rw [if_neg good, messageState, messageHost]

/-! ### Detaches (R347) -/

theorem exec_detach {s : State} {slot mode : Nat} {h : HostRec} {m : MsgHead} {f : FrameInfo} (taken : MessageTaken s slot h m 1 f true)
    (attached : h.phase ≠ .detached) :
    exec (.detach slot m mode f) s = .next (detachHost slot m.mseq mode (messageState s slot h m f) (messageHost h m f)) := by
  have phase : (frameHost h f).phase = h.phase := by rw [frameHost_frame]
  rw [← takeMessage_taken taken (detachHost slot m.mseq mode)]
  refine congrArg Host.Outcome.next ((hostFrame_taken taken.toFrameTaken _).trans (if_neg fun again => attached ?_))
  rw [← phase]
  exact again.1

section
variable {s : State} {slot mode mseq : Nat} {h : HostRec}

/-- The phases in which a host may detach. -/
theorem detachHost_attached (on : h.phase = .attached ∨ h.phase = .registered ∨ h.phase = .hold) : detachHost slot mseq mode s h =
    if 1 < mode then refuseHost s slot mseq 0x0A else
      let t := s.setHost slot { h with phase := .detaching (mode == 1), detachSeq := some mseq }
      detachDone (if mode = 1 then drydownAll t slot
        else (ctxsOf t slot).foldl (fun s cn => drainDetach (if h.phase = .hold then leaveHold s cn else s) cn) t) slot := by
  unfold detachHost
  rcases on with phase | phase | phase
  all_goals rw [phase]

theorem ctxsOf_congr {s t : State} (same : t.ctxs = s.ctxs) (slot : Nat) : ctxsOf t slot = ctxsOf s slot := by
  rw [ctxsOf, same, ctxsOf]

/-- A host with no context that detaches is acknowledged at once. -/
theorem detachHost_bare (on : h.phase = .attached ∨ h.phase = .registered ∨ h.phase = .hold) (known : mode ≤ 1) (bare : ctxsOf s slot = []) :
    detachHost slot mseq mode s h =
      detachDone (s.setHost slot { h with phase := .detaching (mode == 1), detachSeq := some mseq }) slot := by
  rw [detachHost_attached on, if_neg (Nat.not_lt.2 known)]
  dsimp only
  rw [drydownAll, ctxsOf_congr (State.setHost_ctxs ..), bare, List.foldl_nil, List.foldl_nil, ite_self]

theorem answer_known {type : Nat} {body : Bytes} (hs : s.host? slot = some h) : answer s slot mseq type body =
    (sendSegs s h.port (some slot) (datagrams type h.sid h.outSeq body)).setHost slot
      { h with outSeq := h.outSeq + 1, replies := NMap.set h.replies mseq (some (datagrams type h.sid h.outSeq body)) } := by
  rw [answer, hs]

/-- The acknowledgement of a detaching host with no context left. -/
theorem detachDone_acknowledges {now : Bool} (hs : s.host? slot = some h) (bare : ctxsOf s slot = []) (phase : h.phase = .detaching now)
    (asked : h.detachSeq = some mseq) : detachDone s slot =
      logHost (answer (s.setHost slot { h with phase := .detached }) slot mseq tyDetachAck []) 0x44 slot 0 h := by
  rw [detachDone, hs]
  dsimp only
  rw [bare, phase]
  dsimp only
  rw [sendDetachAck, asked]
  rfl

/-- What that leaves: the slot is acknowledged, no context changes, and the message leaves by a port that is not paused. -/
theorem detachDone_bare {now : Bool} (hs : s.host? slot = some h) (bare : ctxsOf s slot = []) (phase : h.phase = .detaching now)
    (asked : h.detachSeq = some mseq) : ∃ hz, (detachDone s slot).host? slot = some hz ∧ hz.phase = .detached ∧ hz.detachSeq = some mseq ∧
      (detachDone s slot).ctxs = s.ctxs ∧ (portPaused s h.port 0 = false →
        (detachDone s slot).out = s.out ++ [.message h.port (datagrams tyDetachAck h.sid h.outSeq [])]) := by
  rw [detachDone_acknowledges hs bare phase asked, answer_known (State.host?_setHost ..)]
  refine ⟨_, State.host?_setHost .., rfl, asked, ?_, fun flows => ?_⟩
  · rw [sendSegs_frame]
    rfl
  · exact sendSegs_out (s := s.setHost slot { h with phase := .detached }) _ _ flows

end

theorem exec_detachRelease {s : State} {slot : Nat} {h : HostRec} (hs : s.host? slot = some h) (phase : h.phase = .detached) :
    exec (.detachRelease slot) s = .next (freeHost s slot) := by
  rw [show exec (.detachRelease slot) s = execDetachRelease slot s from rfl, execDetachRelease, hs]
  exact congrArg _ (if_pos phase)

/-! ### Lost hosts (R344 to R346) -/

/-- The end of a hold of a host with no context leaves the slot free and nothing else of the contexts. -/
theorem endHold_bare {s : State} {slot : Nat} (h : HostRec) (bare : ctxsOf s slot = []) :
    endHold s slot h = freeHost (logHost s 0x46 slot 0 h) slot := by
  rw [endHold, drydownAll, bare, List.foldl_nil, ctxsOf_congr (s := s) (t := logHost s 0x46 slot 0 h) rfl, bare]
  rfl

theorem exec_holdPeriodEnd {s : State} {slot : Nat} {h : HostRec} (hs : s.host? slot = some h) : exec (.holdPeriodEnd slot) s =
    .next (if h.phase = .hold then endHold s slot h
      else if h.phase = .detaching false then detachDone (drydownAll (s.setHost slot { h with phase := .detaching true }) slot) slot else s) := by
  rw [show exec (.holdPeriodEnd slot) s = execHoldPeriodEnd slot s from rfl, execHoldPeriodEnd, hs]
  dsimp only
  split
  next phase => rw [if_pos phase]
  next phase => rw [if_neg (by rw [phase]; decide), if_pos phase]
  next hold draining => rw [if_neg hold, if_neg draining]

/-! ### Released pages (R285, R286, R391) -/

theorem mem_insertNat {x y : Nat} : ∀ {l : List Nat}, y ∈ insertNat x l ↔ y = x ∨ y ∈ l
  | [] => List.mem_cons
  | z :: r => by
    unfold insertNat
    split
    · exact List.mem_cons
    · split
      next same => rw [beq_iff_eq.1 same, List.mem_cons, or_self_left]
      · rw [List.mem_cons, mem_insertNat, List.mem_cons, or_left_comm]

/-- A page of a tier waits for its scrub and is used by nothing. -/
def AwaitsScrub (s : State) (far : Bool) (d pg : Nat) : Prop := pg ∈ (tierOf s far d).scrubbing ∧ pg ∉ (tierOf s far d).used

theorem releasePage_of_page {s : State} {phys d p : Nat} {far : Bool} (h : pageOf phys = some (far, d, p)) : releasePage s phys =
    s.modTier far d (fun t => { t with used := t.used.filter (· != p), scrubbing := insertNat p t.scrubbing }) := by
  rw [releasePage, h]
  rfl

theorem tierOf_modTier_ne {s : State} {far far' : Bool} {d d' : Nat} (f : Tier → Tier) (other : far ≠ far' ∨ d ≠ d') :
    tierOf (s.modTier far d f) far' d' = tierOf s far' d' := by
  cases far <;> cases far'
  case false.true => rfl
  case true.false => rfl
  all_goals exact nth_setNth_ne _ _ _ _ _ (other.resolve_left fun ne => ne rfl)

theorem setNth_of_le {α : Type} (v : α) : ∀ {l : List α} {i : Nat}, l.length ≤ i → setNth l i v = l
  | [], _, _ => rfl
  | _ :: _, _ + 1, h => congrArg _ (setNth_of_le v (Nat.le_of_succ_le_succ h))

/-- Beyond the tiers there is nothing to change. -/
theorem modTier_of_le {s : State} {far : Bool} {d : Nat} (f : Tier → Tier) (h : (if far then s.far else s.near).length ≤ d) :
    s.modTier far d f = s := by
  cases far
  · exact congrArg (fun l => { s with near := l }) (setNth_of_le _ h)
  · exact congrArg (fun l => { s with far := l }) (setNth_of_le _ h)

theorem releasePage_awaits {s : State} {phys d pg : Nat} {far : Bool} (h : pageOf phys = some (far, d, pg))
    (tiers : d < (if far then s.far else s.near).length) : AwaitsScrub (releasePage s phys) far d pg := by
  rw [AwaitsScrub, releasePage_of_page h, tierOf_modTier _ tiers]
  exact ⟨mem_insertNat.2 (.inl rfl), fun used => absurd (List.mem_filter.1 used).2 (by simp)⟩

/-- Another release leaves a page where it waits. -/
theorem AwaitsScrub.releasePage {s : State} {far : Bool} {d pg : Nat} (h : AwaitsScrub s far d pg) (phys : Nat) :
    AwaitsScrub (releasePage s phys) far d pg := by
  cases page : pageOf phys with
  | none => rwa [Machine.releasePage, page]
  | some x =>
    obtain ⟨far', d', p⟩ := x
    rw [releasePage_of_page page]
    by_cases other : far' ≠ far ∨ d' ≠ d
    · rwa [AwaitsScrub, tierOf_modTier_ne _ other]
    obtain ⟨rfl, rfl⟩ : far' = far ∧ d' = d := by simpa [not_or] using other
    by_cases tiers : d' < (if far' then s.far else s.near).length
    · rw [AwaitsScrub, tierOf_modTier _ tiers]
      exact ⟨mem_insertNat.2 (.inr h.1), fun used => h.2 (List.mem_filter.1 used).1⟩
    · rwa [modTier_of_le _ (Nat.not_lt.1 tiers)]

theorem releasePage_tiers (s : State) (phys : Nat) :
    (releasePage s phys).near.length = s.near.length ∧ (releasePage s phys).far.length = s.far.length := by
  unfold releasePage
  split
  · exact ⟨rfl, rfl⟩
  · dsimp only
    split
    · exact ⟨rfl, length_setNth ..⟩
    · exact ⟨length_setNth .., rfl⟩

theorem AwaitsScrub.foldl {far : Bool} {d pg : Nat} : ∀ (l : List Nat) {s : State}, AwaitsScrub s far d pg →
    AwaitsScrub (l.foldl Machine.releasePage s) far d pg
  | [], _, h => h
  | a :: r, _, h => AwaitsScrub.foldl r (h.releasePage a)

/-- Every page of a list that is released waits for its scrub. -/
theorem foldl_releasePage_awaits {phys d pg : Nat} {far : Bool} (page : pageOf phys = some (far, d, pg)) :
    ∀ {l : List Nat} {s : State}, phys ∈ l → d < s.near.length → d < s.far.length → AwaitsScrub (l.foldl releasePage s) far d pg := by
  intro l
  induction l with
  | nil => exact fun h => absurd h List.not_mem_nil
  | cons a r ih =>
    intro s h near farther
    rw [List.foldl_cons]
    rcases List.mem_cons.1 h with rfl | later
    · refine AwaitsScrub.foldl r (releasePage_awaits page ?_)
      split
      · exact farther
      · exact near
    · obtain ⟨nears, fars⟩ := releasePage_tiers s a
      exact ih later (by rwa [nears]) (by rwa [fars])

theorem foldl_releasePage_frame : ∀ (l : List Nat) (s : State), (l.foldl releasePage s).mem = s.mem ∧ (l.foldl releasePage s).ctxs = s.ctxs
  | [], _ => ⟨rfl, rfl⟩
  | a :: r, s => by
    obtain ⟨mem, ctxs⟩ := foldl_releasePage_frame r (releasePage s a)
    exact ⟨mem.trans (releasePage_frame s a).1, ctxs.trans (releasePage_frame s a).2⟩

/-! ### The end of a Drydown (R391) -/

section
variable {s : State} {cn : Nat} {c : Ctx}

theorem releaseCtx_mem : (releaseCtx s cn c).mem = eraseShare s.mem cn :=
  congrArg (eraseShare · cn) (foldl_releasePage_frame _ _).1

theorem releaseCtx_ctxs : (releaseCtx s cn c).ctxs = NMap.erase s.ctxs cn :=
  congrArg (NMap.erase · cn) (foldl_releasePage_frame _ _).2

/-- Each page of the context waits for its scrub. -/
theorem releaseCtx_awaits {e : Nat × PageEnt} (he : e ∈ c.pages) {far : Bool} {d pg : Nat} (page : pageOf e.2.phys = some (far, d, pg))
    (near : d < s.near.length) (farther : d < s.far.length) : AwaitsScrub (releaseCtx s cn c) far d pg := by
  have owned : e.2.phys ∈ ownedPages c := by
    simp only [ownedPages, List.mem_append, List.mem_map]
    exact .inl (.inl (.inl ⟨e, he, rfl⟩))
  exact foldl_releasePage_awaits (s := dropUnits s _) page owned near farther

/-- The state in which the context is released and its end is in the log. -/
def drydownLogged (s : State) (cn : Nat) (c : Ctx) : State :=
  (releaseCtx s cn c).logRec 0x2D (coordDie c) 7 0 cn ((c.epoch.map (·.attempt)).getD 0) (stepOf c) 0 0xFF 0

variable (hc : s.ctx? cn = some c) (dry : c.drydown = true) (still : quiet s cn = true)
include hc dry still

/-- A Drydown that is quiet ends; a linked host that destroyed the context is told. -/
theorem exec_drydownComplete : exec (.drydownComplete cn) s = .next (resumeAttach (finishDelete (startMoves (detachDone
    (match (drydownLogged s cn c).host? c.slot with
      | some h => if h.linked then c.ctxDone.elim (drydownLogged s cn c) (fun n => answer (drydownLogged s cn c) c.slot n tyCtxDone [0])
        else drydownLogged s cn c
      | none => drydownLogged s cn c) c.slot)))) := by
  rw [show exec (.drydownComplete cn) s = execDrydownComplete cn s from rfl, execDrydownComplete, hc]
  exact if_neg (by rw [dry, still]; decide)

theorem exec_drydownComplete_untold (untold : ∀ h, (drydownLogged s cn c).host? c.slot = some h → c.ctxDone = none ∨ h.linked = false) :
    exec (.drydownComplete cn) s = .next (resumeAttach (finishDelete (startMoves (detachDone (drydownLogged s cn c) c.slot)))) := by
  rw [exec_drydownComplete hc dry still]
  cases found : (drydownLogged s cn c).host? c.slot with
  | none => rfl
  | some h =>
    rcases untold h found with none_asked | down
    · rw [none_asked]
      dsimp only
      rw [Option.elim_none, ite_self]
    · dsimp only
      rw [down]
      rfl

theorem exec_drydownComplete_told {h : HostRec} {n : Nat} (found : (drydownLogged s cn c).host? c.slot = some h) (asked : c.ctxDone = some n)
    (up : h.linked = true) : exec (.drydownComplete cn) s = .next (resumeAttach (finishDelete (startMoves (detachDone
      (answer (drydownLogged s cn c) c.slot n tyCtxDone [0]) c.slot)))) := by
  rw [exec_drydownComplete hc dry still, found]
  dsimp only
  rw [up, asked]
  rfl

end

/-! ### The statement -/

/-- Settles O45: a lost host and the end of its hold by its phase, a DETACH by what `detachHost` does, a Drydown by what is released. -/
theorem hostsAndContextsAreReleased : Obligations.HostsAndContextsAreReleased := by
  unfold Obligations.HostsAndContextsAreReleased
  refine ⟨fun s slot h hs => ?_, fun s slot mode h m f taken on => ?_, fun s cn c hc dry still => ?_⟩
  · intro left
    have lost : exec (.keepaliveTimeout slot) s = .next (match h.phase with
      | .attached | .registered => (ctxsOf left slot).foldl pauseCtx (logHost (left.setHost slot { h with phase := .hold }) 0x45 slot 0 h)
      | .detaching _ => detachDone (drydownAll (left.setHost slot { h with phase := .drying }) slot) slot
      | .detached => freeHost left slot
      | .hold | .drying => left) := by
      rw [show exec (.keepaliveTimeout slot) s = .next (hostLost s slot) from rfl, hostLost, hs] <;> rfl
    have ended := exec_holdPeriodEnd hs
    refine ⟨fun phase => ?_, fun phase => ?_, fun phase => ?_, fun now phase => ?_, fun phase bare => ?_,
      fun phase => ?_, fun phase => ?_, fun phase => ?_⟩
    · rcases phase with phase | phase
      all_goals rw [lost, phase]
    · rcases phase with phase | phase
      all_goals rw [lost, phase]
    · rw [lost, phase]
    · rw [lost, phase]
    · rw [if_pos phase, endHold_bare h bare] at ended
      exact ⟨_, ended, rfl, rfl, rfl⟩
    · rw [ended, if_pos phase]
    · rw [ended, if_neg (by rw [phase]; decide), if_pos phase]
    · exact ⟨_, exec_detachRelease hs phase, rfl, rfl, rfl⟩
  · intro a h'
    have on' : (messageHost h m f).phase = .attached ∨ (messageHost h m f).phase = .registered ∨ (messageHost h m f).phase = .hold := by
      rwa [messageHost_phase]
    have ctxs : ctxsOf a slot = ctxsOf s slot := ctxsOf_congr (messageState_ctxs s slot h m f) slot
    have detached := exec_detach (mode := mode) taken (by rcases on with e | e | e <;> rw [e] <;> decide)
    refine ⟨fun unknown => ?_, fun known bare => ?_, fun immediate => ?_, fun drain attached => ?_⟩
    · rw [detached, detachHost_attached on', if_pos unknown]
    · rw [detachHost_bare on' known (ctxs.trans bare)] at detached
      obtain ⟨hz, hostz, phase, asked, kept, sent⟩ := detachDone_bare (s := a.setHost slot { h' with phase := .detaching (mode == 1) })
        (State.host?_setHost ..) ((ctxsOf_congr (State.setHost_ctxs ..) slot).trans (ctxs.trans bare)) rfl rfl
      refine ⟨_, hz, detached, hostz, phase, asked, kept.trans (messageState_ctxs s slot h m f), fun flows => ?_⟩
      have acknowledged : Out.message h'.port (datagrams tyDetachAck h'.sid h'.outSeq []) =
          .message h.port (datagrams tyDetachAck h.sid h.outSeq []) := by
        rw [messageHost_port, messageHost_sid, messageHost_outSeq]
      have unpaused : portPaused a h'.port 0 = false := by rwa [messageHost_port]
      exact (sent unpaused).trans (congrArg (fun o => a.out ++ [o]) acknowledged)
    · rw [detached, detachHost_attached on', if_neg (by omega)]
      dsimp only
      rw [if_pos immediate, immediate]
      rfl
    · rw [detached, detachHost_attached on', if_neg (by omega)]
      dsimp only
      rw [if_neg (by omega), drain, messageHost_phase, ctxsOf_congr (State.setHost_ctxs ..), ctxs]
      simp only [attached, if_false]
      rfl
  · intro released
    refine ⟨fun a lo hi inv => ?_, releaseCtx_ctxs, fun e he far d pg page near farther => releaseCtx_awaits he page near farther,
      exec_drydownComplete_untold hc dry still, fun h n => exec_drydownComplete_told hc dry still⟩
    rw [releaseCtx_mem, eraseShare, Memory.get_erase inv, if_neg (by omega)]

end Sys2Proof.Machine

/-!
PROOFS. Records of ports; replays and retraining of edges, links that come up and go down, and the services of a port (R324 to R328, R332, R344,
R442).
-/

namespace Sys2Proof.Machine

/-! ### Records of ports -/

theorem setNth_setNth {α : Type} (v w : α) : ∀ (l : List α) (i : Nat), setNth (setNth l i v) i w = setNth l i w
  | [], _ => rfl
  | _ :: _, 0 => rfl
  | x :: r, i + 1 => congrArg (x :: ·) (setNth_setNth v w r i)

@[simp] theorem portRec_modPort {s : State} {port : Nat} (f : PortRec → PortRec) (known : port < s.ports.length) :
    portRec (modPort s port f) port = f (portRec s port) := nth_setNth_same _ _ _ _ known

theorem modPort_modPort {s : State} {port : Nat} (f g : PortRec → PortRec) (known : port < s.ports.length) :
    modPort (modPort s port f) port g = modPort s port (fun p => g (f p)) := by
  rw [modPort, portRec_modPort f known]
  exact congrArg (fun l => { s with ports := l }) (setNth_setNth ..)

/-- A change of a port that leaves its pauses alone. -/
theorem portPaused_modPort {f : PortRec → PortRec} (keeps : ∀ p, (f p).paused = p.paused) (s : State) (port prio : Nat) :
    portPaused (modPort s port f) port prio = portPaused s port prio := by
  by_cases known : port < s.ports.length
  · rw [portPaused, portRec_modPort f known, keeps, portPaused]
  · rw [portPaused, portRec, modPort, setNth_of_le _ (Nat.not_lt.1 known), portPaused, portRec]

/-- What a port's own services send leaves at once while firmware's priority is not paused. -/
theorem sendOwn_unpaused {s : State} {port : Nat} (flows : portPaused s port 0 = false) (o : Out) :
    sendOwn s port o = { s with out := s.out ++ [o] } :=
  if_neg (Bool.eq_false_iff.1 flows)

@[simp] theorem portState_power (s : State) (port : Nat) (f : FrameInfo) : (portState s port f).power = s.power := by
  rw [portState, arrive_frame]

theorem ipv4Of_portState (s : State) (port : Nat) (f : FrameInfo) : ipv4Of (portState s port f) port = ipv4Of s port := by
  rw [ipv4Of, portState_power, portState_colyr, ipv4Of]

theorem ipv6Of_portState (s : State) (port : Nat) (f : FrameInfo) : ipv6Of (portState s port f) port = ipv6Of s port := by
  rw [ipv6Of, portState_power, portState_colyr, ipv6Of]

/-! ### Replays and retraining of edges (R324, R325) -/

/-- A half joins the list when it fails; one that failed before is in it already. -/
theorem mem_insert_half {l h : List Nat} {x half : Nat} {fails : Bool} (before : half ∈ l → half ∈ h) :
    x ∈ (if fails || l.contains half then insertNat half h else h) ↔ x ∈ h ∨ (x = half ∧ fails = true) := by
  cases fails with
  | true => rw [Bool.true_or, if_pos rfl, mem_insertNat, and_iff_left rfl, or_comm]
  | false =>
    rw [Bool.false_or]
    split
    next known =>
      have inside : half ∈ h := before (List.contains_iff_mem.1 known)
      rw [mem_insertNat]
      exact ⟨fun new => .inl (new.elim (fun e => e ▸ inside) id), fun old => .inr (old.resolve_right (by simp))⟩
    next => simp

/-- Halves that are off once a retraining has ended. -/
def halvesOff (s : State) (edge : Nat) (failA failB : Bool) : List Nat :=
  let h := if failA || s.halfEdges.contains (edge * 2) then insertNat (edge * 2) s.halfEdges else s.halfEdges
  if failB || s.halfEdges.contains (edge * 2 + 1) then insertNat (edge * 2 + 1) h else h

theorem mem_halvesOff {s : State} {edge x : Nat} {failA failB : Bool} : x ∈ halvesOff s edge failA failB ↔
    x ∈ s.halfEdges ∨ (x = edge * 2 ∧ failA = true) ∨ (x = edge * 2 + 1 ∧ failB = true) := by
  rw [halvesOff, mem_insert_half fun known => (mem_insert_half id).2 (.inl known), mem_insert_half id, or_assoc]

section
variable {s : State} {edge a b : Nat} (ends : edgeEnds edge = some (a, b)) (live : s.exclEdges.contains edge = false)
include ends live

theorem exec_flitReplay (dir ok : Bool) {seq : Nat} (inside : seq < 1024) :
    let k := edge * 2 + b2n dir
    let fails := if NMap.get? s.edgeSeq k = some seq then NMap.getD s.edgeFails k 0 else 0
    let t : State := { s with edgeSeq := NMap.set s.edgeSeq k seq, edgeFails := NMap.set s.edgeFails k (if ok then 0 else fails + 1) }
    exec (.flitReplay edge dir seq ok) s = .next (if ok then logPath t (if dir then a else b) 127 else t) := by
  intro k fails t
  rw [show exec (.flitReplay edge dir seq ok) s = execFlitReplay edge dir seq ok s from rfl, execFlitReplay, ends]
  exact if_neg (by rw [live, Bool.false_or, decide_eq_false (Nat.not_le.2 inside)]; decide)

omit live in
theorem exec_edgeRetrain_early (failA failB : Bool) (even : NMap.getD s.edgeFails (edge * 2) 0 < 8)
    (odd : NMap.getD s.edgeFails (edge * 2 + 1) 0 < 8) : exec (.edgeRetrain edge failA failB) s = .next s := by
  have early : retrainDue s edge = false := by
    rw [retrainDue, decide_eq_false (Nat.not_le.2 even), decide_eq_false (Nat.not_le.2 odd), Bool.or_false]
  rw [show exec (.edgeRetrain edge failA failB) s = execEdgeRetrain edge failA failB s from rfl, execEdgeRetrain, ends]
  exact if_pos (by rw [early, Bool.not_false, Bool.or_true])

/-- After eight failed replays the edge is excluded when both halves are off, and else goes on. -/
theorem exec_edgeRetrain_due (failA failB : Bool)
    (due : 8 ≤ NMap.getD s.edgeFails (edge * 2) 0 ∨ 8 ≤ NMap.getD s.edgeFails (edge * 2 + 1) 0) :
    let h := halvesOff s edge failA failB
    let after : State := { s with edgeFails := NMap.erase (NMap.erase s.edgeFails (edge * 2)) (edge * 2 + 1), halfEdges := h }
    exec (.edgeRetrain edge failA failB) s =
      .next (if edge * 2 ∈ h ∧ edge * 2 + 1 ∈ h then excludeEdge after edge a b else logPath after a 127) := by
  intro h after
  have asked : retrainDue s edge = true := by rwa [retrainDue, Bool.or_eq_true, decide_eq_true_eq, decide_eq_true_eq]
  have both : ((failA || s.halfEdges.contains (edge * 2)) && (failB || s.halfEdges.contains (edge * 2 + 1))) = true ↔
      edge * 2 ∈ h ∧ edge * 2 + 1 ∈ h := by
    rw [mem_halvesOff, mem_halvesOff]
    simp [or_comm]
  rw [show exec (.edgeRetrain edge failA failB) s = execEdgeRetrain edge failA failB s from rfl, execEdgeRetrain, ends]
  refine (if_neg (by rw [live, asked]; decide)).trans (congrArg Host.Outcome.next ?_)
  exact if_congr both rfl rfl

end

/-! ### Links (R326, R344, R442) -/

section
variable {s : State} {port : Nat}

theorem exec_linkUp (firmware : hostPortsRun s = true) (alive : hostPortAlive s (hostPort port) = true)
    (mode : portInMode (takeMode s (hostPort port)) port = true) (clock : portClock s port = true) :
    exec (.linkUp port) s = .next (modPort (takeMode s (hostPort port)) port (fun p => { p with up := true })) := by
  rw [show exec (.linkUp port) s = execLinkUp port s from rfl, execLinkUp, firmware, alive, mode, clock]
  rfl

theorem exec_linkDown (up : (portRec s port).up = true) : exec (.linkDown port) s = .next (dropLink s port) :=
  congrArg Host.Outcome.next (if_pos up)

/-- A port with no host goes down alone. -/
theorem dropLink_of_no_host (alone : hostsOn s port = []) (known : port < s.ports.length) : dropLink s port =
    modPort s port (fun p => { p with up := false, paused := List.replicate 8 false, tx := [] }) := by
  rw [dropLink, alone, List.foldl_nil, modPort_modPort _ _ known]

/-! ### Services of a port (R327) -/

theorem exec_lldpTransmit (up : portUp s port = true) : exec (.lldpTransmit port) s = .next (sendOwn s port
    (.lldp port (Config.lldpText 0 port) (Config.lldpText 1 port) (Config.lldpText 2 port) Config.lldpTtl)) :=
  congrArg Host.Outcome.next (if_pos up)

theorem exec_lldpReceive_down (down : portUp s port = false) (frame : Bytes) (f : FrameInfo) : exec (.lldpReceive port frame f) s = .next s :=
  congrArg Host.Outcome.next (if_pos (by rw [down]; rfl))

theorem exec_lldpReceive_taken {f : FrameInfo} (taken : PortFrameTaken s port f true) (frame : Bytes) :
    exec (.lldpReceive port frame f) s = .next (modPort (portState s port f) port (fun p => { p with lldpPeer := frame })) :=
  congrArg Host.Outcome.next (portFrame_taken taken _)

variable {f : FrameInfo} (taken : PortFrameTaken s port f false)
include taken

theorem exec_arpRequest (ip : BitVec 32) : exec (.arpRequest port ip f) s = .next (if ip ≠ 0 ∧ ip = ipv4Of s port then
    sendOwn (portState s port f) port (.arpReply port ip) else portState s port f) := by
  refine congrArg Host.Outcome.next ((portFrame_taken taken _).trans (if_congr ?_ rfl rfl))
  rw [ipv4Of_portState, Bool.and_eq_true, bne_iff_ne, beq_iff_eq]

theorem exec_neighbourSolicitation (ip : BitVec 128) : exec (.neighbourSolicitation port ip f) s =
    .next (if ip = linkLocal port ∨ (ip ≠ 0 ∧ ip = ipv6Of s port) then sendOwn (portState s port f) port (.neighbourAdvert port ip)
      else portState s port f) := by
  refine congrArg Host.Outcome.next ((portFrame_taken taken _).trans (if_congr ?_ rfl rfl))
  rw [ipv6Of_portState, Bool.or_eq_true, Bool.and_eq_true, bne_iff_ne, beq_iff_eq, beq_iff_eq]

end

/-! ### The statement -/

/-- Settles O34: a replay and a retraining by their equations, with the halves that are off by `mem_halvesOff`; links and services by theirs. -/
theorem linksComeUpReplayAndFail : Obligations.LinksComeUpReplayAndFail := by
  unfold Obligations.LinksComeUpReplayAndFail
  refine ⟨fun s edge a b ends live => ⟨fun dir seq inside => ?_, fun failA failB => exec_edgeRetrain_early ends failA failB,
    fun failA failB due => ?_⟩, fun s port => ⟨exec_linkUp, exec_linkDown, fun alone up known => ?_, exec_lldpTransmit,
      fun frame f down => exec_lldpReceive_down down frame f, fun frame f taken => exec_lldpReceive_taken taken frame,
      fun f taken => ?_, fun o flows => sendOwn_unpaused flows o⟩⟩
  · exact ⟨exec_flitReplay ends live dir true inside, exec_flitReplay ends live dir false inside⟩
  · have ended := exec_edgeRetrain_due ends live failA failB due
    refine ⟨halvesOff s edge failA failB, fun x => mem_halvesOff, fun even odd => ?_, fun one => ?_⟩
    · exact ended.trans (congrArg Host.Outcome.next (if_pos ⟨even, odd⟩))
    · exact ended.trans (congrArg Host.Outcome.next (if_neg one))
  · rw [exec_linkDown up, dropLink_of_no_host alone known]
  · refine ⟨fun ip set own => ?_, fun ip other => ?_, fun ip own => ?_, fun ip other own => ?_⟩
    · rw [exec_arpRequest taken, if_pos ⟨set, own⟩]
    · rw [exec_arpRequest taken, if_neg fun both => other.elim (· both.2) both.1]
    · rw [exec_neighbourSolicitation taken, if_pos own]
    · rw [exec_neighbourSolicitation taken, if_neg fun either => either.elim other fun global => own.elim global.1 (· global.2)]

end Sys2Proof.Machine

/-!
PROOFS. Squalls that arrive (R323, R369, R378, R379, R384, R391).
-/

namespace Sys2Proof.Machine

/-! ### A Squall is taken once (R323) -/

/-- The state in which a Squall has left the fabric and its number is remembered. -/
def squallTaken (s : State) (q : Squall) : State := { s with squalls := s.squalls.erase q, squallSeen := (q.src, q.seq) :: s.squallSeen }

section
variable {s : State} {p : Squall → Bool}

theorem takeSquall_found {q : Squall} (found : s.squalls.find? (fun x => p x && !(s.squallSeen.contains (x.src, x.seq))) = some q) :
    takeSquall s p = some (squallTaken s q, q) := by
  rw [takeSquall, found]
  rfl

/-- Copies of Squalls that have been seen are not taken. -/
theorem takeSquall_seen (p : Squall → Bool) (seen : ∀ x ∈ s.squalls, (x.src, x.seq) ∈ s.squallSeen) : takeSquall s p = none := by
  have discarded : s.squalls.find? (fun x => p x && !(s.squallSeen.contains (x.src, x.seq))) = none :=
    List.find?_eq_none.2 fun x hx => by rw [List.contains_iff_mem.2 (seen x hx), Bool.not_true, Bool.and_false]; decide
  rw [takeSquall, discarded]
  rfl

end

/-! ### What each kind does (R378, R379) -/

/-- A context's epoch is aborted when it has tasks on the source die. -/
def abortOnDie (src : Nat) (t : State) (p : Nat × Ctx) : State :=
  match p.2.epoch with
  | some e => if tasksOnDie e src then abortEpoch t p.1 true else t
  | none => t

section
variable {s : State} {src cn att cause : Nat} {ep : Word64}

theorem exec_squallAbortEpoch {q : Squall} {c : Ctx} {e : Epoch}
    (found : s.squalls.find? (fun x => { x with seq := 0 } == { kind := 1, src := src, ctx := cn, att := att, cause := cause, epoch := ep, seq := 0 } &&
      !(s.squallSeen.contains (x.src, x.seq))) = some q) (hc : s.ctx? cn = some c) (he : c.epoch = some e) :
    exec (.squallAbortEpoch src cn att cause ep) s =
      .next (if c.epochNo = ep ∧ e.attempt % 16 = att then abortEpoch (squallTaken s q) cn true else squallTaken s q) := by
  rw [show exec (.squallAbortEpoch src cn att cause ep) s = execSquallAbortEpoch src cn att cause ep s from rfl, execSquallAbortEpoch,
    takeSquall_found found]
  dsimp only
  rw [show (squallTaken s q).ctx? cn = some c from hc]
  dsimp only
  rw [he]

theorem exec_squallAbortDie {q : Squall} (found : s.squalls.find? (fun x => (x.kind == 2 && x.src == src && x.cause == cause) &&
      !(s.squallSeen.contains (x.src, x.seq))) = some q) :
    exec (.squallAbortDie src cause) s = .next (s.ctxs.foldl (abortOnDie src) (squallTaken s q)) := by
  rw [show exec (.squallAbortDie src cause) s = execSquallAbortDie src cause s from rfl, execSquallAbortDie, takeSquall_found found]
  rfl

theorem exec_squallStopContext {q : Squall} (found : s.squalls.find? (fun x => (x.kind == 3 && x.src == src && x.ctx == cn && x.cause == cause) &&
      !(s.squallSeen.contains (x.src, x.seq))) = some q) :
    exec (.squallStopContext src cn cause) s = .next (abortEpoch (squallTaken s q) cn false) := by
  rw [show exec (.squallStopContext src cn cause) s = execSquallStopContext src cn cause s from rfl, execSquallStopContext, takeSquall_found found]

theorem exec_squallDrydown {q : Squall} (found : s.squalls.find? (fun x => (x.kind == 4 && x.src == src && x.ctx == cn) &&
      !(s.squallSeen.contains (x.src, x.seq))) = some q) : exec (.squallDrydown src cn) s = .next (stopTasks (squallTaken s q) cn) := by
  rw [show exec (.squallDrydown src cn) s = execSquallDrydown src cn s from rfl, execSquallDrydown, takeSquall_found found]

/-- A command whose Squall has been seen everywhere does nothing. -/
theorem exec_squall_seen (seen : ∀ x ∈ s.squalls, (x.src, x.seq) ∈ s.squallSeen) :
    exec (.squallAbortEpoch src cn att cause ep) s = .next s ∧ exec (.squallAbortDie src cause) s = .next s ∧
      exec (.squallStopContext src cn cause) s = .next s ∧ exec (.squallDrydown src cn) s = .next s := by
  refine ⟨?_, ?_, ?_, ?_⟩
  · rw [show exec (.squallAbortEpoch src cn att cause ep) s = execSquallAbortEpoch src cn att cause ep s from rfl, execSquallAbortEpoch,
      takeSquall_seen _ seen]
  · rw [show exec (.squallAbortDie src cause) s = execSquallAbortDie src cause s from rfl, execSquallAbortDie, takeSquall_seen _ seen]
  · rw [show exec (.squallStopContext src cn cause) s = execSquallStopContext src cn cause s from rfl, execSquallStopContext, takeSquall_seen _ seen]
  · rw [show exec (.squallDrydown src cn) s = execSquallDrydown src cn s from rfl, execSquallDrydown, takeSquall_seen _ seen]

end

/-! ### The statement -/

/-- Settles O35: each KIND by its equation once the Squall is taken, and none of them for one that has been seen. -/
theorem squallsActOnArrival : Obligations.SquallsActOnArrival := by
  unfold Obligations.SquallsActOnArrival
  refine ⟨fun s src cn att cause ep c e q found => ?_, fun s src cn att cause ep => exec_squall_seen, fun s q => ?_⟩
  · intro rest hc he
    have arrived := exec_squallAbortEpoch found hc he
    refine ⟨fun number attempt => ?_, fun other => ?_⟩
    · exact arrived.trans (congrArg Host.Outcome.next (if_pos ⟨number, attempt⟩))
    · exact arrived.trans (congrArg Host.Outcome.next (if_neg fun same => other.elim (· same.1) (· same.2)))
  · exact ⟨fun src cause => exec_squallAbortDie, fun src cn code => exec_squallStopContext, fun src cn => exec_squallDrydown⟩

end Sys2Proof.Machine

/-!
PROOFS. Priority flow control: what leaves when a pause ends, and the thresholds of the receive buffer (R327, R328, R331).
-/

namespace Sys2Proof.Machine

/-! ### The order of sending, for what waits alone (R331) -/

/-- A port where nothing of the contexts waits sends nothing of theirs. -/
theorem drrOrder_nil (weight : Nat → Nat) (n cur : Nat) (credit : NMap Nat) : drrOrder weight n cur credit [] = [] := by
  cases n
  all_goals rfl

/-- One message is sent however its turn comes. -/
theorem drrOrder_singleton (weight : Nat → Nat) (x : TxItem) : ∀ (n cur : Nat) (credit : NMap Nat), drrOrder weight n cur credit [x] = [x]
  | 0, _, _ => rfl
  | n + 1, cur, credit => by
    unfold drrOrder
    split
    · rfl
    next c _ =>
      rw [List.find?_singleton]
      split
      · rfl
      next y found =>
        obtain ⟨-, rfl⟩ : _ ∧ x = y := by simpa using found
        dsimp only
        split
        · rw [List.erase_cons_head, drrOrder_nil]
        · exact drrOrder_singleton weight x n _ _

theorem sendOrder_nil (s : State) : sendOrder s [] = [] := drrOrder_nil ..

theorem sendOrder_singleton (s : State) (x : TxItem) : sendOrder s [x] = [x] := by
  cases own : x.ctx with
  | none => simp [sendOrder, own, drrOrder_nil]
  | some c => simp [sendOrder, own, drrOrder_singleton]

/-! ### The end of a pause (R327) -/

@[simp] theorem portRec_emit (s : State) (o : Out) (port : Nat) : portRec (s.emit o) port = portRec s port := rfl

theorem foldl_emit : ∀ (l : List TxItem) (s : State), l.foldl (fun s x => s.emit x.out) s = { s with out := s.out ++ l.map (·.out) }
  | [], s => by rw [List.map_nil, List.append_nil]; rfl
  | x :: r, s => by
    rw [List.foldl_cons, foldl_emit r, State.emit, List.map_cons, List.append_assoc, List.singleton_append]

/-- What waits at a port stays paused once a priority is set. -/
def staysPaused (s : State) (port prio : Nat) (on : Bool) (i : TxItem) : Bool := nth false (setNth (portRec s port).paused prio on) (i.prio s)

/-- A port's record once a priority is set. -/
def pauseSet (s : State) (port prio : Nat) (on : Bool) (p : PortRec) : PortRec :=
  { p with paused := setNth p.paused prio on, tx := p.tx.filter (staysPaused s port prio on) }

/-- A priority that is set keeps what it pauses waiting, and lets the rest leave. -/
theorem setPause_eq {s : State} {port : Nat} (known : port < s.ports.length) (prio : Nat) (on : Bool) : setPause s port prio on =
    { modPort s port (pauseSet s port prio on) with
      out := s.out ++ (sendOrder s ((portRec s port).tx.filter (fun i => !(staysPaused s port prio on i)))).map (·.out) } := by
  rw [setPause, drainPort]
  dsimp only
  rw [foldl_emit, modPort_modPort _ _ known]
  simp only [portPaused, portRec_modPort _ known]
  rfl

section
variable {s : State} {port : Nat} (known : port < s.ports.length) (prio : Nat) (on : Bool)
include known

theorem portRec_setPause : portRec (setPause s port prio on) port = pauseSet s port prio on (portRec s port) := by
  rw [setPause_eq known]
  exact portRec_modPort (pauseSet s port prio on) known

theorem setPause_out : (setPause s port prio on).out =
    s.out ++ (sendOrder s ((portRec s port).tx.filter (fun i => !(staysPaused s port prio on i)))).map (·.out) := by
  rw [setPause_eq known]

theorem setPause_frame : (setPause s port prio on).mem = s.mem ∧ (setPause s port prio on).hosts = s.hosts ∧
    (setPause s port prio on).ctxs = s.ctxs := by
  rw [setPause_eq known]
  exact ⟨rfl, rfl, rfl⟩

/-- Where nothing waits nothing leaves. -/
theorem setPause_idle (idle : (portRec s port).tx = []) :
    (setPause s port prio on).out = s.out ∧ (portRec (setPause s port prio on) port).tx = [] := by
  rw [setPause_out known, portRec_setPause known, pauseSet, idle, List.filter_nil, sendOrder_nil, List.map_nil, List.append_nil]
  exact ⟨rfl, rfl⟩

variable {i : TxItem} (waits : (portRec s port).tx = [i])
include waits

theorem setPause_leaves (free : staysPaused s port prio on i = false) :
    (setPause s port prio on).out = s.out ++ [i.out] ∧ (portRec (setPause s port prio on) port).tx = [] := by
  rw [setPause_out known, portRec_setPause known, pauseSet, waits, List.filter_cons_of_pos (by rw [free]; rfl), List.filter_nil, sendOrder_singleton]
  exact ⟨rfl, List.filter_cons_of_neg (by rw [free]; decide)⟩

theorem setPause_stays (paused : staysPaused s port prio on i = true) :
    (setPause s port prio on).out = s.out ∧ (portRec (setPause s port prio on) port).tx = [i] := by
  rw [setPause_out known, portRec_setPause known, pauseSet, waits, List.filter_cons_of_neg (by rw [paused]; decide), List.filter_nil,
    sendOrder_nil, List.map_nil, List.append_nil]
  exact ⟨rfl, List.filter_cons_of_pos paused⟩

end

/-! ### Thresholds of the receive buffer (R328) -/

section
variable {s : State} {port occ : Nat}

theorem sharedArrival_full (full : portBuffer s port / 2 < occ) : sharedArrival s port occ = (dropFrame s port, false) := if_pos full

theorem sharedArrival_fits (fits : occ ≤ portBuffer s port / 2) : sharedArrival s port occ =
    (modPort s port (fun p => { p with shared := occ }), true) := if_neg (Nat.not_lt.2 fits)

theorem losslessArrival_full (full : portBuffer s port / 2 < occ) : losslessArrival s port occ = (dropFrame s port, false) := if_pos full

/-- The first frame at 3B/8 or more makes the module pause its link partner. -/
theorem losslessArrival_pauses (fits : occ ≤ portBuffer s port / 2) (high : 3 * portBuffer s port / 8 ≤ occ) (quiet : (portRec s port).xoff = false) :
    losslessArrival s port occ =
      ((modPort s port (fun p => { p with occupancy := occ, xoff := p.xoff || true })).emit (.pfc port (netPrio s) 0xFFFF), true) := by
  rw [losslessArrival]
  dsimp only
  rw [if_neg (Nat.not_lt.2 fits), decide_eq_true high, quiet]
  rfl

/-- Below 3B/8 nothing is sent. -/
theorem losslessArrival_low (low : occ < 3 * portBuffer s port / 8) : losslessArrival s port occ =
    (modPort s port (fun p => { p with occupancy := occ, xoff := p.xoff || false }), true) := by
  rw [losslessArrival]
  dsimp only
  rw [if_neg (by omega), decide_eq_false (Nat.not_le.2 low)]
  rfl

theorem exec_pfcRepeat (up : portUp s port = true) (off : (portRec s port).xoff = true) (high : portBuffer s port / 4 ≤ (portRec s port).occupancy) :
    exec (.pfcRepeat port) s = .next (s.emit (.pfc port (netPrio s) 0xFFFF)) :=
  congrArg Host.Outcome.next (if_pos (by rw [up, off, decide_eq_true high]; rfl))

/-- Below B/4 a pause that has been sent is taken back. -/
theorem exec_pfcXon (up : portUp s port = true) (low : occ < portBuffer s port / 4) : exec (.pfcXon port occ) s =
    .next (if (portRec s port).xoff then (modPort s port (fun p => { p with occupancy := occ, xoff := false })).emit (.pfc port (netPrio s) 0)
      else modPort s port (fun p => { p with occupancy := occ })) := by
  have due : (!(portUp s port) || decide (portBuffer s port / 4 ≤ occ)) = false := by
    rw [up, decide_eq_false (Nat.not_le.2 low)]
    rfl
  rw [show exec (.pfcXon port occ) s = execPfcXon port occ s from rfl, execPfcXon, due, if_neg (by decide)]
  split
  all_goals rfl

end

/-! ### The statement -/

/-- Settles O39: a set priority by what leaves and what stays, the thresholds by the equations of an arrival and of XON. -/
theorem priorityFlowControl : Obligations.PriorityFlowControl := by
  unfold Obligations.PriorityFlowControl
  intro s port known b x set
  have sets (prio : Nat) (on : Bool) : set (setPause s port prio on) prio on := by
    obtain ⟨mem, hosts, ctxs⟩ := setPause_frame known prio on
    exact ⟨by rw [portRec_setPause known, pauseSet], mem, hosts, ctxs, setPause_idle known prio on, fun i => setPause_leaves known prio on,
      fun i => setPause_stays known prio on⟩
  refine ⟨fun prio quanta up => ⟨_, congrArg Host.Outcome.next (if_pos up), sets prio _⟩, fun prio => ⟨_, rfl, sets prio false⟩,
    fun occ => ⟨sharedArrival_full, sharedArrival_fits⟩, fun occ => losslessArrival_full, fun occ fits high quiet => ?_, fun occ low => ?_,
    exec_pfcRepeat, fun occ up low => ?_⟩
  · refine ⟨_, losslessArrival_pauses fits high quiet, rfl, ?_⟩
    rw [portRec_emit, portRec_modPort _ known]
    exact ⟨Bool.or_true _, rfl⟩
  · refine ⟨_, losslessArrival_low low, rfl, ?_⟩
    rw [portRec_modPort _ known]
    exact Bool.or_false _
  · rw [exec_pfcXon up low]
    cases off : x.xoff with
    | true =>
      refine ⟨_, congrArg Host.Outcome.next (if_pos rfl), ?_, ?_, (if_pos rfl).symm, rfl, rfl⟩
      all_goals rw [portRec_emit, portRec_modPort _ known]
    | false =>
      refine ⟨_, congrArg Host.Outcome.next (if_neg Bool.false_ne_true), ?_, ?_, (if_neg Bool.false_ne_true).symm, rfl, rfl⟩
      · exact (congrArg PortRec.xoff (portRec_modPort _ known)).trans off
      · rw [portRec_modPort _ known]

end Sys2Proof.Machine

/-!
PROOFS. Rates and retries of queue pairs, and beacons (R327, R330, R332, R333, R344).
-/

namespace Sys2Proof.Machine

/-! ### Rates and retries (R327, R330) -/

/-- The state in which the queue pair has sent again after so many timeouts. -/
def retransmitted (s : State) (slot qp : Nat) (h : HostRec) (q : QPair) (n : Nat) : State :=
  (s.setHost slot { h with qps := [{ q with retries := n }] }).tick.toHost slot (qpCtx s slot qp) none (.retransmit slot qp)

section
variable {s : State} {slot qp : Nat} {h : HostRec} {q : QPair} (hs : s.host? slot = some h) (only : h.qps = [q]) (own : q.qpn = qp)
include hs only own

/-- A change of a host's one queue pair. -/
theorem modQp_only (f : QPair → QPair) : modQp s slot qp f = s.setHost slot { h with qps := [f q] } := by
  rw [modQp, NMap.modify, show NMap.get? s.hosts slot = some h from hs]
  dsimp only
  rw [only, List.map_singleton, if_pos own]
  rfl

theorem exec_cnpReceive_spaced : exec (.cnpReceive slot qp true) s = .next (s.setHost slot { h with qps := [{ q with rate := q.rate / 2 }] }) :=
  congrArg Host.Outcome.next (modQp_only hs only own _)

theorem exec_rateIncrease : exec (.rateIncrease slot qp) s =
    .next (s.setHost slot { h with qps := [{ q with rate := min (2 ^ 32) (q.rate + 2 ^ 27) }] }) :=
  congrArg Host.Outcome.next (modQp_only hs only own _)

/-- A timeout counts after those before it, or alone: seven before it lose the host. -/
theorem exec_ackTimeout : ∃ n, (n = 0 ∨ n = q.retries) ∧
    exec (.ackTimeout slot qp) s = .next (if 7 ≤ n then hostLost s.tick slot else retransmitted s slot qp h q (n + 1)) := by
  refine ⟨if Config.freeBool s.freeIx 8 then 0 else q.retries, ?_, ?_⟩
  · split
    · exact .inl rfl
    · exact .inr rfl
  · have found : qpOf s slot qp = some q := by
      rw [qpOf, hs, Option.bind_some, only]
      exact List.find?_cons_of_pos (p := fun x : QPair => x.qpn == qp) (beq_iff_eq.2 own)
    rw [show exec (.ackTimeout slot qp) s = execAckTimeout slot qp s from rfl, execAckTimeout, found]
    dsimp only
    rw [modQp_only (s := s.tick) hs only own]
    exact (apply_ite Host.Outcome.next _ _ _).symm

end

/-! ### Beacons (R332, R333) -/

theorem beaconPayload_length (s : State) (port : Nat) (n : Word64) : (beaconPayload s port n).length = 128 := by
  simp only [beaconPayload, List.length_append, toBytes_size, List.length_cons, List.length_nil]

theorem beaconPayload_magic (s : State) (port : Nat) (n : Word64) : (beaconPayload s port n).take 4 = [0x5A, 0x42, 0x52, 0x5A] := rfl

theorem beaconPayload_bseq (s : State) (port : Nat) (n : Word64) : ((beaconPayload s port n).drop 8).take 8 = toBytes 8 n.toNat := rfl

/-- A port without an IPv4 address sends its beacon once. -/
theorem exec_beacon {s : State} {port : Nat} (up : portUp s port = true) (bare : ipv4Of s port = 0) (flows : portPaused s port 0 = false) :
    let t := modPort s port (fun p => { p with bseq := p.bseq + 1 })
    exec (.beacon port) s =
      .next { t with out := s.out ++ [.beacon port false (beaconPayload s port ((portRec s port).bseq + 1))] } := by
  intro t
  have still : portPaused t port 0 = false := by
    rw [portPaused_modPort (f := fun p => { p with bseq := p.bseq + 1 }) (fun _ => rfl), flows]
  rw [show exec (.beacon port) s = execBeacon port s from rfl, execBeacon, up, if_neg (by decide)]
  dsimp only
  rw [show modPort s port (fun p => { p with bseq := (portRec s port).bseq + 1 }) = t from rfl, sendOwn_unpaused still]
  exact congrArg Host.Outcome.next (if_neg (not_not.2 bare))

/-! ### The statement -/

/-- Settles O41: the queue pair by `modQp_only`, a timeout by whether those before it count, a beacon by the bytes of its payload. -/
theorem congestionRetriesAndBeacons : Obligations.CongestionRetriesAndBeacons := by
  unfold Obligations.CongestionRetriesAndBeacons
  refine ⟨fun s slot qp h q hs only own => ?_, fun s port up bare flows => ?_⟩
  · intro with_
    obtain ⟨n, counted, ended⟩ := exec_ackTimeout hs only own
    refine ⟨exec_cnpReceive_spaced hs only own, rfl, exec_rateIncrease hs only own, fun few => ⟨n, counted, ?_⟩, fun many => ?_⟩
    · rw [if_neg (by omega)] at ended
      exact ended
    · rcases counted with rfl | rfl
      · exact .inr ended
      · rw [if_pos many] at ended
        exact .inl ended
  · exact ⟨beaconPayload_length .., beaconPayload_magic .., beaconPayload_bseq .., _, exec_beacon up bare flows, rfl, rfl, rfl, rfl⟩

end Sys2Proof.Machine

/-!
PROOFS. What a message of the module, and one of a host, leave (R327 to R329, R334).
-/

namespace Sys2Proof.Machine

/-! ### Messages of the module -/

section
variable (s : State) (port : Nat) (slot : Option Nat) (l : List Bytes)

@[simp] theorem sendSegs_host? (k : Nat) : (sendSegs s port slot l).host? k = s.host? k := by rw [sendSegs_frame]; rfl
@[simp] theorem sendSegs_ctxs : (sendSegs s port slot l).ctxs = s.ctxs := by rw [sendSegs_frame]
@[simp] theorem sendSegs_mem : (sendSegs s port slot l).mem = s.mem := by rw [sendSegs_frame]
@[simp] theorem sendSegs_sessions : (sendSegs s port slot l).sessions = s.sessions := by rw [sendSegs_frame]

end

section
variable {s : State} {slot : Nat} {h : HostRec} (hs : s.host? slot = some h) (type : Nat) (body : Bytes)
include hs

/-- A message of the module's own takes its next number, and leaves by a port that is not paused. -/
theorem sendMessage_sent : (sendMessage s slot type body).host? slot = some { h with outSeq := h.outSeq + 1 } ∧
    (sendMessage s slot type body).ctxs = s.ctxs ∧
    (portPaused s h.port 0 = false → (sendMessage s slot type body).out = s.out ++ [.message h.port (datagrams type h.sid h.outSeq body)]) := by
  rw [sendMessage, hs]
  exact ⟨State.host?_setHost .., sendSegs_ctxs .., sendSegs_out _ _⟩

/-- So does an answer, which is stored as well. -/
theorem answer_sent (mseq : Nat) : (answer s slot mseq type body).host? slot =
      some { h with outSeq := h.outSeq + 1, replies := NMap.set h.replies mseq (some (datagrams type h.sid h.outSeq body)) } ∧
    (answer s slot mseq type body).ctxs = s.ctxs ∧ (answer s slot mseq type body).mem = s.mem ∧
    (portPaused s h.port 0 = false → (answer s slot mseq type body).out = s.out ++ [.message h.port (datagrams type h.sid h.outSeq body)]) := by
  rw [answer_known hs]
  exact ⟨State.host?_setHost .., sendSegs_ctxs .., sendSegs_mem .., sendSegs_out _ _⟩

end

/-! ### Messages of a host -/

theorem protect_frame (s : State) (slot : Nat) (h : HostRec) (f : FrameInfo) (exempt : Bool) : (protect s slot h f exempt).1 =
    { s with hosts := (protect s slot h f exempt).1.hosts, ports := (protect s slot h f exempt).1.ports } := by
  unfold protect
  split
  · split
    all_goals rfl
  · split
    all_goals rfl

/-- A frame of a host changes the hosts' and the ports' records, and sends at most a pause and a congestion notice. -/
theorem frameState_frame (s : State) (slot : Nat) (h : HostRec) (f : FrameInfo) : frameState s slot h f =
    { s with hosts := (frameState s slot h f).hosts, ports := (frameState s slot h f).ports, out := (frameState s slot h f).out } := by
  unfold frameState
  dsimp only
  split
  · rw [toHost_frame, protect_frame, arrive_frame]
  · rw [protect_frame, arrive_frame]

section
variable (s : State) (slot : Nat) (h : HostRec) (m : MsgHead) (f : FrameInfo)

theorem messageState_mem : (messageState s slot h m f).mem = s.mem := by
  rw [messageState, State.setHost_mem, frameState_frame]
theorem messageState_units : (messageState s slot h m f).units = s.units := by
  rw [messageState, State.setHost_units, frameState_frame]
theorem messageState_host : (messageState s slot h m f).host? slot = some (messageHost h m f) := State.host?_setHost ..
theorem messageHost_tenant : (messageHost h m f).tenant = h.tenant := by rw [messageHost, frameHost_frame]
theorem messageHost_rekey : (messageHost h m f).rekey = h.rekey := by rw [messageHost, frameHost_frame]
theorem messageHost_keys : (messageHost h m f).keySet = h.keySet ∧ (messageHost h m f).keys = h.keys := by
  rw [messageHost, frameHost_frame]
  exact ⟨rfl, rfl⟩

end

@[simp] theorem portState_ctxs (s : State) (port : Nat) (f : FrameInfo) : (portState s port f).ctxs = s.ctxs := by
  rw [portState, arrive_frame]

theorem hostMessage_taken {s : State} {slot len : Nat} {h : HostRec} {m : MsgHead} {f : FrameInfo} (taken : MessageTaken s slot h m len f false)
    (k : State → HostRec → State) : hostMessage s slot m len f k = k (messageState s slot h m f) (messageHost h m f) :=
  (hostFrame_taken taken.toFrameTaken _).trans (takeMessage_taken taken k)

end Sys2Proof.Machine

/-!
PROOFS. ATTACH_AUTH, and what an attachment does once it runs (R334, R335, R337, R338, R344 to R346).
-/

namespace Sys2Proof.Machine

/-! ### ATTACH_AUTH (R338 step 5) -/

/-- The record of a host that is accepted. -/
def acceptedHost (s : State) (x : Session) (slot tenant : Nat) : HostRec :=
  let resumed := (slotOf s x.req.hkdig).isSome
  let ack := datagrams tyAck x.sid 1 (ackBody slot resumed (netHold s) (netKaint s) (confirm x.keys.kconf 2 x.t))
  { hkdig := x.req.hkdig, tenant := tenant, port := x.req.port, mac := x.mac, sid := x.sid, umax := x.req.umax, enc := wantsEnc x.req,
    phase := .attached, resumed := resumed, hold := netHold s, kaint := netKaint s, reg := none, keySet := 0, keys := x.keys, oldKeys := none,
    rekey := none, rxNext := 1, rxOldNext := 1, outSeq := 2, replies := NMap.set (NMap.set [] x.req.head.mseq (some x.reply)) x.authSeq (some ack),
    detachSeq := none, plainOk := true, qps := [] }

section
variable (s : State) (x : Session) (slot tenant : Nat)

/-- What an accepted attach leaves: the host in its slot, no session of its number, the acknowledgement sent by a port that is not paused. -/
theorem acceptHost_accepts : (acceptHost s x slot tenant).host? slot = some (acceptedHost s x slot tenant) ∧
    (portPaused s x.req.port 0 = false → (acceptHost s x slot tenant).out = s.out ++ [.message x.req.port (datagrams tyAck x.sid 1
      (ackBody slot (acceptedHost s x slot tenant).resumed (netHold s) (netKaint s) (confirm x.keys.kconf 2 x.t)))]) ∧
    (acceptHost s x slot tenant).ctxs = s.ctxs ∧ (acceptHost s x slot tenant).mem = s.mem ∧
    (acceptHost s x slot tenant).sessions = s.sessions.filter (fun y => y.sid != x.sid) := by
  let t : State := ({ s with sessions := s.sessions.filter (fun y => y.sid != x.sid) } : State).setHost slot (acceptedHost s x slot tenant)
  exact ⟨(sendSegs_host? t ..).trans (State.host?_setHost ..), sendSegs_out (s := t) _ _, sendSegs_ctxs t .., sendSegs_mem t ..,
    sendSegs_sessions t ..⟩

end

theorem attachStep5_good {s : State} {x : Session} {k slot : Nat} (opened : attachOpen s = true) (tenant : tenantOf s x.req.hkdig = some k)
    (enc : encRefused s k x.req = false) (held : ∀ p, slotOf s x.req.hkdig = some p → p.2.phase = .hold) (first : waitsBefore s x = false)
    (room : slotFor s x.req.hkdig = some slot) : attachStep5 s x =
      if drydownRuns s k then modSession s x.sid (fun y => { y with authSeq := x.authSeq, waiting := some slot }) else acceptHost s x slot k := by
  have free : (((slotOf s x.req.hkdig).map (fun p => p.2.phase != .hold)).getD false || waitsBefore s x) = false := by
    rw [first, Bool.or_false]
    cases own : slotOf s x.req.hkdig with
    | none => rfl
    | some p => rw [Option.map_some, Option.getD_some, held p own, bne_self_eq_false]
  rw [attachStep5, opened]
  dsimp only
  rw [tenant]
  dsimp only
  rw [enc, free, room]
  rfl

section
variable {s : State} {port : Nat} {m : MsgHead} {f : FrameInfo} (taken : PortFrameTaken s port f (unfinished s m.sid)) (whole : msgComplete m = true)
include taken whole

/-- An ATTACH_AUTH of an open session: its form, its signature and confirmation, then step 5. -/
theorem exec_attachAuth {sigOk : Bool} {hconf : BitVec 512} {x : Session} (fresh : storedReply (portState s port f) m.sid m.mseq = none)
    (hx : s.sessions.find? (fun y => y.sid == m.sid) = some x) (idle : x.waiting = none) :
    exec (.attachAuth port m sigOk hconf f) s = .next (
      if msgWellFormed m 4691 = false then refuseAttach (portState s port f) x.req.port m.sid 1 0x0A x.req.hkdig
      else if sigOk = false ∨ hconf ≠ confirm x.keys.kconf 1 x.t then refuseAttach (portState s port f) x.req.port m.sid 1 0x07 x.req.hkdig
      else attachStep5 (portState s port f) { x with authSeq := m.mseq }) := by
  rw [show exec (.attachAuth port m sigOk hconf f) s = execAttachAuth port m sigOk hconf f s from rfl, execAttachAuth, portFrame_taken taken]
  simp [whole, fresh, hx, idle]

theorem exec_reservedAttachMessage {type : Nat} (reserved : type ∉ attachTypes) : exec (.reservedAttachMessage port m type f) s =
    .next ((sendRefuse (portState s port f) port m.sid 0 0x0A).logMgmt 0x43 port 31 0x0A 0) := by
  rw [show exec (.reservedAttachMessage port m type f) s = execReservedAttachMessage port m type f s from rfl, execReservedAttachMessage,
    if_neg (mt List.contains_iff_mem.1 reserved), portFrame_taken taken, if_pos whole]

end

/-! ### Keepalives (R344) -/

section
variable {s : State} {slot : Nat} {h : HostRec}

/-- A good KEEPALIVE is an authenticated frame and no more. -/
theorem exec_keepalive {m : MsgHead} {f : FrameInfo} (taken : FrameTaken s slot h f false) (inside : f.sec.isSome = true) (session : m.sid = h.sid)
    (form : msgWellFormed m 0 = true) : exec (.keepalive slot m f) s = .next (frameState s slot h f) := by
  have sid : (frameHost h f).sid = h.sid := by rw [frameHost_frame]
  refine congrArg Host.Outcome.next ((hostFrame_taken taken _).trans (if_neg ?_))
  rw [sid, session, form, bne_self_eq_false, ← Option.not_isSome, inside, Bool.not_true, Bool.or_self, Bool.or_self, Bool.and_false]
  decide

variable (hs : s.host? slot = some h)
include hs

theorem exec_keepaliveSend (up : h.linked = true) : exec (.keepaliveSend slot) s = .next (sendMessage s slot tyKeepalive []) := by
  rw [show exec (.keepaliveSend slot) s = execKeepaliveSend slot s from rfl, execKeepaliveSend, hs]
  exact congrArg Host.Outcome.next (if_pos up)

theorem exec_unprotectedFrameWindowEnd : exec (.unprotectedFrameWindowEnd slot) s = .next (s.setHost slot { h with plainOk := false }) := by
  rw [show exec (.unprotectedFrameWindowEnd slot) s = execUnprotectedFrameWindowEnd slot s from rfl, execUnprotectedFrameWindowEnd, NMap.modify,
    show NMap.get? s.hosts slot = some h from hs]
  rfl

theorem exec_oldKeyExpiry : exec (.oldKeyExpiry slot) s = .next (s.setHost slot { h with oldKeys := none }) := by
  rw [show exec (.oldKeyExpiry slot) s = execOldKeyExpiry slot s from rfl, execOldKeyExpiry, hs]

end

/-! ### New keys (R337, R338) -/

theorem fixLen_length (n : Nat) (l : Bytes) : (fixLen n l).length = n := by
  rw [fixLen, List.length_take, List.length_append, List.length_replicate, Nat.min_eq_left (Nat.le_add_left ..)]

theorem reqFields_length (avmin avmax umax enc rsv : Nat) (nonce : BitVec 256) : (reqFields avmin avmax umax enc rsv nonce).length = 40 := by
  simp only [reqFields, List.length_append, toBytes_size]

theorem chalFields_length (rlen : Nat) (nonce : BitVec 256) : (chalFields rlen nonce).length = 40 := by
  simp only [chalFields, List.length_append, toBytes_size, List.length_cons, List.length_nil]

/-- The request of an exchange that the module starts. -/
def ownRekeyReq (s : State) (h : HostRec) : Bytes :=
  reqFields 1 1 0x10 (b2n h.enc) 0 (Config.nonce s.freeIx) ++ fixLen 1568 (Config.kemKey s.freeIx)

theorem ownRekeyReq_length (s : State) (h : HostRec) : (ownRekeyReq s h).length = 1608 := by
  rw [ownRekeyReq, List.length_append, reqFields_length, fixLen_length]

/-- The host in an exchange that the module has started. -/
def rekeying (s : State) (h : HostRec) : HostRec :=
  { h with rekey := some { started := true, req := ownRekeyReq s h, draw := s.freeIx, fixed := none } }

theorem exec_rekeyStart {s : State} {slot : Nat} {h : HostRec} (hs : s.host? slot = some h) (up : h.linked = true) (idle : h.rekey = none) :
    exec (.rekeyStart slot) s = .next (sendMessage (s.tick.setHost slot (rekeying s h)) slot tyRekey (ownRekeyReq s h)) := by
  rw [show exec (.rekeyStart slot) s = execRekeyStart slot s from rfl, execRekeyStart, hs]
  exact if_neg (by rw [up, idle]; decide)

section
variable {s : State} {slot mseq : Nat} {h : HostRec}

/-- A request that either side may open an exchange with. -/
theorem rekeyStep_req (avmin avmax umax enc rsv : Nat) (nonce : BitVec 256) (ek : Bytes) :
    rekeyStep s slot h mseq (.req avmin avmax umax enc rsv nonce ek) =
      if rsv ≠ 0 ∨ enc / 2 ≠ 0 then refuseRekey s slot h mseq 0x0A
      else if 1 < avmin ∨ avmax < 1 then refuseRekey s slot h mseq 0x01
      else rekeyReq s slot h mseq (reqFields avmin avmax umax enc rsv nonce ++ fixLen 1568 ek) ek := by
  rw [rekeyStep]

variable {req : Bytes} {n : Nat} {t : BitVec 512} {k : KeySet}

theorem rekeyStep_auth_refused {sigOk : Bool} {conf : BitVec 512}
    (asked : h.rekey = some { started := false, req := req, draw := n, fixed := some (t, k) }) (bad : sigOk = false ∨ conf ≠ confirm k.kconf 1 t) :
    rekeyStep s slot h mseq (.auth sigOk conf) = refuseRekey s slot h mseq 0x07 := by
  unfold rekeyStep
  rw [asked]
  exact if_pos (by rwa [Bool.or_eq_true, Bool.not_eq_true', bne_iff_ne])

/-- The host as the acknowledgement of its REKEY leaves it. -/
def rekeyAnswered (slot : Nat) (h : HostRec) (mseq : Nat) (t : BitVec 512) (k : KeySet) : HostRec :=
  let acknowledgement := datagrams tyRekey h.sid h.outSeq (ackBody slot h.resumed h.hold h.kaint (confirm k.kconf 2 t))
  { h with outSeq := h.outSeq + 1, replies := NMap.set h.replies mseq (some acknowledgement) }

theorem rekeyStep_auth_good (hs : s.host? slot = some h) (asked : h.rekey = some { started := false, req := req, draw := n, fixed := some (t, k) }) :
    rekeyStep s slot h mseq (.auth true (confirm k.kconf 1 t)) =
      installKeys (answer s slot mseq tyRekey (ackBody slot h.resumed h.hold h.kaint (confirm k.kconf 2 t))) slot
        (rekeyAnswered slot h mseq t k) k := by
  unfold rekeyStep
  rw [asked]
  dsimp only
  rw [if_neg (by rw [bne_self_eq_false]; decide), (answer_sent hs ..).1]
  rfl

theorem rekeyStep_ack_good (asked : h.rekey = some { started := true, req := req, draw := n, fixed := some (t, k) }) :
    rekeyStep s slot h mseq (.ack 0 (confirm k.kconf 2 t)) = installKeys s slot h k := by
  unfold rekeyStep
  rw [asked]
  exact if_neg (by simp)

/-- New keys leave the host with the next key set, and nothing else of the contexts. -/
theorem installKeys_installs : ∃ hz, (installKeys s slot h k).host? slot = some hz ∧ hz.keySet = h.keySet + 1 ∧ hz.keys = k ∧
    hz.oldKeys = some h.keys ∧ hz.rekey = none ∧ hz.rxNext = 1 ∧ (installKeys s slot h k).ctxs = s.ctxs :=
  ⟨_, State.host?_setHost .., rfl, rfl, rfl, rfl, rfl, rfl⟩

end

theorem exec_rekey {s : State} {slot : Nat} {h : HostRec} {m : MsgHead} {b : RekeyMsg} {f : FrameInfo}
    (taken : MessageTaken s slot h m (rekeyLen b) f false) :
    exec (.rekey slot m b f) s = .next (rekeyStep (messageState s slot h m f) slot (messageHost h m f) m.mseq b) :=
  congrArg Host.Outcome.next (hostMessage_taken taken _)

/-! ### Sessions that wait too long (R338) -/

/-- What is left of the sessions when one of them has waited too long. -/
def sessionLeft (s : State) (sid : Nat) : State := { s with sessions := s.sessions.filter (fun x => x.sid != sid || x.waiting.isSome) }

theorem exec_attachSessionTimeout_bare {s : State} {sid slot : Nat} {h : HostRec}
    (found : s.hosts.find? (fun p => p.2.sid == sid && p.2.phase == .attached) = some (slot, h)) (bare : ctxsOf s slot = []) :
    exec (.attachSessionTimeout sid) s = .next (freeHost (sessionLeft s sid) slot) := by
  rw [show exec (.attachSessionTimeout sid) s = execAttachSessionTimeout sid s from rfl, execAttachSessionTimeout, found]
  dsimp only
  rw [bare]
  rfl

theorem exec_attachSessionTimeout_unattached {s : State} {sid : Nat} (other : ∀ p ∈ s.hosts, p.2.sid ≠ sid) :
    exec (.attachSessionTimeout sid) s = .next (sessionLeft s sid) := by
  have absent : s.hosts.find? (fun p => p.2.sid == sid && p.2.phase == .attached) = none :=
    List.find?_eq_none.2 fun p hp => by rw [beq_false_of_ne (other p hp), Bool.false_and]; decide
  rw [show exec (.attachSessionTimeout sid) s = execAttachSessionTimeout sid s from rfl, execAttachSessionTimeout, absent]
  rfl

/-! ### The statement -/

/-- Settles O43: an ATTACH_AUTH by `exec_attachAuth` and what step 5 does, a REKEY by the step of its body, the other events by their equations. -/
theorem attachmentsBeginAndGoOn : Obligations.AttachmentsBeginAndGoOn := by
  unfold Obligations.AttachmentsBeginAndGoOn
  refine ⟨fun s port m f taken whole => ?_, fun s slot h hs => ?_, fun s slot h m b f taken => ?_, fun s sid slot h => exec_attachSessionTimeout_bare,
    fun s sid => exec_attachSessionTimeout_unattached⟩
  · intro a
    refine ⟨fun x sigOk hconf fresh hx idle => ?_, fun type => exec_reservedAttachMessage taken whole⟩
    have own : x.sid = m.sid := by simpa using List.find?_some hx
    have asked := exec_attachAuth (sigOk := sigOk) (hconf := hconf) taken whole fresh hx idle
    refine ⟨fun form => ?_, fun form bad => ?_, fun k slot form signed confirmed opened tenant enc held first room => ?_⟩
    · rw [asked, if_pos form]
    · rw [asked, if_neg (by rw [form]; decide), if_pos bad]
    · rw [if_neg (by rw [form]; decide), if_neg (by simp [signed, confirmed]),
        attachStep5_good (x := { x with authSeq := m.mseq }) opened tenant enc held first room] at asked
      refine ⟨fun dry => ?_, fun dry => ?_⟩
      · rw [if_pos dry, own] at asked
        exact asked
      · rw [if_neg (Bool.eq_false_iff.1 dry)] at asked
        obtain ⟨host, sent, ctxs, mem, sessions⟩ := acceptHost_accepts a { x with authSeq := m.mseq } slot k
        refine ⟨_, _, asked, host, rfl, rfl, rfl, rfl, rfl, rfl, rfl, Iff.rfl, rfl, rfl, rfl, rfl, sent, ?_, ?_, fun y => ?_⟩
        · rw [ctxs, portState_ctxs]
        · rw [mem, portState_mem]
        · rw [sessions, portState_sessions, List.mem_filter, bne_iff_ne]
  · refine ⟨exec_unprotectedFrameWindowEnd hs, exec_oldKeyExpiry hs, fun m f => exec_keepalive, fun up => ?_, fun up idle => ?_⟩
    · obtain ⟨host, ctxs, sent⟩ := sendMessage_sent hs tyKeepalive []
      exact ⟨_, exec_keepaliveSend hs up, host, ctxs, sent⟩
    · obtain ⟨host, ctxs, sent⟩ := sendMessage_sent (State.host?_setHost s.tick slot (rekeying s h)) tyRekey (ownRekeyReq s h)
      exact ⟨_, _, exec_rekeyStart hs up idle, ownRekeyReq_length s h, ctxs, host, sent⟩
  · intro a h'
    have asked := exec_rekey taken
    refine ⟨fun avmin avmax umax enc rsv nonce ek body => ?_, fun sigOk conf req n t k body exchange => ?_,
      fun result conf req n t k body exchange good confirmed => ?_⟩
    · rw [body, rekeyStep_req] at asked
      subst body
      refine ⟨fun reserved => ?_, fun rsv0 known version => ?_, fun rsv0 known low high => ?_⟩
      · rw [asked, if_pos (by omega)]
      · rw [asked, if_neg (by omega), if_pos version]
      · rw [if_neg (by omega), if_neg (by omega)] at asked
        exact ⟨_, _, by rw [List.length_append, chalFields_length, fixLen_length], asked⟩
    · subst body
      have exchange' : h'.rekey = _ := (messageHost_rekey h m f).trans exchange
      refine ⟨fun bad => ?_, fun signed confirmed => ?_⟩
      · rw [asked, rekeyStep_auth_refused exchange' bad]
      · subst signed confirmed
        rw [rekeyStep_auth_good (messageState_host s slot h m f) exchange'] at asked
        obtain ⟨hz, host, keySet, keys, oldKeys, rekey, rxNext, ctxs⟩ := installKeys_installs
          (s := answer a slot m.mseq tyRekey (ackBody slot h'.resumed h'.hold h'.kaint (confirm k.kconf 2 t))) (slot := slot)
          (h := rekeyAnswered slot h' m.mseq t k) (k := k)
        obtain ⟨sameSet, sameKeys⟩ := messageHost_keys h m f
        refine ⟨_, hz, asked, host, keySet.trans (congrArg (· + 1) sameSet), keys, oldKeys.trans (congrArg some sameKeys), rekey, rxNext, ?_⟩
        rw [ctxs, (answer_sent (messageState_host s slot h m f) ..).2.1, messageState_ctxs]
    · subst body good confirmed
      rw [asked, rekeyStep_ack_good ((messageHost_rekey h m f).trans exchange)]

end Sys2Proof.Machine

/-!
PROOFS. REGISTER, CTX_CREATE and CTX_DESTROY (R334, R341 to R343, R345, R391).
-/

namespace Sys2Proof.Machine

/-! ### REGISTER (R341, R345) -/

/-- A message whose number has been answered gets the same answer. -/
theorem takeMessage_answered {slot len : Nat} {m : MsgHead} {f : FrameInfo} {k : State → HostRec → State} {s : State} {h : HostRec} {l : List Bytes}
    (whole : msgComplete m = true) (stored : NMap.get? h.replies m.mseq = some (some l)) :
    takeMessage slot m len f k s h = sendSegs s h.port (some slot) l := by
  rw [takeMessage, if_neg (by rw [whole]; decide), stored]

section
variable {s : State} {slot : Nat} {h : HostRec} {m : MsgHead} {b : RegisterMsg} {f : FrameInfo}

theorem exec_register_answered {l : List Bytes} (taken : FrameTaken s slot h f false) (whole : msgComplete m = true)
    (stored : NMap.get? h.replies m.mseq = some (some l)) :
    exec (.register slot m b f) s = .next (sendSegs (frameState s slot h f) h.port (some slot) l) := by
  have replies : (frameHost h f).replies = h.replies := by rw [frameHost_frame]
  have port : (frameHost h f).port = h.port := by rw [frameHost_frame]
  refine congrArg Host.Outcome.next ((hostFrame_taken taken _).trans ((takeMessage_answered whole (replies ▸ stored)).trans ?_))
  rw [port]

theorem exec_register (taken : MessageTaken s slot h m (40 + 24 * b.wins.length) f false) :
    exec (.register slot m b f) s = .next (registerHost slot m.mseq b (messageState s slot h m f) (messageHost h m f)) :=
  congrArg Host.Outcome.next (hostMessage_taken taken _)

end

section
variable {s : State} {slot mseq : Nat} {h : HostRec} {b : RegisterMsg}

/-- A host that is attached and does not detach may register. -/
theorem registerHost_attached (on : h.phase = .attached ∨ h.phase = .registered) : registerHost slot mseq b s h =
    if b.rsv ≠ 0 then refuseHost s slot mseq 0x0A
    else if regOk b = false then answer s slot mseq tyRegAck (regAckBody 0x0C 0 0 [])
    else if h.phase = .attached then firstRegister s slot mseq h b
    else answer (s.setHost slot { h with reg := some (hostReg b) }) slot mseq tyRegAck
      (regAckBody 0 ((h.qps.head?.map (·.qpn)).getD 0) ((h.qps.head?.map (·.psn)).getD 0) []) := by
  unfold registerHost
  rcases on with phase | phase
  all_goals simp only [phase, Bool.not_eq_true']

/-- The host once it has registered. -/
def registeredHost (s : State) (h : HostRec) (b : RegisterMsg) : HostRec :=
  { h with phase := .registered, plainOk := false, reg := some (hostReg b), qps := [QPair.fresh (freshQp s) (freshPsn s) (b.hqpn % 2 ^ 24) b.hpsn] }

/-- The first REGISTER of a host with no context to resume. -/
theorem firstRegister_bare (bare : ctxsOf s slot = []) : firstRegister s slot mseq h b =
    answer (s.setHost slot (registeredHost s h b)).tick slot mseq tyRegAck (regAckBody 0 (freshQp s) (freshPsn s) []) := by
  rw [firstRegister, ctxsOf_congr (show (State.tick (s.setHost slot _)).ctxs = s.ctxs from rfl), bare]
  rfl

end

/-! ### CTX_CREATE (R342, R343) -/

/-- The lowest free key is free, and every key below it is not. -/
theorem NMap.lowestFree_spec {α : Type} {m : NMap α} : ∀ {n lo k : Nat}, NMap.lowestFree m lo n = some k →
    NMap.has m k = false ∧ ∀ j, lo ≤ j → j < k → NMap.has m j = true
  | 0, _, _, h => nomatch h
  | n + 1, lo, k, h => by
    unfold NMap.lowestFree at h
    split at h
    next taken =>
      obtain ⟨free, below⟩ := NMap.lowestFree_spec h
      refine ⟨free, fun j low high => ?_⟩
      rcases Nat.eq_or_lt_of_le low with rfl | later
      · exact taken
      · exact below j later high
    next free =>
      cases h
      exact ⟨Bool.eq_false_iff.2 free, fun j low high => absurd high (Nat.not_lt.2 low)⟩

theorem exec_ctxCreate {s : State} {slot : Nat} {h : HostRec} {m : MsgHead} {b : CtxCreateMsg} {f : FrameInfo}
    (taken : MessageTaken s slot h m 12 f false) :
    exec (.ctxCreate slot m b f) s = .next (createHost slot m.mseq b (messageState s slot h m f) (messageHost h m f)) :=
  congrArg Host.Outcome.next (hostMessage_taken taken _)

/-- The answer to a CTX_CREATE that is refused. -/
def createRefused (s : State) (slot mseq result : Nat) : State := answer s slot mseq tyCtxAck (ctxAckBody result 0 0 0 0 0)

theorem createHost_registered {s : State} {slot mseq : Nat} {h : HostRec} {b : CtxCreateMsg} (on : h.phase = .registered) :
    createHost slot mseq b s h = if b.rsv ≠ 0 ∨ (b.stat ≠ 1 ∧ b.stat ≠ 2) then createRefused s slot mseq 0x0A
      else if quotaRefused s h.tenant then createRefused s slot mseq 0x0B
      else (NMap.lowestFree s.ctxs 0 256).elim (createRefused s slot mseq 0x0B) (fun cn => createCtx s slot mseq cn h b) := by
  unfold createHost
  rw [on]
  dsimp only
  cases NMap.lowestFree s.ctxs 0 256
  all_goals rfl

/-! ### CTX_DESTROY (R342, R391) -/

/-- In a context only its sequences and their pool of slots differ, and units run as before. -/
def OnlyPaged (cn : Nat) (c : Ctx) (us : NMap Run) (s : State) : Prop :=
  s.units = us ∧ ∃ c', s.ctx? cn = some c' ∧ { c' with kv := c.kv, seqs := c.seqs } = c

section
variable {cn : Nat} {c : Ctx} {us : NMap Run} {s : State}

/-- A write to memory leaves it so. -/
theorem OnlyPaged.of_mem {t : State} (h : OnlyPaged cn c us s) (only : t = { s with mem := t.mem }) : OnlyPaged cn c us t := by
  rw [only]
  exact h

/-- So does a change of the sequences and their pool. -/
theorem OnlyPaged.modCtx {g : Ctx → Ctx} (h : OnlyPaged cn c us s) (only : ∀ x : Ctx, { g x with kv := x.kv, seqs := x.seqs } = x) :
    OnlyPaged cn c us (s.modCtx cn g) := by
  obtain ⟨units, c', found, same⟩ := h
  refine ⟨units, g c', State.ctx?_modCtx found, ?_⟩
  rw [← same]
  exact congrArg (fun x : Ctx => { x with kv := c.kv, seqs := c.seqs }) (only c')

theorem OnlyPaged.foldl {α : Type} {g : State → α → State} (keeps : ∀ s x, OnlyPaged cn c us s → OnlyPaged cn c us (g s x)) :
    ∀ (l : List α) {s : State}, OnlyPaged cn c us s → OnlyPaged cn c us (l.foldl g s)
  | [], _, h => h
  | x :: r, s, h => OnlyPaged.foldl keeps r (keeps s x h)

theorem fwWrite_frame (s : State) (cn va : Nat) (bs : Bytes) : fwWrite s cn va bs = { s with mem := (fwWrite s cn va bs).mem } := by
  unfold fwWrite
  split
  all_goals rfl

theorem setEntry_frame (s : State) (cn : Nat) (q : SeqRec) (p addr ps : Nat) :
    setEntry s cn q p addr ps = { s with mem := (setEntry s cn q p addr ps).mem } := by
  unfold setEntry
  split
  · rfl
  · split
    · split
      · exact fwWrite_frame ..
      · rfl
    · rfl

theorem setSeqState_frame (s : State) (cn : Nat) (q : SeqRec) (st : Nat) : setSeqState s cn q st = { s with mem := (setSeqState s cn q st).mem } := by
  unfold setSeqState
  split
  · rfl
  · split
    · exact fwWrite_frame ..
    · rfl

theorem OnlyPaged.returnSlot (h : OnlyPaged cn c us s) (sn a : Nat) : OnlyPaged cn c us (returnSlot s cn sn a) := by
  refine h.modCtx fun x => ?_
  split
  · rfl
  · split
    all_goals rfl

/-- The transfers of a context's page sets that are undone touch memory, sequences and slots. -/
theorem OnlyPaged.kvHalt (h : OnlyPaged cn c us s) : OnlyPaged cn c us (kvHalt s cn) := by
  unfold Machine.kvHalt
  split
  · exact h
  · refine OnlyPaged.foldl (fun s x h => ?_) _ (h.modCtx fun _ => rfl)
    dsimp only
    split
    · refine OnlyPaged.modCtx (.of_mem ?_ (setSeqState_frame ..)) fun _ => rfl
      refine OnlyPaged.foldl (fun s p h => ?_) _ (OnlyPaged.foldl (fun s p h => ?_) _ h)
      · split
        · exact OnlyPaged.returnSlot (h.of_mem (setEntry_frame ..)) _ _
        · exact h
      · split
        · exact h.of_mem (setEntry_frame ..)
        · exact h
    · exact h

/-- A context with no sequence has no page set under way. -/
theorem kvHalt_mem (hc : s.ctx? cn = some c) (none_paged : c.seqs = []) : (kvHalt s cn).mem = s.mem := by
  rw [kvHalt, hc]
  dsimp only
  rw [none_paged, List.foldl_nil]
  rfl

/-- The context once its Drydown has begun. -/
def dryingCtx (c : Ctx) : Ctx := { c with drydown := true, active := false, heldRecs := [], cqfull := false, apend := none, taken := [] }

/-- A Drydown begins in the context, in the log, and with a Squall; then transfers of page sets stop. -/
theorem beginDrydown_begins (hc : s.ctx? cn = some c) (up : c.drydown = false) : OnlyPaged cn (dryingCtx c) s.units (beginDrydown s cn) ∧
    (c.seqs = [] → (beginDrydown s cn).mem = s.mem) := by
  rw [beginDrydown, hc]
  dsimp only
  rw [if_neg (Bool.eq_false_iff.1 up)]
  exact ⟨.kvHalt ⟨rfl, dryingCtx c, State.ctx?_setCtx .., rfl⟩, fun none_paged => kvHalt_mem (State.ctx?_setCtx ..) none_paged⟩

end

theorem exec_ctxDestroy {s : State} {slot cn : Nat} {h : HostRec} {m : MsgHead} {f : FrameInfo} (taken : MessageTaken s slot h m 1 f false) :
    exec (.ctxDestroy slot m cn f) s = .next (destroyHost slot m.mseq cn (messageState s slot h m f) (messageHost h m f)) :=
  congrArg Host.Outcome.next (hostMessage_taken taken _)

section
variable {s : State} {slot mseq cn : Nat} (h : HostRec)

theorem destroyHost_foreign (foreign : ∀ c, s.ctx? cn = some c → c.slot ≠ slot) :
    destroyHost slot mseq cn s h = answer s slot mseq tyCtxDone [0x0D] := by
  unfold destroyHost
  split
  · rfl
  next c hc => exact if_pos (foreign c hc)

theorem destroyHost_own {c : Ctx} (hc : s.ctx? cn = some c) (own : c.slot = slot) (up : c.drydown = false) :
    destroyHost slot mseq cn s h = beginDrydown (s.setCtx cn { c with ctxDone := some mseq }) cn := by
  rw [destroyHost, hc]
  dsimp only
  rw [if_neg (not_not.2 own), if_neg (Bool.eq_false_iff.1 up)]

end

/-! ### The statement -/

/-- Settles O44: a REGISTER by its form and the host's phase, a CTX_CREATE by its checks and the lowest free number, a CTX_DESTROY by whose the
context is and what the start of a Drydown leaves. -/
theorem registrationAndContextsComplete : Obligations.RegistrationAndContextsComplete := by
  unfold Obligations.RegistrationAndContextsComplete
  refine ⟨fun s slot h m b f l => exec_register_answered, fun s slot h m b f taken => ?_, fun s slot h m b f taken => ?_,
    fun s slot cn h m f taken => ?_⟩
  · intro a h'
    have phase : h'.phase = h.phase := messageHost_phase h m f
    have asked (on : h.phase = .attached ∨ h.phase = .registered) := (exec_register taken).trans
      (congrArg Host.Outcome.next (registerHost_attached (s := a) (slot := slot) (mseq := m.mseq) (b := b) (phase ▸ on)))
    refine ⟨fun on reserved => ?_, fun on plain bad => ?_, fun attached plain good bare => ?_, fun attached plain good => ?_,
      fun registered plain good => ?_⟩
    · rw [asked on, if_pos reserved]
    · rw [asked on, if_neg (not_not.2 plain), if_pos bad]
    · have bare' : ctxsOf a slot = [] := (ctxsOf_congr (messageState_ctxs s slot h m f) slot).trans bare
      obtain ⟨host, ctxs, mem, sent⟩ := answer_sent (State.host?_setHost a.tick slot (registeredHost a h' b)) tyRegAck
        (regAckBody 0 (freshQp a) (freshPsn a) []) m.mseq
      have done := asked (.inl attached)
      rw [if_neg (not_not.2 plain), if_neg (by rw [good]; decide), if_pos (phase.trans attached), firstRegister_bare bare'] at done
      refine ⟨_, _, freshQp a, freshPsn a, done, host, rfl, rfl, rfl, rfl, Nat.mod_lt _ (Nat.two_pow_pos _), Nat.mod_lt _ (Nat.two_pow_pos _),
        fun flows => ?_, ctxs.trans (messageState_ctxs s slot h m f), mem.trans (messageState_mem s slot h m f)⟩
      have acknowledged := sent (by rw [← messageHost_port h m f] at flows; exact flows)
      rw [show (registeredHost a h' b).port = h.port from messageHost_port h m f, show (registeredHost a h' b).sid = h.sid from messageHost_sid h m f,
        show (registeredHost a h' b).outSeq = h.outSeq from messageHost_outSeq h m f] at acknowledged
      exact acknowledged
    · rw [asked (.inl attached), if_neg (not_not.2 plain), if_neg (by rw [good]; decide), if_pos (phase.trans attached)]
    · have done := asked (.inr registered)
      rw [if_neg (not_not.2 plain), if_neg (by rw [good]; decide), if_neg (by rw [phase, registered]; decide)] at done
      exact ⟨_, _, done⟩
  · intro a no
    have asked (on : h.phase = .registered) := (exec_ctxCreate (b := b) taken).trans (congrArg Host.Outcome.next
      (createHost_registered (s := a) (slot := slot) (mseq := m.mseq) (b := b) ((messageHost_phase h m f).trans on)))
    rw [messageHost_tenant] at asked
    refine ⟨fun on bad => ?_, fun on plain known full => ?_, fun cn on plain known room lowest => ?_⟩
    · rw [asked on, if_pos bad]
      rfl
    · rw [asked on, if_neg (by omega), if_pos full]
      rfl
    · obtain ⟨free, below⟩ := NMap.lowestFree_spec lowest
      refine ⟨free, fun k high => below k (Nat.zero_le k) high, ?_⟩
      rw [asked on, if_neg (by omega), if_neg (Bool.eq_false_iff.1 room), show a.ctxs = s.ctxs from messageState_ctxs s slot h m f, lowest,
        Option.elim_some]
  · intro a
    have same : a.ctx? cn = s.ctx? cn := congrArg (NMap.get? · cn) (messageState_ctxs s slot h m f)
    rw [exec_ctxDestroy taken]
    refine ⟨fun foreign => ?_, fun c hc own up => ?_⟩
    · rw [destroyHost_foreign _ (same ▸ foreign)]
    · rw [destroyHost_own _ (same.trans hc) own up]
      obtain ⟨⟨units, c', found, changed⟩, mem⟩ := beginDrydown_begins (State.ctx?_setCtx a cn { c with ctxDone := some m.mseq }) up
      exact ⟨_, c', rfl, found, congrArg Ctx.drydown changed, congrArg Ctx.active changed, congrArg Ctx.ctxDone changed,
        congrArg Ctx.heldRecs changed, congrArg Ctx.apend changed, (congrArg Ctx.pages changed :),
        fun none_paged => (mem none_paged).trans (messageState_mem s slot h m f), units.trans (messageState_units s slot h m f)⟩

end Sys2Proof.Machine

/-!
PROOFS. The operations of a frame record: OPEN, CLOSE, ENCODE and DECODE (R349, R350, R352 to R357, R361 to R363).
-/

namespace Sys2Proof.Machine

/-! ### Frame tasks (R350, R352) -/

/-- A unit on a frame record, whose engine is up. -/
structure FrameTask (s : State) (u : UnitId) (r : Run) (c : Ctx) : Prop where
  run : s.run? u = some r
  phase : r.phase = .frame
  up : islandDown s 8 u.die u.idx = false
  ctx : s.ctx? r.ctx = some c

section
variable {s s1 : State} {u : UnitId} {r : Run} {c : Ctx}

theorem frameEvent_asked {op : Nat} {k : State → Run → Ctx → Nat → State} (task : FrameTask s u r c) (asked : frOp (frameRecord s r c) = op) :
    frameEvent u op s k = .next (k s r c (frameRecord s r c)) := by
  have runs : ¬(r.phase ≠ .frame ∨ islandDown s 8 u.die u.idx = true) := by simp [task.phase, task.up]
  simp only [frameEvent, task.run, task.ctx, if_neg runs, if_pos asked]

theorem frameDone_written {f : Nat} {res : FrameResult} {t : State} (written : taskWrite s r.ctx (frRes f) (toBytes 32 res.bits) = .ok t) :
    frameDone s u r f res = t.tick.setRun u { r with phase := .halting } := by
  rw [frameDone, written]

/-! ### OPEN and CLOSE (R353, R363) -/

theorem exec_videoOpen_full (task : FrameTask s u r c) (asked : frOp (frameRecord s r c) = 1) (full : openEngine s = none) :
    exec (.videoOpen u) s = .next (frameDone s u r (frameRecord s r c) (noPicture (newStream 0 (frameRecord s r c)) 3 0)) := by
  change execVideoOpen u s = _
  rw [execVideoOpen, frameEvent_asked task asked, full]

theorem exec_videoOpen_placed {e : Nat} (task : FrameTask s u r c) (asked : frOp (frameRecord s r c) = 1) (room : openEngine s = some e)
    (region : writeRegion s r.ctx (newStream e (frameRecord s r c)) = .ok s1) :
    exec (.videoOpen u) s = .next (frameDone (openStream s1 r.ctx (frStream (frameRecord s r c)) (newStream e (frameRecord s r c))) u r
      (frameRecord s r c) (noPicture (newStream e (frameRecord s r c)) 0 0)) := by
  change execVideoOpen u s = _
  rw [execVideoOpen, frameEvent_asked task asked]
  simp only [room, region]

theorem closeStream_ctx {cn k : Nat} {st : Stream} (hc : s.ctx? cn = some c) (opened : NMap.get? c.streams k = some st) :
    (closeStream s cn k).ctx? cn = some
      { c with streams := NMap.erase c.streams k, boundPast := NMap.set c.boundPast k (NMap.getD c.boundPast k [] ++ [st.bound]) } := by
  rw [closeStream, State.ctx?_modCtx hc, opened]

theorem exec_videoClose_opened {st : Stream} (task : FrameTask s u r c) (asked : frOp (frameRecord s r c) = 4)
    (opened : NMap.get? c.streams (frStream (frameRecord s r c)) = some st) :
    exec (.videoClose u) s = .next (frameDone (closeStream s r.ctx (frStream (frameRecord s r c))) u r (frameRecord s r c) (noPicture st 0 0)) := by
  change execVideoClose u s = _
  rw [execVideoClose, frameEvent_asked task asked, opened]

/-! ### ENCODE (R354, R355, R357, R361) -/

theorem exec_encode_waits (task : FrameTask s u r c) (asked : frOp (frameRecord s r c) = 2) (paused : hostPaused s c.slot = true) :
    exec (.encode u) s = .next s := by
  change execEncode u s = _
  rw [execEncode, frameEvent_asked task asked, if_pos paused]

theorem exec_encode_coded {st : Stream} {d : TD} {codes : List Nat} (task : FrameTask s u r c) (asked : frOp (frameRecord s r c) = 2)
    (flows : hostPaused s c.slot = false) (opened : NMap.get? c.streams (frStream (frameRecord s r c)) = some st) (picture : tslot r.T 0 = .ok d)
    (coded : pictureCodes s r.ctx c d st (frameRecord s r c) = .ok codes) :
    exec (.encode u) s = .next (encodePicture s u r c (frameRecord s r c) st codes) := by
  change execEncode u s = _
  rw [execEncode, frameEvent_asked task asked]
  simp only [flows, Bool.false_eq_true, if_false, opened, picture, coded]

/-- A picture whose bitstream fits its window and whose state region is written. -/
theorem encodePicture_sent {f : Nat} {st : Stream} {codes : List Nat} {w : Window}
    (fits : hostRange c (feHwin f) (feOff f) (pictureBits st (keyPicture st f) codes).length = .ok w)
    (region : writeRegion s r.ctx (afterPicture st (keyPicture st f) codes) = .ok s1) :
    encodePicture s u r c f st codes =
      frameDone ((putStream s1 r.ctx (frStream f) (afterPicture st (keyPicture st f) codes)).toHost c.slot (some r.ctx) none
        (.hostWrite c.slot w.rkey (w.va + feOff f) (pictureBits st (keyPicture st f) codes))) u r f
        (pictureResult st (keyPicture st f) codes) := by
  simp only [encodePicture, fits, region]

theorem pictureQuant_constant {st : Stream} {key : Bool} {codes : List Nat} (constant : (RcValue.parse st.rc.toNat).mode = 2) :
    pictureQuant st key codes = (RcValue.parse st.rc.toNat).qp := if_pos constant

/-! ### DECODE (R362) -/

theorem exec_decode_written {st : Stream} {d : TD} {b : Bytes} {s2 : State} {data : Bytes} (task : FrameTask s u r c)
    (asked : frOp (frameRecord s r c) = 3) (opened : NMap.get? c.streams (frStream (frameRecord s r c)) = some st) (picture : tslot r.T 0 = .ok d)
    (unit : unitBytes s r.ctx c (frameRecord s r c) data = .ok b)
    (region : writeRegion s r.ctx (decodeStep d st (frameRecord s r c) b).1 = .ok s1)
    (stored : runWrites s1 r.ctx d false (decodeStep d st (frameRecord s r c) b).2.2 = (s2, none)) :
    exec (.decode u data) s = .next (frameDone (putStream s2 r.ctx (frStream (frameRecord s r c)) (decodeStep d st (frameRecord s r c) b).1) u r
      (frameRecord s r c) (decodeStep d st (frameRecord s r c) b).2.1) := by
  change execDecode u data s = _
  rw [execDecode, frameEvent_asked task asked]
  simp only [opened, picture, unit, region, stored]

end

/-! ### The statement -/

/-- Settles O46: each operation by its equation above, the bitstream of an ENCODE by `encodePicture_sent`, the closed stream by
`closeStream_ctx`. -/
theorem videoFrameTasksComplete : Obligations.VideoFrameTasksComplete := by
  unfold Obligations.VideoFrameTasksComplete
  intro s s1 u r c running phase up hc f
  have task : FrameTask s u r c := ⟨running, phase, up, hc⟩
  refine ⟨exec_videoOpen_full task, fun e => exec_videoOpen_placed task, fun st asked opened => ?_, exec_encode_waits task,
    fun st d codes w asked flows opened picture coded => ?_, fun st d b s2 data => exec_decode_written task,
    fun st key codes => pictureQuant_constant, fun res t => frameDone_written⟩
  · exact ⟨closeStream_ctx hc opened, exec_videoClose_opened task asked opened⟩
  · intro key bits fits region sent res
    exact (exec_encode_coded task asked flows opened picture coded).trans (congrArg Host.Outcome.next (encodePicture_sent fits region))

end Sys2Proof.Machine

/-!
PROOFS. Aborts of an epoch and the reports of its dies (R369, R379, R384 to R386).
-/

namespace Sys2Proof.Machine

/-! ### The abort (R369, R379, R384, R386) -/

theorem run?_stopTasks (s : State) (cn : Nat) (u : UnitId) :
    (stopTasks s cn).run? u = (s.run? u).map (fun r => if r.ctx = cn then stopRun r else r) :=
  NMap.get?_map (fun r : Run => if r.ctx = cn then stopRun r else r) s.units u.key

/-- The epoch once it is aborted: it waits for its dies, and a failed attempt is counted. -/
def abortedEpoch (s : State) (cn : Nat) (failed : Bool) (c : Ctx) (e : Epoch) : Epoch :=
  { e with phase := .aborting (epochDies s cn c e), failed := if failed then e.failed + 1 else e.failed }

/-- The state in which the tasks of the context have been told to stop. -/
def abortTold (s : State) (cn : Nat) (failed : Bool) (c : Ctx) (e : Epoch) : State :=
  stopTasks (s.setCtx cn { c with epoch := some (abortedEpoch s cn failed c e) }) cn

section
variable {s : State} {cn : Nat} {failed : Bool} {c : Ctx} {e : Epoch} (hc : s.ctx? cn = some c) (he : c.epoch = some e)
include hc he

theorem abortEpoch_of_aborting {l : List Nat} (aborting : e.phase = .aborting l) : abortEpoch s cn failed = s := by
  rw [abortEpoch, hc]
  dsimp only
  rw [he]
  dsimp only
  rw [aborting]

theorem abortEpoch_of_not_aborting (under : ∀ l, e.phase ≠ .aborting l) : abortEpoch s cn failed =
    if c.faulted then abortTold s cn failed c e
    else (abortTold s cn failed c e).logRec 0x23 (coordDie c) 7 0 cn e.attempt e.step.toNat 0 0xFF 0 := by
  rw [abortEpoch, hc]
  dsimp only
  rw [he]
  dsimp only
  split
  next l aborting => exact absurd aborting (under l)
  · rfl

/-- The log entry of an abort touches no context, no unit, no memory and no output. -/
theorem abortEpoch_frame (under : ∀ l, e.phase ≠ .aborting l) :
    (∀ k, (abortEpoch s cn failed).ctx? k = (abortTold s cn failed c e).ctx? k) ∧
    (∀ u, (abortEpoch s cn failed).run? u = (abortTold s cn failed c e).run? u) ∧
    (abortEpoch s cn failed).mem = s.mem ∧ (abortEpoch s cn failed).out = s.out := by
  rw [abortEpoch_of_not_aborting hc he under]
  split <;> exact ⟨fun _ => rfl, fun _ => rfl, rfl, rfl⟩

end

theorem ctx?_abortTold (s : State) (cn : Nat) (failed : Bool) (c : Ctx) (e : Epoch) :
    (abortTold s cn failed c e).ctx? cn = some { c with epoch := some (abortedEpoch s cn failed c e) } :=
  State.ctx?_setCtx _ _ _

theorem run?_abortTold {s : State} {u : UnitId} {r : Run} (run : s.run? u = some r) (cn : Nat) (failed : Bool) (c : Ctx) (e : Epoch) :
    (abortTold s cn failed c e).run? u = some (if r.ctx = cn then stopRun r else r) := by
  rw [abortTold, run?_stopTasks, State.run?_setCtx, run]
  rfl

/-- The coordinating die reports whether it has tasks of the epoch or not. -/
theorem coordDie_mem_epochDies (s : State) (cn : Nat) (c : Ctx) (e : Epoch) : coordDie c ∈ epochDies s cn c e :=
  mem_dedup.2 List.mem_cons_self

/-! ### The report of a die (R384, R385) -/

/-- What a die's report leaves: its units of the context are free, and it is awaited no more. -/
def dieQuiet (s : State) (die cn : Nat) (c : Ctx) (e : Epoch) (left : List Nat) : State :=
  (dropUnits s (fun k => k / 64 == die && (match NMap.get? s.units k with
    | some r => r.ctx == cn
    | none => false))).setCtx cn { c with epoch := some { e with phase := .aborting left } }

theorem exec_quiescence {s : State} {die cn : Nat} {c : Ctx} {e : Epoch} {l : List Nat} (hc : s.ctx? cn = some c) (he : c.epoch = some e)
    (aborting : e.phase = .aborting l) (awaited : die ∈ l) (uncovered : ∀ d ∈ s.resets, resetCovers d die = false) :
    let t := dieQuiet s die cn c e (l.filter (· != die))
    exec (.quiescence die cn) s = .next (if (l.filter (· != die)).isEmpty then drainDetach (finishAbort t cn e) cn else t) := by
  have reports : ¬ (!(l.contains die) || s.resets.any (fun d => resetCovers d die)) = true := by
    simpa using And.intro awaited uncovered
  change execQuiescence die cn s = _
  rw [execQuiescence, hc]
  dsimp only
  rw [he]
  dsimp only
  rw [aborting]
  dsimp only
  rw [if_neg reports]
  rfl

/-! ### The statement -/

/-- Settles O36: an abort leaves what `abortTold` says but for its log entry (`abortEpoch_frame`); a die's report is `exec_quiescence`. -/
theorem abortsStopTasksAndAwaitTheDies : Obligations.AbortsStopTasksAndAwaitTheDies := by
  unfold Obligations.AbortsStopTasksAndAwaitTheDies
  refine ⟨fun s cn failed c e hc he => ⟨fun l => abortEpoch_of_aborting hc he, fun under => ?_⟩,
    fun s die cn c e l hc he aborting awaited uncovered => ?_⟩
  · obtain ⟨ctxs, runs, mem, out⟩ := abortEpoch_frame (failed := failed) hc he under
    refine ⟨_, abortedEpoch s cn failed c e, epochDies s cn c e, (ctxs cn).trans (ctx?_abortTold s cn failed c e), rfl, rfl,
      coordDie_mem_epochDies s cn c e, rfl, rfl, rfl, mem, out, fun u r run mine => ?_, fun u r run other => ?_⟩
    · rw [runs u, run?_abortTold run, if_pos mine]
      rfl
    · rw [runs u, run?_abortTold run, if_neg other]
  · have report := exec_quiescence hc he aborting awaited uncovered
    refine ⟨fun waits => report.trans (congrArg _ (if_neg (waits ∘ List.isEmpty_iff.1))), fun last => ?_⟩
    exact report.trans (congrArg _ (if_pos (List.isEmpty_iff.2 last)))

end Sys2Proof.Machine

/-!
PROOFS. Colyr commands that read, and writes to Colyr's registers (R381, R405 to R407, R409, R413 to R415, R419, R420, R422).
-/

namespace Sys2Proof.Machine

/-! ### A command while the firmware runs (R403, R412) -/

section
variable {s : State} (free : s.colyr.deleting = none) (runs : fwRuns s = true)
include free runs

theorem colyrDo_runs (cmd tag : Nat) (rom : Bool) (k : State → State) : colyrDo s cmd tag rom k = .next (k s) := by
  simp [colyrDo, free, runs]

/-! ### Reading (R405, R413 to R415, R420, R422) -/

variable {tag : Nat}

theorem exec_getInventory : exec (.getInventory tag) s = .next (respond s 0x01 tag 0 (inventory s)) :=
  show execGetInventory tag s = _ from colyrDo_runs free runs ..

theorem exec_sensorRead (ix n : Nat) :
    exec (.sensorRead tag ix n) s = .next (respond s 0x05 tag 0 (((s.power.sensors.drop ix).take (min 32 n)).flatMap sensorBytes)) :=
  show execSensorRead tag ix n s = _ from colyrDo_runs free runs ..

theorem exec_attest (nonce : BitVec 256) : exec (.attest tag nonce) s =
    .next (respond s 0x0A tag 0 (report s nonce none ++ signDigest (Config.sha3 (report s nonce none)))) :=
  show execAttest tag nonce s = _ from colyrDo_runs free runs ..

theorem exec_fwStatus : exec (.fwStatus tag) s = .next (respond s 0x0E tag 0 (toBytes 1 s.fw.updStep ++ toBytes 1 s.fw.updStatus)) :=
  show execFwStatus tag s = _ from colyrDo_runs free runs ..

theorem exec_readReg_some {off v : Nat} (read : readColyr s off = some v) :
    exec (.readReg tag off) s = .next (respond s 0x02 tag 0 (toBytes 8 v)) := by
  change execReadReg tag off s = _
  rw [execReadReg, colyrDo_runs free runs, read]

theorem exec_readReg_none {off : Nat} (read : readColyr s off = none) : exec (.readReg tag off) s = .next (respond s 0x02 tag 3 []) := by
  change execReadReg tag off s = _
  rw [execReadReg, colyrDo_runs free runs, read]

theorem exec_logRead (ix n : Nat) : exec (.logRead tag ix n) s = .next (if ix < logOldest s then respond s 0x04 tag 5 (toBytes 8 (logOldest s))
    else respond s 0x04 tag 0 (((s.colyr.log.drop (ix - logOldest s)).take (min 32 n)).flatMap entryBytes)) :=
  show execLogRead tag ix n s = _ from colyrDo_runs free runs ..

theorem exec_tenantRead (k : Nat) : exec (.tenantRead tag k) s =
    .next (if 15 < k then respond s 0x06 tag 3 [] else respond s 0x06 tag 0 (toBytes 128 (tenantBits s k).toNat)) :=
  show execTenantRead tag k s = _ from colyrDo_runs free runs ..

theorem exec_sillageRead (die off n : Nat) : exec (.sillageRead tag die off n) s = .next (if 4096 < n then respond s 0x11 tag 2 []
    else if 23 < die ∨ 2 * pageSize < off + n then respond s 0x11 tag 3 []
    else respond s 0x11 tag 0 (Memory.getBytes s.mem (nearBase die + off) n)) :=
  show execSillageRead tag die off n s = _ from colyrDo_runs free runs ..

/-! ### Writing (R326, R414) -/

theorem exec_writeReg_none {off : Nat} (v : Word64) (absent : readColyr s off = none) :
    exec (.writeReg tag off v) s = .next (respond s 0x03 tag 3 []) := by
  change execWriteReg tag off v s = _
  rw [execWriteReg, colyrDo_runs free runs, absent]

theorem exec_writeReg_some {off old : Nat} (v : Word64) (present : readColyr s off = some old) :
    exec (.writeReg tag off v) s = .next (respond (writeColyr s off v) 0x03 tag 0 []) := by
  change execWriteReg tag off v s = _
  rw [execWriteReg, colyrDo_runs free runs, present]

end

theorem le_clamp {lo hi : Nat} (h : lo ≤ hi) (v : Nat) : lo ≤ clamp lo hi v := le_min h (le_max_left lo v)

theorem clamp_le (lo hi v : Nat) : clamp lo hi v ≤ hi := min_le_left hi _

theorem clamp_of_mem {lo hi v : Nat} (low : lo ≤ v) (high : v ≤ hi) : clamp lo hi v = v := by
  rw [clamp, max_eq_right low, min_eq_right high]

/-- NET as stored: its four fields side by side, below bit 24. -/
theorem toNat_clampNet (v : Nat) : (clampNet v).toNat =
    field v 2 0 + clamp 1 60 (field v 9 4) * 2 ^ 4 + clamp 1 10 (field v 13 10) * 2 ^ 10 + clamp 1 600 (field v 23 14) * 2 ^ 14 := by
  have mode := field_lt v 2 0
  have beacon := clamp_le 1 60 (field v 9 4)
  have kaint := clamp_le 1 10 (field v 13 10)
  have hold := clamp_le 1 600 (field v 23 14)
  rw [clampNet, BitVec.toNat_ofNat]
  exact Nat.mod_eq_of_lt (by omega)

theorem clampNet_fields (v : Nat) :
    (clampNet v).toNat % 8 = v % 8 ∧ (clampNet v).toNat / 2 ^ 3 % 2 = 0 ∧ (clampNet v).toNat / 2 ^ 24 = 0 ∧
    (clampNet v).toNat / 2 ^ 4 % 2 ^ 6 = clamp 1 60 (field v 9 4) ∧ (clampNet v).toNat / 2 ^ 10 % 2 ^ 4 = clamp 1 10 (field v 13 10) ∧
    (clampNet v).toNat / 2 ^ 14 % 2 ^ 10 = clamp 1 600 (field v 23 14) := by
  have mode : field v 2 0 = v % 8 := by simp [field_eq_div_mod]
  have beacon := clamp_le 1 60 (field v 9 4)
  have kaint := clamp_le 1 10 (field v 13 10)
  have hold := clamp_le 1 600 (field v 23 14)
  rw [toNat_clampNet, mode]
  omega

/-- A PORTMODE with a reserved encoding in one of its fields is ignored. -/
theorem writePortmode_reserved {s : State} {v n : Nat} (hn : n < 8) (reserved : v / 2 ^ (2 * n) % 4 = 3) : writePortmode s v = s := by
  refine if_pos (List.any_eq_true.2 ⟨n, mem_rangeFrom.2 ⟨n.zero_le, by omega⟩, ?_⟩)
  rw [field_eq_div_mod, show 2 * n + 1 + 1 - 2 * n = 2 by omega]
  exact beq_iff_eq.2 reserved

/-- ORDER, EXCL and NONCE keep their value. -/
theorem writeColyr_readOnly {s : State} {off : Nat} (v : Word64) (h : off < 0x0100 ∨ (0x0600 ≤ off ∧ off < 0x0700)) :
    writeColyr s off v = s := by
  rw [writeColyr, if_neg (by omega), if_neg (by omega), if_neg (by omega), if_neg (by omega), if_neg (by omega), if_neg (by omega),
    if_neg (by omega)]

/-! ### The statement -/

/-- Settles O48: each command that reads by its equation, a write by what `writeColyr` does at its offset, NET by `clampNet_fields`. -/
theorem readingCommandsAndRegisterWrites : Obligations.ReadingCommandsAndRegisterWrites := by
  unfold Obligations.ReadingCommandsAndRegisterWrites
  refine ⟨fun s tag free runs => ?_, fun s tag off v free runs => ?_⟩
  · refine ⟨exec_getInventory free runs, fun off v => exec_readReg_some free runs, fun off => exec_readReg_none free runs,
      fun ix n lost => (exec_logRead free runs ix n).trans (congrArg _ (if_pos lost)),
      fun ix n kept => (exec_logRead free runs ix n).trans (congrArg _ (if_neg (Nat.not_lt.2 kept))),
      exec_sensorRead free runs, fun k inside => (exec_tenantRead free runs k).trans (congrArg _ (if_neg (Nat.not_lt.2 inside))),
      fun k outside => (exec_tenantRead free runs k).trans (congrArg _ (if_pos outside)),
      exec_attest free runs, exec_fwStatus free runs, fun die off n short fitted inside => ?_,
      fun die off n long => (exec_sillageRead free runs die off n).trans (congrArg _ (if_pos long)), fun die off n short outside => ?_⟩
    · rw [exec_sillageRead free runs, if_neg (by omega), if_neg (by omega)]
      rfl
    · rw [exec_sillageRead free runs, if_neg (by omega), if_pos outside]
      rfl
  · refine ⟨exec_writeReg_none free runs v, ?_, ?_, ?_, fun readOnly => ?_⟩
    · rintro rfl
      obtain ⟨mode, reserved, above, beacon, kaint, hold⟩ := clampNet_fields v.toNat
      refine ⟨clampNet v.toNat, exec_writeReg_some free runs v rfl, mode, reserved, above, ?_⟩
      rw [beacon, kaint, hold, field_eq_div_mod v.toNat 23 14]
      exact ⟨le_clamp (by decide) _, clamp_le _ _ _, le_clamp (by decide) _, clamp_le _ _ _, le_clamp (by decide) _, clamp_le _ _ _,
        clamp_of_mem⟩
    · rintro rfl
      exact exec_writeReg_some free runs v rfl
    · rintro rfl ⟨n, hn, reserved⟩
      have kept : writeColyr s 0x0100 v = s := writePortmode_reserved hn reserved
      rw [exec_writeReg_some free runs v rfl, kept]
      rfl
    · simp only [List.mem_cons, List.not_mem_nil, or_false] at readOnly
      obtain ⟨old, present⟩ : ∃ old, readColyr s off = some old := by
        obtain rfl | rfl | rfl | rfl | rfl | rfl := readOnly <;> exact ⟨_, rfl⟩
      have place : off < 0x0100 ∨ (0x0600 ≤ off ∧ off < 0x0700) := by omega
      rw [exec_writeReg_some free runs v present, writeColyr_readOnly v place]
      rfl

end Sys2Proof.Machine

/-!
PROOFS. The commands of a firmware update, and FUSE_SVN (R398, R402, R411, R419).
-/

namespace Sys2Proof.Machine

theorem boot_ne_recovery_of_fwRuns {s : State} (runs : fwRuns s = true) : s.power.boot ≠ .recovery := fun recovery => by
  rw [fwRuns, recovery] at runs
  cases runs

section
variable {s : State} (free : s.colyr.deleting = none) (runs : fwRuns s = true) {tag : Nat}
include free runs

/-! ### FW_BEGIN -/

theorem exec_fwBegin (n : Nat) : exec (.fwBegin tag n) s = .next (
    if updating s || s.recSession.isSome || s.colyr.debugOpen then respond s 0x0B tag 4 []
    else if n = 0 ∨ bodyAt + 2 ^ 27 < n then respond s 0x0B tag 3 []
    else respond { s with fw := { s.fw with updLen := some n, staged := [], updStep := 0, updStatus := 0 } } 0x0B tag 0 []) :=
  show execFwBegin tag n s = _ from colyrDo_runs free runs ..

theorem exec_fwBegin_busy (n : Nat) (busy : updating s = true ∨ s.recSession.isSome = true ∨ s.colyr.debugOpen = true) :
    exec (.fwBegin tag n) s = .next (respond s 0x0B tag 4 []) := by
  rw [exec_fwBegin free runs, if_pos (by simpa [or_assoc] using busy)]

/-- With no update, no recovery session and the debug lock shut the length alone decides. -/
theorem exec_fwBegin_idle (n : Nat) (idle : updating s = false) (session : s.recSession = none) (lock : s.colyr.debugOpen = false) :
    exec (.fwBegin tag n) s = .next (if n = 0 ∨ bodyAt + 2 ^ 27 < n then respond s 0x0B tag 3 []
      else respond { s with fw := { s.fw with updLen := some n, staged := [], updStep := 0, updStatus := 0 } } 0x0B tag 0 []) := by
  rw [exec_fwBegin free runs, if_neg (by simp [idle, session, lock])]

/-! ### FW_DATA -/

theorem exec_fwData_unopened (off : Nat) (data : Bytes) (unopened : s.fw.updLen = none) :
    exec (.fwData tag off data) s = .next (respond s 0x0C tag 4 []) := by
  change execFwData tag off data s = _
  rw [execFwData, colyrDo_runs free runs, unopened]

theorem exec_fwData_open {n off : Nat} {data : Bytes} (opened : s.fw.updLen = some n) (idle : fwWriting s = false) (nonempty : data ≠ [])
    (short : data.length ≤ 4096) : exec (.fwData tag off data) s = .next (if n < off + data.length then respond s 0x0C tag 3 []
      else respond { s with fw := { s.fw with staged := Memory.setBytes s.fw.staged off data } } 0x0C tag 0 []) := by
  have sized : ¬ (data.isEmpty || decide (4096 < data.length)) = true := by simpa using And.intro nonempty short
  change execFwData tag off data s = _
  rw [execFwData, colyrDo_runs free runs, opened]
  dsimp only
  rw [idle, if_neg Bool.false_ne_true, if_neg sized]

/-! ### FW_COMMIT -/

theorem exec_fwCommit_unopened (v : Bool) (unopened : s.fw.updLen = none) : exec (.fwCommit tag v) s = .next (respond s 0x0D tag 4 []) := by
  change execFwCommit tag v s = _
  rw [execFwCommit, colyrDo_runs free runs, unopened]
  rfl

theorem exec_fwCommit_open {n : Nat} (v : Bool) (opened : s.fw.updLen = some n) (idle : fwWriting s = false) :
    let asked := (maintAsk { s with fw := { s.fw with sigOk := v } } actFWU 0 false).1
    exec (.fwCommit tag v) s = .next (respond asked 0x0D tag asked.fw.updStatus []) := by
  change execFwCommit tag v s = _
  rw [execFwCommit, colyrDo_runs free runs, if_neg (by simp [opened, idle])]
  exact congrArg _ (if_neg (boot_ne_recovery_of_fwRuns runs))

/-! ### FUSE_SVN -/

theorem exec_fuseSvn (v : Nat) : exec (.fuseSvn tag v) s = .next (if updating s then respond s 0x0F tag 4 []
    else if s.fw.runSvn < v ∨ v ≤ s.fw.fuses then respond s 0x0F tag 3 []
    else respond (({ s with fw := { s.fw with fuses := v } } : State).logMgmt 0x4A 31 31 v 0) 0x0F tag 0 []) :=
  show execFuseSvn tag v s = _ from colyrDo_runs free runs ..

theorem exec_fuseSvn_idle (v : Nat) (idle : updating s = false) : exec (.fuseSvn tag v) s = .next (
    if s.fw.runSvn < v ∨ v ≤ s.fw.fuses then respond s 0x0F tag 3 []
    else respond (({ s with fw := { s.fw with fuses := v } } : State).logMgmt 0x4A 31 31 v 0) 0x0F tag 0 []) := by
  rw [exec_fuseSvn free runs, idle, if_neg Bool.false_ne_true]

end

/-! ### The statement -/

/-- Settles O49: each command by its equations above, the stored bytes by `Memory.getBytes_setBytes` and `Memory.get_setBytes`. -/
theorem firmwareCommandsComplete : Obligations.FirmwareCommandsComplete := by
  unfold Obligations.FirmwareCommandsComplete
  intro s tag free runs
  refine ⟨exec_fwBegin_busy free runs, fun n idle session lock low high => ?_, fun n idle session lock outside => ?_,
    fun n off data opened idle nonempty short fits images => ?_, exec_fwData_unopened free runs,
    fun n off data opened idle nonempty short beyond => ?_, exec_fwCommit_unopened free runs, fun v n => exec_fwCommit_open free runs v, fun v idle above trusted => ?_, fun v idle outside => ?_,
    fun v busy => (exec_fuseSvn free runs v).trans (congrArg _ (if_pos busy))⟩
  · exact (exec_fwBegin_idle free runs n idle session lock).trans (congrArg _ (if_neg (by omega)))
  · exact (exec_fwBegin_idle free runs n idle session lock).trans (congrArg _ (if_pos outside))
  · have stagedWf : Memory.wf s.fw.staged = true := by
      simp only [ImagesInv, imagesWf, Bool.and_eq_true] at images
      obtain ⟨⟨_, staged⟩, _⟩ := images
      exact staged
    refine ⟨Memory.setBytes s.fw.staged off data, ?_, Memory.getBytes_setBytes stagedWf off data, fun a elsewhere => ?_⟩
    · exact (exec_fwData_open free runs opened idle nonempty short).trans (congrArg _ (if_neg (Nat.not_lt.2 fits)))
    · rw [Memory.get_setBytes stagedWf, if_pos elsewhere]
  · exact (exec_fwData_open free runs opened idle nonempty short).trans (congrArg _ (if_pos beyond))
  · exact ⟨_, (exec_fuseSvn_idle free runs v idle).trans (congrArg _ (if_neg (by omega))), rfl, rfl, rfl, rfl⟩
  · exact (exec_fuseSvn_idle free runs v idle).trans (congrArg _ (if_pos outside.symm))

end Sys2Proof.Machine

/-!
PROOFS. Colyr commands that act on the module (R375, R391, R394, R396, R398, R407).
-/

namespace Sys2Proof.Machine

section
variable {s : State} (free : s.colyr.deleting = none) (runs : fwRuns s = true) {tag : Nat}
include free runs

/-! ### Maintenance, resets and Drydown (R375, R391, R394, R396, R398) -/

theorem exec_maintReq_other {act : Nat} (target : Nat) (other : act ≠ actFWU) : exec (.maintReq tag act target) s =
    .next (respond (maintAsk s act target false).1 0x10 tag 0 (toBytes 1 (maintAsk s act target false).2)) := by
  change execMaintReq tag act target s = _
  rw [execMaintReq, colyrDo_runs free runs]
  dsimp only
  rw [if_neg (fun update => other update.1)]

theorem exec_resetComputePart : exec (.resetComputePart tag) s = .next (respond (partReset s (freeCause s)) 0x12 tag 0 []) :=
  show execResetComputePart tag s = _ from colyrDo_runs free runs ..

theorem exec_resetModule : exec (.resetModule tag) s = .next (if fwWriting s then
      { respond s 0x12 tag 0 [] with fw := { s.fw with deferredReset := true } }
    else moduleReset (respond s 0x12 tag 0 []) .rom true (freeCause s)) :=
  show execResetModule tag s = _ from colyrDo_runs free runs ..

theorem exec_drydown_none {cn : Nat} (absent : s.ctx? cn = none) : exec (.drydown tag cn) s = .next (respond s 0x13 tag 3 []) := by
  change execDrydown tag cn s = _
  rw [execDrydown, colyrDo_runs free runs, absent]

theorem exec_drydown_some {cn : Nat} {c : Ctx} (hc : s.ctx? cn = some c) :
    exec (.drydown tag cn) s = .next (respond (beginDrydown s cn) 0x13 tag 0 []) := by
  change execDrydown tag cn s = _
  rw [execDrydown, colyrDo_runs free runs, hc]

/-! ### The debug lock (R407) -/

theorem exec_debugUnlock (serial : BitVec 128) (nonce : BitVec 256) (ok : Bool) : exec (.debugUnlock tag serial nonce ok) s = .next (
    if hostPresent s || !s.ctxs.isEmpty || nonce != s.colyr.nonce then respond s 0x14 tag 4 []
    else if !ok || serial != Config.serial then respond s 0x14 tag 6 []
    else respond (({ s with colyr := { s.colyr with debugOpen := true } } : State).logMgmt 0x4B 31 31 0 0) 0x14 tag 0 []) :=
  show execDebugUnlock tag serial nonce ok s = _ from colyrDo_runs free runs ..

theorem exec_debugUnlock_busy (serial : BitVec 128) {nonce : BitVec 256} (ok : Bool)
    (busy : hostPresent s = true ∨ s.ctxs ≠ [] ∨ nonce ≠ s.colyr.nonce) :
    exec (.debugUnlock tag serial nonce ok) s = .next (respond s 0x14 tag 4 []) := by
  rw [exec_debugUnlock free runs, if_pos (by simpa [or_assoc] using busy)]

/-- On an empty module a token of its serial number and of the nonce in force is judged by its signature. -/
theorem exec_debugUnlock_current (ok : Bool) (hosts : hostPresent s = false) (ctxs : s.ctxs = []) :
    exec (.debugUnlock tag Config.serial s.colyr.nonce ok) s = .next (if !ok then respond s 0x14 tag 6 []
      else respond (({ s with colyr := { s.colyr with debugOpen := true } } : State).logMgmt 0x4B 31 31 0 0) 0x14 tag 0 []) := by
  rw [exec_debugUnlock free runs, if_neg (by simp [hosts, ctxs]), bne_self_eq_false, Bool.or_false]

end

/-! ### The statement -/

/-- Settles O51: each command by its equation above. -/
theorem actingCommandsComplete : Obligations.ActingCommandsComplete := by
  unfold Obligations.ActingCommandsComplete
  intro s tag free runs
  refine ⟨fun act target => exec_maintReq_other free runs target, exec_resetComputePart free runs, fun idle => ?_, fun writing => ?_,
    fun cn => exec_drydown_none free runs, fun cn c => exec_drydown_some free runs, fun serial nonce => exec_debugUnlock_busy free runs serial,
    fun hosts ctxs => exec_debugUnlock_current free runs false hosts ctxs,
    fun hosts ctxs => ⟨_, exec_debugUnlock_current free runs true hosts ctxs, rfl, rfl, rfl, rfl, rfl, rfl⟩⟩
  · rw [exec_resetModule free runs, idle, if_neg Bool.false_ne_true]
  · rw [exec_resetModule free runs, if_pos writing]
    rfl

end Sys2Proof.Machine

/-!
PROOFS. The steps of the boot (R387, R400, R401, R430 to R434).
-/

namespace Sys2Proof.Machine

/-! ### The image (R400, R401) -/

section
variable {s : State} {v : Bool} (rom : s.power.boot = .rom)
include rom

theorem exec_bootVerify_bad (bad : imgCheck s.fw s.fw.flash v ≠ 0) : exec (.bootVerify v) s =
    .next (({ s with power := { s.power with boot := .recovery } } : State).logMgmt 0x41 31 31 (imgCheck s.fw s.fw.flash v) 0) :=
  (if_neg (not_not.2 rom)).trans (if_pos bad)

theorem exec_bootVerify_good (good : imgCheck s.fw s.fw.flash v = 0) : exec (.bootVerify v) s =
    .next (({ s with
      power := { s.power with boot := if s.power.railsUp then .nearTrain else .rails }
      fw := { s.fw with runBlock := imgSig s.fw.flash, runSvn := imgSvn s.fw.flash, runVer := imgVer s.fw.flash } } : State).logMgmt
        0x40 31 31 0 (imgVer s.fw.flash).toNat) :=
  (if_neg (not_not.2 rom)).trans (if_neg (not_not.2 good))

end

/-! ### Rails, training and self-test (R387, R430, R432, R434) -/

section
variable {s : State} {now : BootStage} (free : s.power.hold = false)
include free

theorem bootStep_taken (there : s.power.boot = now) (next : BootStage) (k : State → State) :
    bootStep s now next k = .next (k { s with power := { s.power with boot := next } }) :=
  if_pos ⟨there, free⟩

theorem exec_railsInRegulation (there : s.power.boot = .rails) :
    exec .railsInRegulation s = .next { s with power := { s.power with boot := .nearTrain, railsUp := true } } :=
  show execRailsInRegulation s = _ from bootStep_taken free there ..

/-- Near training declares dead the symbols that failed, those of no channel left out (R270, R272). -/
theorem exec_nearTrainingDone (there : s.power.boot = .nearTrain) (failing : List (Nat × Nat × Nat)) : exec (.nearTrainingDone failing) s =
    .next ((failing.filter (fun x => decide (x.1 < 24) && decide (x.2.1 < 128) && decide (x.2.2 < 72))).foldl
      (fun s x => checkChannel (declareDead s x.1 x.2.1 x.2.2) x.1 x.2.1) { s with power := { s.power with boot := .farTrain } }) :=
  show execNearTrainingDone failing s = _ from bootStep_taken free there ..

/-- Far training reports the lanes that failed, of the stacks that are fitted (R276). -/
theorem exec_farTrainingDone (there : s.power.boot = .farTrain) (lanes : List (Nat × Nat)) : exec (.farTrainingDone lanes) s =
    .next ((lanes.filter (fun x => stackFitted s.order x.1)).foldl (fun s x => lanesFound s x.1 [x.2])
      { s with power := { s.power with boot := .selfTest } }) :=
  show execFarTrainingDone lanes s = _ from bootStep_taken free there ..

/-- The self-test excludes the units and control groups that failed it, those the module lacks left out (R387). -/
theorem exec_bootComplete (there : s.power.boot = .selfTest) (failed : List UnitId) (ctrlFailed : List Nat) :
    exec (.bootComplete failed ctrlFailed) s = .next ((ctrlFailed.filter (fun x => decide (x < 24))).foldl excludeDie
      ((failed.filter (fun u => u.exists_ s.order)).foldl excludeUnit { s with power := { s.power with boot := .ready, pwrgd := true } })) :=
  show execBootComplete failed ctrlFailed s = _ from bootStep_taken free there ..

end

/-! ### The statement -/

/-- Settles O54: the image by the equations of `bootVerify`, every later step by `bootStep_taken`. -/
theorem bootStepsFollowInOrder : Obligations.BootStepsFollowInOrder := by
  unfold Obligations.BootStepsFollowInOrder
  intro s free
  refine ⟨fun v => exec_bootVerify_bad, fun v rom good => ⟨_, exec_bootVerify_good rom good, rfl, rfl, rfl, rfl, rfl⟩,
    exec_railsInRegulation free, fun near => exec_nearTrainingDone free near [], fun x near die chan sym => ?_,
    fun far => exec_farTrainingDone free far [], fun x far fitted => ?_, fun tested => exec_bootComplete free tested [] [],
    fun u tested fitted => ?_, fun d tested die => ?_⟩
  · rw [exec_nearTrainingDone free near, List.filter_cons_of_pos (by simp [die, chan, sym])]
    rfl
  · rw [exec_farTrainingDone free far, List.filter_cons_of_pos (p := fun y : Nat × Nat => stackFitted s.order y.1) fitted]
    rfl
  · rw [exec_bootComplete free tested, List.filter_cons_of_pos fitted]
    rfl
  · rw [exec_bootComplete free tested, List.filter_cons_of_pos (p := fun x => decide (x < 24)) (decide_eq_true die)]
    rfl

end Sys2Proof.Machine

/-!
PROOFS. Reserved commands, commands in recovery, and MCTP control messages (R403, R409 to R411).
-/

namespace Sys2Proof.Machine

/-! ### Reserved commands, and what the boot ROM does not offer (R403, R411) -/

section
variable {s : State} (free : s.colyr.deleting = none) {tag : Nat}
include free

theorem colyrDo_recovery (recovery : s.power.boot = .recovery) (cmd : Nat) (k : State → State) :
    colyrDo s cmd tag false k = .next (respond s cmd tag 8 []) := by
  simp [colyrDo, free, fwRuns, recovery]

theorem exec_unknownCommand {cmd : Nat} (runs : fwRuns s = true) (reserved : cmd = 0 ∨ 0x14 < cmd) :
    exec (.unknownCommand tag cmd) s = .next (respond s cmd tag 1 []) := by
  change execUnknownCommand tag cmd s = _
  rw [execUnknownCommand, if_neg (by omega), colyrDo_runs free runs]

end

/-- The commands that the boot ROM does not offer, with any operands, each with its CMD (R403, R411). -/
inductive FirmwareOnly (tag : Nat) : Instr → Nat → Prop
  | readReg (off : Nat) : FirmwareOnly tag (.readReg tag off) 0x02
  | writeReg (off : Nat) (v : Word64) : FirmwareOnly tag (.writeReg tag off v) 0x03
  | logRead (ix n : Nat) : FirmwareOnly tag (.logRead tag ix n) 0x04
  | sensorRead (ix n : Nat) : FirmwareOnly tag (.sensorRead tag ix n) 0x05
  | tenantRead (k : Nat) : FirmwareOnly tag (.tenantRead tag k) 0x06
  | tenantWrite (k : Nat) (e : TenantBits) : FirmwareOnly tag (.tenantWrite tag k e) 0x07
  | tenantDelete (k : Nat) (force : Bool) : FirmwareOnly tag (.tenantDelete tag k force) 0x08
  | colyrAccord (l : List ItemBits) : FirmwareOnly tag (.colyrAccord tag l) 0x09
  | attest (nonce : BitVec 256) : FirmwareOnly tag (.attest tag nonce) 0x0A
  | fuseSvn (v : Nat) : FirmwareOnly tag (.fuseSvn tag v) 0x0F
  | maintReq (act target : Nat) : FirmwareOnly tag (.maintReq tag act target) 0x10
  | sillageRead (die off n : Nat) : FirmwareOnly tag (.sillageRead tag die off n) 0x11
  | resetComputePart : FirmwareOnly tag (.resetComputePart tag) 0x12
  | resetModule : FirmwareOnly tag (.resetModule tag) 0x12
  | drydown (cn : Nat) : FirmwareOnly tag (.drydown tag cn) 0x13
  | debugUnlock (serial : BitVec 128) (nonce : BitVec 256) (ok : Bool) : FirmwareOnly tag (.debugUnlock tag serial nonce ok) 0x14

theorem FirmwareOnly.exec_eq {tag cmd : Nat} {i : Instr} (h : FirmwareOnly tag i cmd) (s : State) : ∃ k, exec i s = colyrDo s cmd tag false k := by
  cases h
  all_goals
    simp only [exec]
    exact ⟨_, rfl⟩

/-- The boot ROM in recovery refuses each of them with status 0x08. -/
theorem FirmwareOnly.exec_recovery {s : State} {tag cmd : Nat} {i : Instr} (h : FirmwareOnly tag i cmd) (free : s.colyr.deleting = none)
    (recovery : s.power.boot = .recovery) : exec i s = .next (respond s cmd tag 8 []) := by
  obtain ⟨k, run⟩ := h.exec_eq s
  rw [run, colyrDo_recovery free recovery]

/-! ### MCTP control (R409) -/

section
variable {s : State} (runs : mctpRuns s = true)
include runs

theorem mctpDo_runs (t : State) : mctpDo s t = .next t := congrArg Host.Outcome.next (if_pos runs)

theorem exec_setEndpointId (op eid : Nat) : exec (.setEndpointId op eid) s = .next (if op ≤ 1 ∧ 1 ≤ eid ∧ eid ≤ 254 then
      ({ s with colyr := { s.colyr with eid := eid } } : State).emit (.mctp 1 [0, 0, BitVec.ofNat 8 eid, 0])
    else s.emit (.mctp 1 [2])) :=
  mctpDo_runs runs _

theorem exec_getEndpointId : exec .getEndpointId s = .next (s.emit (.mctp 2 [0, BitVec.ofNat 8 s.colyr.eid, 0, 0])) := mctpDo_runs runs _

theorem exec_getMctpVersionSupport (m : Nat) : exec (.getMctpVersionSupport m) s = .next (s.emit (.mctp 4 (Config.mctpVersions m))) :=
  mctpDo_runs runs _

theorem exec_getMessageTypeSupport : exec .getMessageTypeSupport s = .next (s.emit (.mctp 5 [0, 1, 0x7F])) := mctpDo_runs runs _

theorem exec_getVendorDefinedMessageSupport (k : Nat) : exec (.getVendorDefinedMessageSupport k) s = .next (if k = 0 then
      s.tick.emit (.mctp 6 ([0, 0xFF, 1] ++ (toBytes 4 Config.enterprise.toNat).reverse ++ toBytes 2 (Config.freeNat s.freeIx 24)))
    else s.emit (.mctp 6 [2])) :=
  mctpDo_runs runs _

end

/-! ### The statement -/

/-- Settles O47: a command in recovery by `FirmwareOnly.exec_recovery`, an MCTP message by `mctpDo_runs`; the vendor's version field
has two bytes. -/
theorem otherMessagesOfTheManagementPort : Obligations.OtherMessagesOfTheManagementPort := by
  unfold Obligations.OtherMessagesOfTheManagementPort
  refine ⟨fun s tag free => ⟨fun cmd => exec_unknownCommand free, fun recovery i cmd listed => ?_⟩, fun s runs => ⟨fun op eid hop low high => ?_,
    fun op eid refused => ?_, exec_getEndpointId runs, exec_getMctpVersionSupport runs, exec_getMessageTypeSupport runs,
    ⟨toBytes 2 (Config.freeNat s.freeIx 24), toBytes_size 2 _, exec_getVendorDefinedMessageSupport runs 0⟩, fun k other => ?_⟩⟩
  · have only : FirmwareOnly tag i cmd := by
      simp only [List.mem_cons, List.not_mem_nil, or_false, Prod.mk.injEq] at listed
      obtain ⟨rfl, rfl⟩ | ⟨rfl, rfl⟩ | ⟨rfl, rfl⟩ | ⟨rfl, rfl⟩ | ⟨rfl, rfl⟩ | ⟨rfl, rfl⟩ | ⟨rfl, rfl⟩ | ⟨rfl, rfl⟩ | ⟨rfl, rfl⟩ | ⟨rfl, rfl⟩ |
        ⟨rfl, rfl⟩ := listed
      all_goals constructor
    exact only.exec_recovery free recovery
  · exact (exec_setEndpointId runs op eid).trans (congrArg _ (if_pos ⟨hop, low, high⟩))
  · exact (exec_setEndpointId runs op eid).trans (congrArg _ (if_neg (by omega)))
  · exact (exec_getVendorDefinedMessageSupport runs k).trans (congrArg _ (if_neg other))

end Sys2Proof.Machine

/-!
PROOFS. The tenancy table written to flash, and module-scope requests that are staged (R130, R415 to R418, R464).
-/

namespace Sys2Proof.Machine

/-! ### The tenancy table in its two copies (R417) -/

theorem Colyr.putTable_of_firstInUse {c : Colyr} (first : c.firstInUse = true) (l : List TenantBits) :
    c.putTable l = { c with tenFlash := (c.tenFlash.1, { count := c.tenFlash.1.count + 1, valid := true, entries := l }) } := by
  simp only [Colyr.putTable, Colyr.tenInUse, first, if_true]

theorem Colyr.putTable_of_secondInUse {c : Colyr} (second : c.firstInUse = false) (l : List TenantBits) :
    c.putTable l = { c with tenFlash := ({ count := c.tenFlash.2.count + 1, valid := true, entries := l }, c.tenFlash.2) } := by
  simp only [Colyr.putTable, Colyr.tenInUse, second, Bool.false_eq_true, if_false]

/-- The copy that is written has the higher count, so it is the one in use from then on. -/
theorem Colyr.tenants_putTable (c : Colyr) (l : List TenantBits) : (c.putTable l).tenants = l := by
  cases first : c.firstInUse with
  | true => simp [Colyr.putTable_of_firstInUse first, Colyr.tenants, Colyr.tenInUse, Colyr.firstInUse]
  | false => simp [Colyr.putTable_of_secondInUse first, Colyr.tenants, Colyr.tenInUse, Colyr.firstInUse]

theorem Colyr.putTable_keeps_copy (c : Colyr) (l : List TenantBits) :
    (c.putTable l).tenFlash.1 = c.tenFlash.1 ∨ (c.putTable l).tenFlash.2 = c.tenFlash.2 := by
  cases first : c.firstInUse with
  | true => exact .inl (by rw [Colyr.putTable_of_firstInUse first])
  | false => exact .inr (by rw [Colyr.putTable_of_secondInUse first])

section
variable (s : State) (k : Nat) (t : TenantBits) (kind key : Nat)

theorem tenants_putTenant : (putTenant s k t kind key).colyr.tenants = setNth s.colyr.tenants k t := Colyr.tenants_putTable ..

theorem tenantBits_putTenant (inside : k < s.colyr.tenants.length) : tenantBits (putTenant s k t kind key) k = t := by
  rw [tenantBits, tenants_putTenant, nth_setNth_same _ _ _ _ inside]

theorem tenantBits_putTenant_ne {j : Nat} (other : j ≠ k) : tenantBits (putTenant s k t kind key) j = tenantBits s j := by
  rw [tenantBits, tenants_putTenant, nth_setNth_ne _ _ _ _ _ other.symm, tenantBits]

theorem putTenant_keeps_copy :
    (putTenant s k t kind key).colyr.tenFlash.1 = s.colyr.tenFlash.1 ∨ (putTenant s k t kind key).colyr.tenFlash.2 = s.colyr.tenFlash.2 :=
  Colyr.putTable_keeps_copy ..

end

theorem toNat_ofNat_mod {w : Nat} (t : BitVec w) (m : Nat) : (BitVec.ofNat w (t.toNat % m)).toNat = t.toNat % m := by
  rw [BitVec.toNat_ofNat, Nat.mod_eq_of_lt ((Nat.mod_le _ _).trans_lt t.isLt)]

/-- The fields of an entry lie below bit 674; what is above reads as zero. -/
theorem toNat_entryClean (t : TenantBits) : (entryClean t).toNat = t.toNat % 2 ^ 674 := by
  rw [entryClean, teField, field_eq_div_mod, pow_zero, Nat.div_one, toNat_ofNat_mod]

/-! ### TENANT_WRITE (R415, R416) -/

section
variable {s : State} {tag k : Nat} {e : TenantBits}

theorem writeEntry_refused (bad : entryStatus s k (entryClean e) ≠ 0) :
    writeEntry s tag k e = respond s 0x07 tag (entryStatus s k (entryClean e)) [] :=
  if_pos bad

theorem writeEntry_absent (good : entryStatus s k (entryClean e) = 0) (absent : entryHost s k = none) :
    writeEntry s tag k e = respond (putTenant s k (entryClean e) 0x47 (entryKey (entryClean e))) 0x07 tag 0 [] := by
  rw [writeEntry, good, absent]
  rfl

/-- The entry of a present host keeps its identity, and its change waits for the module boundary. -/
theorem writeEntry_present {x : Nat × HostRec} (good : entryStatus s k (entryClean e) = 0) (present : entryHost s k = some x) :
    writeEntry s tag k e = if teField (entryClean e) 512 0 ≠ teField (tenantBits s k) 512 0 then respond s 0x07 tag 4 []
      else if s.colyr.modReq.isSome then endModule s 0x07 tag 9
      else stageModule s tag (entryItems s k (entryClean e)) (some (k, entryClean e)) := by
  rw [writeEntry, good, present]
  rfl

end

/-! ### A staged request (R130, R418) -/

theorem NMap.get?_mapKeyed {α : Type} (f : Nat → α → α) : ∀ (m : NMap α) (k : Nat),
    NMap.get? (m.map (fun t => (t.1, f t.1 t.2))) k = (NMap.get? m k).map (f k)
  | [], _ => rfl
  | (j, v) :: r, k => by
    simp only [List.map_cons, NMap.get?, NMap.get?_mapKeyed f r k]
    split
    · next same => rw [eq_of_beq same]; rfl
    · split <;> rfl

/-- A context once a request is staged: its regulator items stop the contexts they name. -/
def stagedCtx (l : List ItemBits) (cn : Nat) (c : Ctx) : Ctx :=
  if ((l.filter (fun i => iType i == 0x100)).map iTarget).contains cn then { c with stopped := true } else c

theorem stagedCtx_named {l : List ItemBits} {cn : Nat} (c : Ctx) (named : ∃ i ∈ l, iType i = 0x100 ∧ iTarget i = cn) :
    stagedCtx l cn c = { c with stopped := true } :=
  if_pos (by simpa [and_assoc] using named)

theorem ctx?_stageModule (s : State) (tag : Nat) (l : List ItemBits) (entry : Option (Nat × TenantBits)) (cn : Nat) :
    (stageModule s tag l entry).ctx? cn = (s.ctx? cn).map (stagedCtx l cn) :=
  NMap.get?_mapKeyed (stagedCtx l) s.ctxs cn

/-! ### The commands -/

section
variable {s : State} (free : s.colyr.deleting = none) (runs : fwRuns s = true) {tag : Nat}
include free runs

theorem exec_tenantWrite (k : Nat) (e : TenantBits) : exec (.tenantWrite tag k e) s = .next (writeEntry s tag k e) :=
  show execTenantWrite tag k e s = _ from colyrDo_runs free runs ..

theorem exec_tenantDelete_beyond {k : Nat} (force : Bool) (beyond : 15 < k) :
    exec (.tenantDelete tag k force) s = .next (respond s 0x08 tag 3 []) := by
  change execTenantDelete tag k force s = _
  rw [execTenantDelete, colyrDo_runs free runs, if_pos beyond]

theorem exec_tenantDelete_absent {k : Nat} (force : Bool) (inside : k ≤ 15) (absent : entryHost s k = none) :
    exec (.tenantDelete tag k force) s = .next (respond (deleteEntry s k) 0x08 tag 0 []) := by
  change execTenantDelete tag k force s = _
  rw [execTenantDelete, colyrDo_runs free runs, if_neg (Nat.not_lt.2 inside), absent]

theorem exec_tenantDelete_present {k : Nat} {x : Nat × HostRec} (force : Bool) (inside : k ≤ 15) (present : entryHost s k = some x) :
    let out := forceOut s x.1 x.2
    exec (.tenantDelete tag k force) s = .next (if !force then respond s 0x08 tag 4 []
      else finishDelete { out with colyr := { out.colyr with deleting := some (tag, k) } }) := by
  change execTenantDelete tag k force s = _
  rw [execTenantDelete, colyrDo_runs free runs, if_neg (Nat.not_lt.2 inside), present]

theorem exec_colyrAccord (l : List ItemBits) : exec (.colyrAccord tag l) s =
    .next (if moduleArrival s l = 0 then stageModule s tag l none else endModule s 0x09 tag (moduleArrival s l)) :=
  show execColyrAccord tag l s = _ from colyrDo_runs free runs ..

end

/-! ### The statement -/

/-- Settles O50: a write of an entry by the cases of `writeEntry` and what `putTenant` leaves, a deletion by its equations, a request of a command by
what it stages. -/
theorem tenancyAndModuleRequestsComplete : Obligations.TenancyAndModuleRequestsComplete := by
  unfold Obligations.TenancyAndModuleRequestsComplete
  intro s tag free runs
  refine ⟨fun k e bad => ?_, fun k e good absent inside => ?_, fun e => ?_, fun k e x good present => ⟨fun differs => ?_, fun same idle => ?_⟩,
    fun k force => exec_tenantDelete_beyond free runs force, fun k force => exec_tenantDelete_absent free runs force,
    fun k x => exec_tenantDelete_present free runs false, fun k x => exec_tenantDelete_present free runs true,
    fun l good => ?_, fun l bad => (exec_colyrAccord free runs l).trans (congrArg _ (if_neg bad))⟩
  · rw [exec_tenantWrite free runs, writeEntry_refused bad]
    rfl
  · refine ⟨_, (exec_tenantWrite free runs k e).trans (congrArg _ (writeEntry_absent good absent)), tenantBits_putTenant _ _ _ _ _ inside,
      fun j => tenantBits_putTenant_ne s k _ 0x47 _, putTenant_keeps_copy .., rfl, rfl, rfl, rfl⟩
  · rw [toNat_entryClean]
    exact ⟨Nat.mod_mod _ _, Nat.mod_div_self _ _⟩
  · rw [exec_tenantWrite free runs, writeEntry_present good present, if_pos differs]
    rfl
  · rw [exec_tenantWrite free runs, writeEntry_present good present, if_neg (not_not.2 same), idle]
    rfl
  · refine ⟨_, (exec_colyrAccord free runs l).trans (congrArg _ (if_pos good)), rfl, rfl, rfl, fun cn c hc named => ?_⟩
    rw [ctx?_stageModule, hc, Option.map_some, stagedCtx_named c named]

end Sys2Proof.Machine

/-!
PROOFS. The recovery over a port (R403).
-/

namespace Sys2Proof.Machine

/-! ### DATA -/

section
variable {s : State} {port source : Nat} (listens : recPort s port = true) {off : Nat} {data : Bytes} {v : Bool}
include listens

theorem exec_recoveryData : exec (.recoveryData port source off data v) s = .next (
    if (recFind s port source).source ≠ source ∨ updating s = true then s.emit (.recoveryResult port source 4)
    else if data.isEmpty || decide (1024 < data.length) then s.emit (.recoveryResult port source 2)
    else if off ≠ (recFind s port source).expect then s.emit (.recoveryAck port source (recFind s port source).expect)
    else if bodyAt + 2 ^ 27 < off + data.length then s.emit (.recoveryResult port source 3)
    else recStep s { recFind s port source with
      expect := off + data.length, image := Memory.setBytes (recFind s port source).image off data } v) := by
  change execRecoveryData port source off data v s = _
  rw [execRecoveryData, listens, Bool.not_true, if_neg Bool.false_ne_true]
  simp only [apply_ite Host.Outcome.next]

theorem exec_recoveryData_refused (refused : (recFind s port source).source ≠ source ∨ updating s = true) :
    exec (.recoveryData port source off data v) s = .next (s.emit (.recoveryResult port source 4)) := by
  rw [exec_recoveryData listens, if_pos refused]

/-- DATA of the session's own source, of 1 to 1,024 bytes, is judged by its offset. -/
theorem exec_recoveryData_own (own : (recFind s port source).source = source) (idle : updating s = false) (nonempty : data ≠ [])
    (short : data.length ≤ 1024) : exec (.recoveryData port source off data v) s = .next (
      if off ≠ (recFind s port source).expect then s.emit (.recoveryAck port source (recFind s port source).expect)
      else if bodyAt + 2 ^ 27 < off + data.length then s.emit (.recoveryResult port source 3)
      else recStep s { recFind s port source with
        expect := off + data.length, image := Memory.setBytes (recFind s port source).image off data } v) := by
  have mine : ¬ ((recFind s port source).source ≠ source ∨ updating s = true) := by simp [own, idle]
  have sized : ¬ (data.isEmpty || decide (1024 < data.length)) = true := by simpa using And.intro nonempty short
  rw [exec_recoveryData listens, if_neg mine, if_neg sized]

end

theorem recFind_open {s : State} {r : RecSession} (session : s.recSession = some r) (port source : Nat) :
    recFind s port source = { r with port := port } := by
  rw [recFind, session]

theorem recFind_new {s : State} (session : s.recSession = none) (port source : Nat) :
    recFind s port source = { port := port, source := source, expect := 0, sigOk := false, image := [] } := by
  rw [recFind, session]

/-- Before the signature block is whole its bytes are kept and acknowledged. -/
theorem recStep_early {s : State} {r : RecSession} (v : Bool) (unchecked : r.sigOk = false) (early : r.expect < bodyAt) :
    recStep s r v = ({ s with recSession := some r } : State).emit (.recoveryAck r.port r.source r.expect) := by
  rw [recStep, unchecked, if_neg Bool.false_ne_true, if_pos early]

/-! ### DONE -/

section
variable {s : State} {port source : Nat} {r : RecSession}

theorem exec_recoveryDone (listens : recPort s port = true) (session : s.recSession = some r) (own : r.source = source) :
    exec (.recoveryDone port source r.expect) s = .next (recFinish s { r with port := port }) := by
  change execRecoveryDone port source r.expect s = _
  rw [execRecoveryDone, listens, Bool.not_true, if_neg Bool.false_ne_true, session]
  exact (if_neg (not_not.2 own)).trans (if_neg (not_not.2 rfl))

theorem recFinish_good (signed : r.sigOk = true) (body : bodyCheck r.image = true) : recFinish s r =
    moduleReset { s with
      recSession := none, out := s.out ++ [.recoveryResult r.port r.source 0], fw := { s.fw with flash := r.image } } .rom false (freeCause s) :=
  if_neg (by simp [signed, body])

theorem recFinish_bad (bad : r.sigOk = false ∨ bodyCheck r.image = false) :
    recFinish s r = { s with recSession := none, out := s.out ++ [.recoveryResult r.port r.source 6] } :=
  if_pos (by simpa using bad)

end

/-! ### The statement -/

/-- Settles O52: DATA of a new and of an open session by what `recFind` gives and its offset, DONE by the cases of `recFinish`. -/
theorem recoveryTakesAnImage : Obligations.RecoveryTakesAnImage := by
  unfold Obligations.RecoveryTakesAnImage
  intro s port source listens
  refine ⟨fun off data v nonempty short session idle start early => ?_, fun off data v r session own idle nonempty short elsewhere => ?_,
    fun off data v r session refused => ?_, fun off data v r session own idle nonempty short next fits => ?_,
    fun r session own signed body => ⟨_, rfl, ?_⟩, fun r session own bad => ?_, rfl⟩
  · subst start
    have found := recFind_new session port source
    refine ⟨{ port := port, source := source, expect := data.length, sigOk := false, image := Memory.setBytes [] 0 data }, rfl, rfl, rfl, rfl,
      Memory.getBytes_setBytes rfl 0 data, ?_⟩
    rw [exec_recoveryData_own listens (by rw [found]) idle nonempty short, found, if_neg (not_not.2 rfl), if_neg (by omega), Nat.zero_add,
      recStep_early v rfl early]
    rfl
  · have found := recFind_open session port source
    rw [exec_recoveryData_own listens (by rw [found, own]) idle nonempty short, found, if_pos elsewhere]
    rfl
  · have found := recFind_open session port source
    rw [exec_recoveryData_refused listens (by rw [found]; exact refused)]
    rfl
  · have found := recFind_open session port source
    rw [exec_recoveryData_own listens (by rw [found, own]) idle nonempty short, found, if_neg (not_not.2 next), if_neg (Nat.not_lt.2 fits)]
  · rw [exec_recoveryDone listens session own, recFinish_good (r := { r with port := port }) signed body, own]
  · rw [exec_recoveryDone listens session own, recFinish_bad (r := { r with port := port }) bad, own]

end Sys2Proof.Machine

/-!
PROOFS. What a module reset keeps of power and firmware, reference clocks and pins (R375, R380, R407, R442, R443, R451, R452).
-/

namespace Sys2Proof.Machine

/-! ### A module reset, with a Sillage sample or without (R375, R380) -/

/-- A capture writes memory and the log. -/
theorem captureDie_frame (s : State) (die domain cause : Nat) :
    (captureDie s die domain cause).fw = s.fw ∧ (captureDie s die domain cause).power = s.power := by
  rw [captureDie, capture, State.logRec_fw, State.logRec_power]
  exact ⟨rfl, rfl⟩

theorem foldl_captureDie_frame (s : State) (domain cause : Nat) (dies : List Nat) :
    (dies.foldl (fun s d => captureDie s d domain cause) s).fw = s.fw ∧ (dies.foldl (fun s d => captureDie s d domain cause) s).power = s.power := by
  refine List.foldlRecOn (motive := fun t : State => t.fw = s.fw ∧ t.power = s.power) dies _ ⟨rfl, rfl⟩ fun t ⟨fw, power⟩ d _ => ?_
  obtain ⟨fw', power'⟩ := captureDie_frame t d domain cause
  exact ⟨fw'.trans fw, power'.trans power⟩

theorem afterReset_power_congr {s s' : State} (h : s'.power = s.power) (st : BootStage) :
    (afterReset s' st).power = (afterReset s st).power := by
  simp only [afterReset, h]

/-- Of the firmware and of power a module reset leaves the same whether it samples or not. -/
theorem moduleReset_frame (s : State) (st : BootStage) (sample : Bool) (cause : Nat) :
    (moduleReset s st sample cause).fw = (afterReset s st).fw ∧ (moduleReset s st sample cause).power = (afterReset s st).power := by
  obtain ⟨fw, power⟩ := foldl_captureDie_frame s 4 cause (rangeFrom 0 24)
  rw [moduleReset, State.logRec_fw, State.logRec_power]
  split
  · rw [afterReset_fw, afterReset_fw, fw]
    exact ⟨rfl, afterReset_power_congr power st⟩
  · exact ⟨rfl, rfl⟩

section
variable (s : State) (st : BootStage)

@[simp] theorem afterReset_refclk : (afterReset s st).power.refclk = s.power.refclk := rfl
@[simp] theorem afterReset_resetLow : (afterReset s st).power.resetLow = s.power.resetLow := rfl
@[simp] theorem afterReset_flashOut : (afterReset s st).power.flashOut = s.power.flashOut := rfl

variable (sample : Bool) (cause : Nat)

@[simp] theorem moduleReset_fw : (moduleReset s st sample cause).fw = (afterReset s st).fw := (moduleReset_frame s st sample cause).1
@[simp] theorem moduleReset_power : (moduleReset s st sample cause).power = (afterReset s st).power := (moduleReset_frame s st sample cause).2
@[simp] theorem moduleReset_ctxs : (moduleReset s st sample cause).ctxs = [] := rfl
@[simp] theorem moduleReset_hosts : (moduleReset s st sample cause).hosts = [] := rfl

end

/-! ### Reference clocks (R442, R443) -/

section
variable {s : State} (on : s.power.boot ≠ .off)
include on

theorem exec_refclkLoss (present : s.power.refclk = true) : exec .refclkLoss s =
    .next (logFree (loseModule { s with power := { s.power with refclk := false } } .inReset true) 24) := by
  change execRefclkLoss s = _
  rw [execRefclkLoss, present, Bool.not_true, if_neg Bool.false_ne_true]
  exact if_neg on

/-- With RESET# high the module starts at the boot ROM. -/
theorem exec_refclkReturn (absent : s.power.refclk = false) (high : s.power.resetLow = false) : exec .refclkReturn s =
    .next (moduleReset { s with power := { s.power with refclk := true } } .rom false (freeCause s)) := by
  have first : firstStage { s with power := { s.power with refclk := true } } = .rom := firstStage_of_free high rfl
  change execRefclkReturn s = _
  rw [execRefclkReturn, absent, if_neg Bool.false_ne_true]
  dsimp only
  rw [if_neg on, first]
  rfl

/-! ### Pins (R451, R452) -/

theorem exec_resetPin (high : s.power.resetLow = false) : exec .resetPin s =
    .next (moduleReset { s with power := { s.power with resetLow := true, flashOut := s.power.flashSelHigh } } .inReset true (freeCause s)) := by
  change execResetPin s = _
  rw [execResetPin, high, if_neg Bool.false_ne_true]
  exact congrArg _ (if_neg on)

end

theorem exec_resetPinRelease {s : State} (low : s.power.resetLow = true) (held : s.power.boot = .inReset) (clock : s.power.refclk = true) :
    exec .resetPinRelease s = .next { s with power := { s.power with resetLow := false, flashOut := false, boot := .rom } } := by
  have first : firstStage { s with power := { s.power with resetLow := false, flashOut := false } } = .rom := firstStage_of_free rfl clock
  change execResetPinRelease s = _
  rw [execResetPinRelease, low, Bool.not_true, if_neg Bool.false_ne_true]
  dsimp only
  rw [if_pos held, first]

/-! ### JTAG (R407) -/

theorem debugState_eq_zero_iff (s : State) : debugState s = 0 ↔ s.fw.production = true ∧ s.colyr.debugOpen = false := by
  cases production : s.fw.production with
  | false => simp [debugState, production]
  | true => simp [debugState, production, b2n]

theorem exec_jtagInstruction (ir : Nat) (s : State) :
    exec (.jtagInstruction ir) s = .next (s.emit (.jtag ir (debugState s == 0 && !(Config.jtagMandatory ir)))) := rfl

theorem exec_jtagInstruction_open {ir : Nat} {s : State} (h : s.colyr.debugOpen = true ∨ s.fw.production = false ∨ Config.jtagMandatory ir = true) :
    exec (.jtagInstruction ir) s = .next (s.emit (.jtag ir false)) := by
  have passes : (debugState s == 0 && !(Config.jtagMandatory ir)) = false := by
    by_contra bypassed
    simp only [Bool.not_eq_false, Bool.and_eq_true, beq_iff_eq, debugState_eq_zero_iff, Bool.not_eq_true'] at bypassed
    obtain ⟨⟨production, lock⟩, optional⟩ := bypassed
    simp [production, lock, optional] at h
  rw [exec_jtagInstruction, passes]

theorem exec_jtagInstruction_shut {ir : Nat} {s : State} (lock : s.colyr.debugOpen = false) (production : s.fw.production = true)
    (optional : Config.jtagMandatory ir = false) : exec (.jtagInstruction ir) s = .next (s.emit (.jtag ir true)) := by
  rw [exec_jtagInstruction, (debugState_eq_zero_iff s).2 ⟨production, lock⟩, optional]
  rfl

/-! ### The statement -/

/-- Settles O56: REFCLK by what `loseModule` and `moduleReset` leave, RESET# the same way, JTAG by when the debug state is 0. -/
theorem clocksAndPins : Obligations.ClocksAndPins := by
  unfold Obligations.ClocksAndPins
  intro s
  refine ⟨fun present on => ⟨_, exec_refclkLoss on present, rfl, rfl, rfl, rfl, rfl⟩, fun absent on high => ?_, fun east => rfl, rfl, rfl,
    fun high on => ?_, exec_resetPinRelease, fun level => rfl, fun ir => exec_jtagInstruction_open, fun ir => exec_jtagInstruction_shut⟩
  · refine ⟨_, exec_refclkReturn on absent high, ?_⟩
    simp
  · refine ⟨_, exec_resetPin on high, ?_⟩
    simp

end Sys2Proof.Machine

/-!
PROOFS. Every command answers a next state, and the queue of waiting commands stays (log entries 1 and 2).
-/

namespace Sys2Proof.Machine

/-- The answer is a next state: no fault of the block and no refusal. -/
def Goes (r : Res) : Prop := ∃ t, r = .next t

theorem Goes.next {s : State} : Goes (.next s) := ⟨s, rfl⟩

theorem Goes.ite {p : Prop} [Decidable p] {a b : Res} (ha : Goes a) (hb : Goes b) : Goes (if p then a else b) := by
  split
  · exact ha
  · exact hb

/-! ### The shared forms of a command -/

theorem settle_goes {u : UnitId} {r : Run} : ∀ e : Eff, Goes (settle u r e)
  | .go _ _ | .jump _ _ | .stop _ _ => .next

/-- An instruction that is issued ends as its effect says, in a context fault at the worst (R65 to R67). -/
theorem issue_goes {s : State} {u : UnitId} {cl op : Nat} {static : UnitKind → InstrWord → Bool}
    {body : State → UnitId → Ctx → Run → InstrWord → Eff} : Goes (issue s u cl op static body) := by
  unfold issue
  split
  · exact .next
  · refine .ite .next ?_
    split
    · exact .next
    · exact .ite .next (.ite .next (.ite .next (settle_goes _)))

theorem issueMove_goes {op : Nat} {u : UnitId} {s : State} : Goes (issueMove op u s) := issue_goes

theorem vecElementwise_goes {op : Nat} {u : UnitId} {s : State} : Goes (vecElementwise op u s) := issue_goes

theorem vecReduce_goes {op : Nat} {u : UnitId} {s : State} : Goes (vecReduce op u s) := issue_goes

theorem vecPool_goes {op : Nat} {u : UnitId} {s : State} : Goes (vecPool op u s) := issue_goes

theorem packetEvent_goes {s : State} {cn q : Nat} {row : Nat → Bool} {k : State → Ctx → Nat → State} : Goes (packetEvent s cn q row k) := by
  unfold packetEvent
  split
  · exact .next
  · exact .next
  · exact .ite .next .next

theorem frameEvent_goes {u : UnitId} {op : Nat} {s : State} {k : State → Run → Ctx → Nat → State} : Goes (frameEvent u op s k) := by
  unfold frameEvent
  split
  · exact .next
  · refine .ite .next ?_
    split
    · exact .next
    · exact .ite .next .next

theorem colyrDo_goes {s : State} {cmd tag : Nat} {rom : Bool} {k : State → State} : Goes (colyrDo s cmd tag rom k) :=
  .ite .next (.ite .next (.ite .next .next))

theorem bootStep_goes {s : State} {a b : BootStage} {k : State → State} : Goes (bootStep s a b k) := .ite .next .next

/-! ### The ends of asynchronous instructions

Each looks its operands up, checks and prepares what it writes, and answers a next state at every one of these points, with a context fault where one
fails. -/

section
variable {u : UnitId} {mismatch : Bool} {s : State}

theorem execMoveDone_goes {data : Bytes} {ok : Bool} : Goes (execMoveDone u data ok s) := by
  dsimp only [execMoveDone]
  repeat' split
  all_goals exact .next

theorem execMmaDrain_goes : Goes (execMmaDrain u mismatch s) := by
  dsimp only [execMmaDrain]
  repeat' split
  all_goals exact .next

theorem execAttendPassEnd_goes : Goes (execAttendPassEnd u mismatch s) := by
  dsimp only [execAttendPassEnd]
  repeat' split
  all_goals exact .next

theorem execKvappendDone_goes : Goes (execKvappendDone u mismatch s) := by
  dsimp only [execKvappendDone]
  repeat' split
  all_goals exact .next

end

/-! ### Every row -/

/-- Each row is a shared form, an answer that is written as a next state, a choice between such answers, or a number of look-ups at whose every end
such an answer stands. -/
theorem exec_goes (i : Instr) (s : State) : Goes (exec i s) := by
  unfold exec
  cases i
  case nop | halt | br | loop | wait | signal | salu | sli | scmp | rdsr | wrsr | lds | sts | aset | aget | tbase | chload | wcfa | tokset | tokwait
    | bnd | mm | conv | rand | lookup | load | cvt | attend | kvappend | push => exact issue_goes
  case copy | fill | hostrd | hostwr | gather => exact issueMove_goes
  case vecAdd | vecSub | vecMul | vecFma | vecMin | vecMax | vecAbs | vecNeg => exact vecElementwise_goes
  case rsum | rmax | rmin | vecStats | vecArgmax => exact vecReduce_goes
  case maxpool | avgpool => exact vecPool_goes
  case submit | tload | tfree | launch | accord | reservedPacket => exact packetEvent_goes
  case videoOpen | encode | decode | videoClose => exact frameEvent_goes
  case getInventory | readReg | writeReg | logRead | sensorRead | tenantRead | tenantWrite | tenantDelete | colyrAccord | attest | fwBegin | fwData
    | fwCommit | fwStatus | fuseSvn | maintReq | sillageRead | resetComputePart | resetModule | drydown | debugUnlock => exact colyrDo_goes
  case railsInRegulation | nearTrainingDone | farTrainingDone | bootComplete => exact bootStep_goes
  case boundaryCommit | kvSlotGrant | linkDown | lldpTransmit | lldpReceive | arpRequest | neighbourSolicitation | pfcFrame | pfcPauseExpiry | pfcRepeat
    | rdmaWrite | rdmaRead | send | cnpReceive | rateIncrease | attachReq | attachAuth | rekey | unprotectedFrameWindowEnd | register | ctxCreate
    | ctxDestroy | detach | keepalive | keepaliveTimeout | setEndpointId | getEndpointId | getMctpVersionSupport | getMessageTypeSupport
    | getVendorDefinedMessageSupport | recoveryTimeout | inputShutdown | inputOvervoltage | computeHold | dispatchRampStage | sdsclkLoss | sdsclkReturn
    | flashSel | jtagInstruction => exact .next
  case evacuationComplete | pageScrubDone | symbolDead | resetComplete | maintPeriodicRequest | reservedAttachMessage | linkUp | beacon | powerUp
    | thermalTrip | computeHoldRelease | converterFailure | fastLimiter | sensorSample | dvfsStep | resetPin | resetPinRelease =>
    exact .ite .next .next
  case refclkLoss | refclkReturn | pfcXon | islandRestart | bootVerify => exact .ite .next (.ite .next .next)
  case nearReadRetry => exact .ite .next (.ite .next (.ite .next (.ite .next .next)))
  case recoveryData => exact .ite .next (.ite .next (.ite .next (.ite .next (.ite .next .next))))
  case pllLossOfLock => exact .ite .next (.ite .next (.ite .next (.ite .next (.ite .next (.ite .next .next)))))
  case unknownCommand => exact .ite .next colyrDo_goes
  case moveDone => exact execMoveDone_goes
  case mmaDrain => exact execMmaDrain_goes
  case attendPassEnd => exact execAttendPassEnd_goes
  case kvappendDone => exact execKvappendDone_goes
  -- Look-ups of a unit and what runs on it.
  case waitResume | tokwaitResume | prologueTokenResume | reservedInstruction | programBoundsFetch | taskComplete | unitWatchExpiry
    | unitStopTimeout | farWordRetry =>
    dsimp only [execWaitResume, execTokwaitResume, execPrologueTokenResume, execReservedInstruction, execProgramBoundsFetch, execTaskComplete,
      execUnitWatchExpiry, execUnitStopTimeout, execFarWordRetry]
    repeat' split
    all_goals exact .next
  -- Look-ups of a context, its templates and its epoch.
  case sqDoorbell | sqCfgWrite | cqHeadWrite | cqCfgWrite | registerWrite | templateRelease | iterationAdmit | taskAdmit | taskDispatch
    | dispatchNeighbour | quiescence | contextWatchExpiry | drydownComplete =>
    dsimp only [execSqDoorbell, execSqCfgWrite, execCqHeadWrite, execCqCfgWrite, execRegisterWrite, execTemplateRelease, execIterationAdmit,
      execTaskAdmit, execTaskDispatch, execDispatchNeighbour, execQuiescence, execContextWatchExpiry, execDrydownComplete]
    repeat' split
    all_goals exact .next
  -- Look-ups of a page, a sequence or a message between dies.
  case shadowCopyDone | pageRetire | pageMoveComplete | leafFree | pageSetSwapped | pageSetResident | pushDelivery | squallAbortEpoch
    | squallAbortDie | squallStopContext | squallDrydown =>
    dsimp only [execShadowCopyDone, execPageRetire, execPageMoveComplete, execLeafFree, execPageSetSwapped, execPageSetResident, execPushDelivery,
      execSquallAbortEpoch, execSquallAbortDie, execSquallStopContext, execSquallDrydown]
    repeat' split
    all_goals exact .next
  -- Look-ups of an edge, an activity, a host or what the module has stored.
  case flitReplay | edgeRetrain | maintActivityStart | maintActivityDone | ackTimeout | rekeyStart | oldKeyExpiry | attachSessionTimeout
    | detachRelease | keepaliveSend | holdPeriodEnd | moduleBoundary | recoveryDone | thermalLevelExit =>
    dsimp only [execFlitReplay, execEdgeRetrain, execMaintActivityStart, execMaintActivityDone, execAckTimeout, execRekeyStart, execOldKeyExpiry,
      execAttachSessionTimeout, execDetachRelease, execKeepaliveSend, execHoldPeriodEnd, execModuleBoundary, execRecoveryDone,
      execThermalLevelExit]
    repeat' split
    all_goals exact .next

/-! ### The queue -/

theorem step_of_front {s : State} {i : Instr} {rest : List Instr} (front : s.pending = i :: rest) : step s = exec i { s with pending := rest } := by
  simp only [step, front]

theorem step_of_empty {s : State} (empty : s.pending = []) : step s = .next s := by
  simp only [step, empty]

theorem exec_pending {i : Instr} {s t : State} (answered : exec i s = .next t) : t.pending = s.pending := by
  obtain ⟨queue, -, -⟩ := exec_keeps i s t answered
  exact queue

/-! ### The statements -/

/-- Settles O1: `step` by the front of its queue. -/
theorem stepRunsTheFrontCommand : Obligations.StepRunsTheFrontCommand :=
  ⟨fun _ _ _ => step_of_front rfl, fun _ => step_of_empty⟩

/-- Settles O60: the answer by `exec_goes`, the queue by `exec_keeps`, and the step's queue by its front command. -/
theorem everyCommandGoesOnAndKeepsTheQueue : Obligations.EveryCommandGoesOnAndKeepsTheQueue :=
  ⟨exec_goes, fun _ _ _ => exec_pending, fun _ _ _ _ front stepped => exec_pending (step_of_front front ▸ stepped)⟩

end Sys2Proof.Machine

/-!
PROOFS. Samples, thermal levels, the fast limiter and DVFS (R435 to R439, R445).
-/

namespace Sys2Proof.Machine

theorem boot_ne_off_of_fwRuns {s : State} (runs : fwRuns s = true) : s.power.boot ≠ .off := fun off => by
  simp [fwRuns, off] at runs

/-- An entry of a list that has one for each compute die. -/
theorem nth_map_dies (f : Nat → Nat) {d : Nat} (h : d < 24) : nth 0 ((rangeFrom 0 24).map f) d = f d := by
  rw [nth_map_rangeFrom_of_lt _ _ _ h, Nat.zero_add]

/-! ### A sample (R437, R445) -/

/-- What the records of a sample and the cap loop leave as the sample has set it: memory, the contexts, the sample itself, the coolant's warning
and the thermal levels. -/
def climate (s : State) : Memory × NMap Ctx × Option Samples × Bool × List Nat :=
  (s.mem, s.ctxs, s.power.lastSample, s.power.coolantWarn, s.power.thermLevel)

theorem climate_foldl_takeSensor : ∀ (l : List (Nat × Nat × Nat)) (s : State), climate (l.foldl takeSensor s) = climate s
  | [], _ => rfl
  | x :: l, s => climate_foldl_takeSensor l (takeSensor s x)

theorem climate_takeSensors (s : State) (x : Samples) : climate (takeSensors s x) = climate s := climate_foldl_takeSensor ..

theorem climate_ite {p : Prop} [Decidable p] {s a b : State} (ha : climate a = climate s) (hb : climate b = climate s) :
    climate (if p then a else b) = climate s := by
  split
  · exact ha
  · exact hb

theorem climate_capDown (s : State) (x : Samples) : climate (capDown s x) = climate s := climate_ite rfl rfl

theorem climate_capUp (s : State) : climate (capUp s) = climate s := by
  unfold capUp
  split
  · rfl
  · rfl

theorem climate_capLoop (s : State) (x : Samples) : climate (capLoop s x) = climate s :=
  climate_ite (climate_capDown ..) (climate_ite (climate_capUp _) rfl)

/-- The coolant is too warm, or takes up too much heat (R445). -/
def coolantHot (x : Samples) : Bool := decide (40000 < x.inletMc) || decide (x.inletMc + 20000 < x.outletMc)

/-- The thermal levels after a sample: a die goes up to the level its sensors meet and does not come down (R445). -/
def levelsAfter (s : State) (x : Samples) : List Nat :=
  (rangeFrom 0 24).map (fun d => max (nth 0 s.power.thermLevel d) (heatLevel (heat s.order x d)))

theorem exec_sensorSample {s : State} (runs : fwRuns s = true) (x : Samples) :
    ∃ t, exec (.sensorSample x) s = .next t ∧ climate t = (s.mem, s.ctxs, some x, coolantHot x, levelsAfter s x) := by
  have taken : ¬ fwRuns s = false := by simp [runs]
  refine ⟨_, if_neg taken, ?_⟩
  rw [climate_capLoop, climate_takeSensors]
  exact climate_ite rfl rfl

/-! ### The other events -/

theorem exec_converterFailure {s : State} (runs : fwRuns s = true) {n : Nat} (converter : n < 8) (left : s.power.convLost < 8) :
    let counted := logFree { s with power := { s.power with convLost := s.power.convLost + 1 } } 24
    exec (.converterFailure n) s = .next (if effCapMw counted < 3000000 then enterHold counted true else counted) := by
  have taken : ¬ (8 ≤ n ∨ 8 ≤ s.power.convLost ∨ fwRuns s = false) := by simp [converter, left, runs]
  exact if_neg taken

theorem exec_thermalLevelExit {s : State} {x : Samples} {d : Nat} (sampled : s.power.lastSample = some x) (hot : nth 0 s.power.thermLevel d ≠ 0)
    (cooled : coolBelow (heat s.order x d) (nth 0 s.power.thermLevel d) = true) :
    exec (.thermalLevelExit d) s = .next { s with
      power := { s.power with thermLevel := setNth s.power.thermLevel d (nth 0 s.power.thermLevel d - 1) } } := by
  change execThermalLevelExit d s = _
  simp [execThermalLevelExit, sampled, hot, cooled]

theorem exec_fastLimiter {s : State} (on : s.power.boot ≠ .off) : exec .fastLimiter s =
    .next (logFree { s with power := { s.power with fastLevel := (rangeFrom 0 24).map (fun d => min 3 (demand s.power d + 1)) } } 24) :=
  if_neg on

/-- The level one step away from a die's own, toward its demand (R436). -/
def towardDemand (p : Power) (d : Nat) : Nat := if nth 0 p.level d < demand p d then nth 0 p.level d + 1 else nth 0 p.level d - 1

theorem exec_dvfsStep {s : State} {d : Nat} (die : d < 24) (apart : nth 0 s.power.level d ≠ demand s.power d) : exec (.dvfsStep d) s =
    .next (logFree { s with power := { s.power with level := setNth s.power.level d (towardDemand s.power d) } } d) :=
  if_neg fun idle => idle.elim (Nat.not_le.2 die) apart

theorem exec_dispatchRampStage {s : State} (ready : s.power.boot = .ready) :
    exec .dispatchRampStage s = .next { s with power := { s.power with rampStage := s.power.rampStage + 1 } } :=
  congrArg Host.Outcome.next (if_pos ready)

/-- Settles O55: a sample by the `climate` it leaves, the steps of one die by the entry of its list that they replace. -/
theorem powerLoopsStepTheLevels : Obligations.PowerLoopsStepTheLevels := by
  unfold Obligations.PowerLoopsStepTheLevels
  intro s runs
  refine ⟨fun n => exec_converterFailure runs, fun x => ?_, fun x d => exec_thermalLevelExit, ?_, fun d die apart full => ?_, exec_dispatchRampStage⟩
  · obtain ⟨t, sampled, left⟩ := exec_sensorSample runs x
    simp only [climate, Prod.mk.injEq] at left
    obtain ⟨mem, ctxs, last, warn, therm⟩ := left
    exact ⟨t, sampled, last, mem, ctxs, warn, fun d die => by rw [therm, levelsAfter, nth_map_dies _ die]⟩
  · exact ⟨_, exec_fastLimiter (boot_ne_off_of_fwRuns runs), fun d die => nth_map_dies (fun d => min 3 (demand s.power d + 1)) die, rfl, rfl⟩
  · exact ⟨_, exec_dvfsStep die apart, fun k other => nth_setNth_ne _ _ _ _ _ other.symm, rfl, nth_setNth_same _ _ _ _ (full ▸ die)⟩

end Sys2Proof.Machine
